-- ==== Sys2Proof/Word.lean ====
section
/-! DEFINITION. The words of the Birloth: registers, pairs, bytes, encoded words (R5, R6, R24). -/

namespace Sys2Proof

/-- A general register: 32 bits (R9). -/
abbrev Word := BitVec 32
/-- A pair, a b register or a 64-bit system register (R9, R12). -/
abbrev DWord := BitVec 64
/-- A quad (R25). -/
abbrev QWord := BitVec 128
/-- One byte of memory (R6). -/
abbrev Byte := BitVec 8
/-- A K-form word or prefix: 16 bits (R51). -/
abbrev Half := BitVec 16
/-- A register number; 6 bits name g0-g63 (R11). -/
abbrev Reg := BitVec 6

end Sys2Proof
end

