-- ==== Sys2Proof/Types.lean ====
section
/-! DEFINITION. The names the manual gives to fixed choices, the operand record of an instruction, and the data that
the device's events carry. -/

namespace Sys2Proof

/-! ## Fixed choices of the instruction set -/

/-- The two encodings of an instruction (R49). -/
inductive Form where
  | k | w
  deriving DecidableEq, Repr

/-- The kinds of core that issue instructions (R180, R190, R455). -/
inductive CoreKind where
  | dcore | lcore | eave
  deriving DecidableEq, Repr

/-- The operand classes of R64. -/
inductive Cls where
  | a | ax | i | ix | s | m | j
  deriving DecidableEq, Repr

/-- The comparison conditions of R92, in code order. -/
inductive Cond where
  | eq | ne | lt | le | gt | ge | ltn | len | gtn | gen
  deriving DecidableEq, Repr

/-- The floating-point conditions of R128, in code order. -/
inductive FCond where
  | eq | ne | lt | le | gt | ge | un | or
  deriving DecidableEq, Repr

/-- The floating-point types of R119, in code order. -/
inductive FType where
  | f32 | f64 | f16 | bf16 | f16x2 | bf16x2
  deriving DecidableEq, Repr

/-- The size codes of R140, in code order. -/
inductive ISize where
  | s8 | n8 | s16 | n16 | w32 | w64 | w128
  deriving DecidableEq, Repr

/-- The size bit of R89 and R140. -/
inductive Width where
  | w32 | w64
  deriving DecidableEq, Repr

/-- The scopes of R58 and R413, in code order. -/
inductive Scope where
  | none | strand | core | truss | bay | die | pkg | sys
  deriving DecidableEq, Repr

/-- The atomic operations of R159, in FN order. -/
inductive AtomOp where
  | add | and | or | xor | min | max | minn | maxn | xchg | fadd
  deriving DecidableEq, Repr

/-- The source-lane rules of SHFL (R304), in FN order. -/
inductive ShflMode where
  | pick | lo | hi | mix | rot
  deriving DecidableEq, Repr

/-- The combinations of VOTE (R305), in FN order. -/
inductive VoteMode where
  | every | some | mask | same | maskhi | count
  deriving DecidableEq, Repr

/-- The combinations of RSEG and SCAN (R306), in FN order. -/
inductive LaneOp where
  | add | and | or | xor | min | max | minn | maxn | fadd | fmin | fmax
  deriving DecidableEq, Repr

/-- The rounding modes of R13, in code order, and stochastic rounding (R48). -/
inductive Rounding where
  | rne | rtz | rup | rdn | sr
  deriving DecidableEq, Repr

/-- The preset tables of R318, in code order. -/
inductive Preset where
  | e4m3 | e5m2 | e3m2 | e2m1 | int8
  deriving DecidableEq, Repr

/-- The shape codes of R319. -/
structure Shape where
  m : BitVec 2
  n : BitVec 2
  k : BitVec 2
  deriving DecidableEq, Repr

/-! ## Operands -/

/-- The modifier field G (R58). -/
structure Mods where
  rlx   : Bool := false
  scope : Scope := .none
  sat   : Bool := false
  sr    : Bool := false
  /-- Skip count minus 1. -/
  cnt   : BitVec 2 := 0
  deriving DecidableEq, Repr

/-- The address descriptor of a class-M instruction (R67). -/
structure Desc where
  base  : BitVec 3 := 0
  scale : BitVec 3 := 0
  ext   : Bool := false
  mode  : BitVec 2 := 0
  deriving DecidableEq, Repr

/-- The operand fields of an instruction, with the parts of its encoding that its length depends on (R64, R65).
A field that the instruction's class does not have is zero. -/
structure Opnds where
  form : Form
  /-- Number of IMM prefixes (K-form; R55). -/
  nImm : Nat := 0
  /-- A REG prefix is present (K-form; R56). -/
  reg  : Bool := false
  /-- A MOD prefix is present (K-form; R58). -/
  mod  : Bool := false
  x    : Reg := 0
  y    : Reg := 0
  z    : Reg := 0
  /-- s2 is the head of load queue z[0] (R56). -/
  zq   : Bool := false
  /-- Filled entries waited for, minus 1. -/
  wait : BitVec 3 := 0
  /-- The result goes to store queue x[0] (R56). -/
  xq   : Bool := false
  /-- The immediate, sign-extended to 64 bits (R66). -/
  imm  : DWord := 0
  g    : Mods := {}
  desc : Desc := {}
  deriving DecidableEq, Repr

/-! ## Data of the device's events -/

/-- Who awaits the answer to a launch or a graph load: a lane of a context, or the Purlin of a die for a node's cookie
(R364, R378, R382, R384). -/
inductive Answerer where
  | nobody
  | lane (ctx : Nat) (l : Nat)
  | purlin (die : Nat) (cookie : Nat)
  deriving DecidableEq, Repr

/-- A message: the header fields of R218 and the 48 payload bytes. `src` and `dst` are bits 31:8 of node ids. -/
structure Msg where
  dst   : Nat
  cls   : Nat
  rel   : Bool
  fsens : Bool
  txr   : Bool
  src   : Nat
  flow  : Nat
  task  : BitVec 24
  stamp : Word
  payload : List Byte
  /-- A non-delivery notice (R223). -/
  notice  : Bool := false
  /-- Who awaits the admission unit's answer. -/
  who     : Answerer := .nobody
  deriving DecidableEq, Repr

/-- What a lane does at a home or in a queue fill: the read, update or write of R148, R159-R161. -/
inductive MemOp where
  | load  (sz : ISize)
  | store (sz : ISize)
  | atom  (op : AtomOp) (w : Width)
  | red   (op : AtomOp) (w : Width)
  | cas   (w : Width)
  | afn   (f : BitVec 4) (w : Width)
  /-- The compare and arm step of SPIN (R207). -/
  | spin  (w : Width)
  /-- A line fetched for FGET or a read of a copy engine. -/
  | sector
  deriving DecidableEq, Repr

/-- One lane's part of an access: its virtual and physical address and its data operand (for CAS the expected value in
the low half of the operand and the new value in the high half). -/
structure LaneAcc where
  lane : Nat
  va   : DWord
  pa   : Nat
  /-- The attribute of its page (R425). -/
  attr : Nat
  data : QWord
  /-- For AFN, the function word that its home's check read (R161, R350). -/
  word : DWord := 0
  deriving DecidableEq, Repr

/-- The engine and copy queues (R324, R459), by the unit that holds them. -/
inductive QueueId where
  /-- Matrix queue of a Truss. -/
  | matrix (truss : Nat)
  /-- Gather queue of a Truss. -/
  | gather (truss : Nat)
  /-- Slice queue of a core. -/
  | slice (core : Nat)
  /-- Copy queue of a Truss or Gable. -/
  | copyT (truss : Nat)
  /-- Copy queue of an Eave core. -/
  | copyE (core : Nat)
  deriving DecidableEq, Repr

/-- An access of one instruction that completes later: the context, the operation, the destination and the lanes
(R145, R147). `ticket` is the context's write ticket on an L-core (R193). -/
structure Access where
  ctx   : Nat
  op    : MemOp
  x     : Reg
  lanes : List LaneAcc
  ticket : Nat
  /-- The instruction's address. -/
  pc    : DWord
  /-- The values by lane, where the homes have performed it and they are only on their way back (R147). -/
  vals  : Option (List (Nat × Nat)) := none
  /-- The queue and the number of the FGET entry whose sector it reads (R488). -/
  entry : Option (QueueId × Nat) := none
  deriving DecidableEq, Repr

/-- A relaxed store or reduction on its way to its home (R147). -/
structure PostedOp where
  ctx  : Nat
  op   : MemOp
  acc  : LaneAcc
  /-- The bytes of an FPUT block, and the 8-byte words of it that are still out once some are performed (R487). -/
  bytes : List Byte := []
  left  : Option (List Nat) := none
  /-- The instruction that it belongs to, by the free counter at its issue (R148, R158). -/
  group : Nat := 0
  deriving DecidableEq, Repr

/-- A queue entry taken by LDQ or STQ (R151, R152). -/
structure QueueOp where
  ctx   : Nat
  lane  : Nat
  /-- 0 lq0, 1 lq1, 2 sq0, 3 sq1. -/
  queue : Nat
  entry : Nat
  sz    : ISize
  va    : DWord
  pa    : Nat
  attr  : Nat
  data  : Word
  /-- The instruction's address. -/
  pc    : DWord
  /-- The fill of its line has met an uncorrectable error (R151, R458). -/
  bad   : Bool := false
  /-- It could not reach the other package (R483). -/
  lost  : Bool := false
  deriving DecidableEq, Repr

/-- The kernel that a context runs, from its descriptor (R495). -/
structure Kernel where
  desc  : DWord := 0
  kent  : DWord := 0
  went  : DWord := 0
  kbase : DWord := 0
  wbase : DWord := 0
  eqrec : DWord := 0
  neq   : Nat := 0
  kneed : Nat := 0
  wneed : Nat := 0
  wcode : Nat := 0
  lease : Nat := 0
  kpf   : DWord := 0
  nkpf  : Nat := 0
  wpf   : DWord := 0
  nwpf  : Nat := 0
  deriving DecidableEq, Repr

/-- A spawn record (R198). `regs` is g0-g3 of each lane of the new context. -/
structure SpawnRec where
  /-- The target core, bits 31:8 of its node id. -/
  target : Nat
  /-- FN 1: a course on a Truss or Gable. -/
  course : Bool
  pc     : DWord
  lanes  : List (Nat × List Word)
  b      : List DWord
  slim   : Word
  task   : BitVec 24
  ttb    : DWord
  rm     : BitVec 2
  txr    : Bool
  kernel : Kernel
  /-- The spawner: the context, the lane that is answered (none: all), its engine, and the parent word (R198). -/
  ctx    : Nat
  lane   : Option Nat
  src    : Nat
  parent : Word
  stamp  : Word
  deriving DecidableEq, Repr

/-- A wake on its way (R205). -/
structure WakeMsg where
  target : Nat
  /-- The core that sends it. -/
  src    : Nat := 0
  /-- g[s2+1]: slot or context, or bit 31 and a course number. -/
  word   : Word
  task   : BitVec 24
  stamp  : Word
  deriving DecidableEq, Repr

/-- The fields of a trap report: vector, reason, INFO, ASYNC, address and lane mask (R239, R240). -/
structure TrapInfo where
  vector : Nat
  reason : Nat := 0
  info   : Word := 0
  async  : Bool := false
  addr   : DWord := 0
  mask   : Word := 0
  deriving DecidableEq, Repr

/-- A death or refusal notice about to be sent (R247, R259). -/
structure Notice where
  /-- Core that executed TKILL or holds the journal. -/
  core   : Nat
  dst    : Nat
  task   : BitVec 24
  vector : Nat
  reason : Nat
  second : Nat := 0
  async  : Bool := false
  form   : Bool := false
  noeq   : Bool := false
  tpc    : DWord := 0
  txpc   : DWord := 0
  teq    : DWord := 0
  taddr  : DWord := 0
  tmask  : Word := 0
  deriving DecidableEq, Repr

/-- A kill or clear request at a package (R256, R257); at its origin, the core whose TKILL it came from and the notice
that follows it (R259). -/
structure KillReq where
  pkg    : Nat
  origin : Nat
  seq    : Nat
  tag    : BitVec 24
  clear  : Bool
  core   : Option Nat := none
  note   : Option Notice := none
  /-- The package that passed the request on, and its link (R256). -/
  via    : Option (Nat × Nat) := none
  deriving DecidableEq, Repr

/-- A home partial (R334): the element's address, its FP32 value, for .hmo its index and count, and the entry that sent
it. -/
structure Partial where
  pa    : Nat
  val   : Word
  seq   : Option (Nat × Nat)
  queue : QueueId
  entry : Nat
  deriving DecidableEq, Repr

/-- A router delivery of MCAST or RRED to one core (R353, R355). -/
structure Delivery where
  core  : Nat
  slot  : Nat
  off   : Nat
  bytes : List Byte
  task  : BitVec 24
  cc    : Nat
  /-- The sender's core, and the number of the MCAST or reduction, which counts once per Truss. -/
  src   : Nat
  id    : Nat
  /-- The flags that the counter takes, in their places in bits 38:33 less 33. -/
  flags : Nat
  deriving DecidableEq, Repr

/-- A non-posted request that crosses the fabric (R479, R480), with the access that waits for it. -/
structure FabricReq where
  src    : Nat
  dst    : Nat
  acc    : Access
  deriving DecidableEq, Repr

/-- The outcome of an access for its issuer (R145, R147): `own` where it was performed in the issuer's package when it
issued; else the lanes that were refused, with a vector and a reason, or the values that were read. -/
structure RemoteAns where
  acc     : Access
  own     : Bool
  refused : List (Nat × Nat × Nat)
  vals    : List (Nat × Nat)
  /-- The sector that was read is poisoned (R488). -/
  bad     : Bool := false
  deriving DecidableEq, Repr

/-- A slot of a flit (R476): the virtual channel, and the unit that its header names, by the number of its journey. -/
structure FlitSlot where
  vc   : Nat
  unit : Nat
  deriving DecidableEq, Repr

/-- A flit (R476): SEQ, ACK, the credits that it returns, 4 bits for each virtual channel (R477), up to three slots, and the
CRC that it carries. A slot that is not listed is empty. -/
structure Flit where
  seq  : Nat
  ack  : Nat
  credits : Word := 0
  slots : List FlitSlot
  crc  : DWord
  deriving DecidableEq, Repr

/-- A keeper image of a core that stage 4 loads (R470): entry, vector base, translation base, register need and private
bytes (R509). -/
structure KeeperImage where
  core  : Nat
  entry : DWord
  tvec  : DWord
  ttb   : DWord
  need  : Nat
  priv  : Nat
  /-- BASE and LOG2N of its class 0, and on an L-core the b6 that its buffer lies at (R216, R217). -/
  base  : Nat
  log2n : Nat
  b6    : DWord := 0
  deriving DecidableEq, Repr

/-- A unit that soft errors are counted for (R467). -/
inductive RasUnit where
  | core (core : Nat)
  | way  (die : Nat) (slice : Nat) (way : Nat)
  | eave (core : Nat)
  | link (pkg : Nat) (link : Nat)
  deriving DecidableEq, Repr

/-! ## Events -/

/-- An event with its data: a step of another part of the device that is due or on its way. -/
inductive Ev where
  /-- QUEUE_LOAD_FILL (R151). -/
  | queueLoadFill (q : QueueOp)
  /-- STORE_QUEUE_PERFORM (R152). -/
  | storeQueuePerform (q : QueueOp)
  /-- RELAXED_LOAD_RETURN (R145). -/
  | relaxedLoadReturn (a : Access)
  /-- RELAXED_STORE_PERFORM (R147). -/
  | relaxedStorePerform (p : PostedOp)
  /-- MULTI_ROTATION_HOLD_END (R183). -/
  | multiRotationHoldEnd (ctx : Nat) (lane : Nat)
  /-- PAGE_WALK (R427). -/
  | pageWalk (bay : Nat) (ttb : DWord) (va : DWord)
  /-- HOME_FILL (R458). -/
  | homeFill (pa : Nat) (corrected : Nat) (bad : List Nat)
  /-- JOURNAL_ENTRY_PERFORM (R244). -/
  | journalEntryPerform (core : Nat) (id : Nat)
  /-- JOURNAL_REFUSAL (R245). -/
  | journalRefusal (core : Nat) (id : Nat) (reason : Nat)
  /-- JOURNAL_REFUSAL_TRAP (R245). -/
  | journalRefusalTrap (ctx : Nat) (lane : Nat)
  /-- SPAWN_RECORD_ARRIVAL (R198). -/
  | spawnRecordArrival (r : SpawnRec)
  /-- SPAWN_ANSWER (R197). -/
  | spawnAnswer (ctx : Nat) (lane : Option Nat) (status : Nat) (src : Nat)
  /-- SPAWN_QUEUE_START (R199). -/
  | spawnQueueStart (core : Nat)
  /-- EXIT_RECORD_POST (R200). -/
  | exitRecordPost (core : Nat)
  /-- WAKE_ARRIVAL (R205). -/
  | wakeArrival (k : WakeMsg)
  /-- SLEEP_TIMEOUT (R204). -/
  | sleepTimeout (ctx : Nat) (lane : Nat)
  /-- SPIN_WAKE (R207), with the line that was written. -/
  | spinWake (ctx : Nat) (lane : Nat) (line : Nat)
  /-- YLD_CC_WAKE (R206). -/
  | yldCcWake (ctx : Nat) (lane : Nat)
  /-- MESSAGE_ARRIVAL (R219). -/
  | messageArrival (m : Msg)
  /-- MESSAGE_RETRY (R222). -/
  | messageRetry (core : Nat) (idx : Nat)
  /-- WINDOW_WRITE (R225). -/
  | windowWrite (pa : Nat) (writer : Option Nat) (bytes : List Byte)
  /-- TIMER_COMPARE (R248). -/
  | timerCompare (core : Nat)
  /-- INTERRUPT_ENTRY (R249). -/
  | interruptEntry (core : Nat)
  /-- PREEMPTION (R250). -/
  | preemption (ctx : Nat)
  /-- CONTEXT_RESUME (R253). -/
  | contextResume (ctx : Nat)
  /-- KILL_REQUEST_ARRIVAL (R257). -/
  | killRequestArrival (k : KillReq)
  /-- DEATH_NOTICE (R259). -/
  | deathNotice (n : Notice)
  /-- BREAKPOINT_STOP (R275). -/
  | breakpointStop (ctx : Nat) (lane : Nat) (n : Nat)
  /-- HALT_STOP (R279). -/
  | haltStop (ctx : Nat) (lane : Nat)
  /-- SINGLE_STEP_STOP (R279). -/
  | singleStepStop (ctx : Nat) (lane : Nat)
  /-- BEZEL_SELECT (R270). -/
  | bezelSelect (core : Nat)
  /-- SUMMARY_PERIOD (R266). -/
  | summaryPeriod (ctx : Nat)
  /-- FUSION (R289). -/
  | fusion (truss : Nat) (slot : Nat) (base : Nat) (n : Nat)
  /-- REFUSION (R297). -/
  | refusion (ctx : Nat)
  /-- BAR_RELEASE (R308). -/
  | barRelease (ctx : Nat)
  /-- ENGINE_ENTRY_START (R324). -/
  | engineEntryStart (q : QueueId)
  /-- ENGINE_ENTRY_COMPLETE (R326). -/
  | engineEntryComplete (q : QueueId)
  /-- HOME_PARTIAL_ADD (R334). -/
  | homePartialAdd (p : Partial)
  /-- ROUTER_DELIVERY (R353). -/
  | routerDelivery (d : Delivery)
  /-- REDUCTION_STEP (R354). -/
  | reductionStep (die : Nat) (id : Nat)
  /-- LAUNCH_ADMISSION (R364). -/
  | launchAdmission (m : Msg)
  /-- BUNDLE_RESIDENT (R374). -/
  | bundleResident (die : Nat) (launch : Nat) (bundle : Nat)
  /-- LAUNCH_ANSWER (R378). -/
  | launchAnswer (who : Answerer) (status : Nat) (src : Nat)
  /-- GRAPH_LOAD (R381). -/
  | graphLoad (die : Nat) (ctx : Nat) (lane : Nat) (header : DWord) (prio : Nat)
  /-- PURLIN_NODE_COMPLETE (R383). -/
  | purlinNodeComplete (m : Msg)
  /-- PARKED_FAULT_ANSWER (R434). -/
  | parkedFaultAnswer (m : Msg)
  /-- COURSE_ACTIVATION (R394). -/
  | courseActivation (truss : Nat)
  /-- FAIRNESS_DUE (R395). -/
  | fairnessDue (ctx : Nat)
  /-- FAIRNESS_DISPLACEMENT (R395). -/
  | fairnessDisplacement (ctx : Nat)
  /-- MIGRATION (R402). -/
  | migration (ctx : Nat)
  /-- COPY_ENTRY_COMPLETE (R461). -/
  | copyEntryComplete (q : QueueId)
  /-- THERMAL_TRIP (R466). -/
  | thermalTrip (pkg : Nat) (die : Nat)
  /-- SOFT_ERROR_THRESHOLD (R467). -/
  | softErrorThreshold (u : RasUnit)
  /-- SOFT_ERROR_WINDOW_END (R467). -/
  | softErrorWindowEnd (u : RasUnit)
  /-- TRACE_DRAIN (R469). -/
  | traceDrain (die : Nat)
  /-- RESET (R470). -/
  | reset (pkg : Nat)
  /-- MANAGEMENT_BOOT (R470). -/
  | managementBoot (pkg : Nat)
  /-- SIGNATURE_CHECK (R471): the images that are to be loaded, each with its signature. -/
  | signatureCheck (pkg : Nat) (images : List (List Byte × List Byte))
  /-- FIRMWARE_LOAD (R470). -/
  | firmwareLoad (pkg : Nat) (images : List KeeperImage) (code : List (Nat × List Byte))
  /-- HBM_TRAINING (R470). -/
  | hbmTraining (pkg : Nat) (gran : BitVec 3) (failed : List Nat)
  /-- FEATURE_NEGOTIATION (R473). -/
  | featureNegotiation (pkg : Nat)
  /-- KEEPER_RELEASE (R470). -/
  | keeperRelease (pkg : Nat)
  /-- ATTESTATION (R472), with the report that is to be signed. -/
  | attestation (pkg : Nat) (report : List Byte)
  /-- FLIT_RECEIVE (R476). -/
  | flitReceive (pkg : Nat) (link : Nat) (f : Flit)
  /-- LINK_FAILURE (R483). -/
  | linkFailure (pkg : Nat) (link : Nat)
  /-- ROUTE_CHANGE (R478). -/
  | routeChange (pkg : Nat) (dst : Nat) (v : Byte)
  /-- FABRIC_REQUEST_ARRIVAL (R480). -/
  | fabricRequestArrival (r : FabricReq)
  /-- HOST_PROXY_DELIVERY (R486). -/
  | hostProxyDelivery (m : Msg)
  /-- HOST_MEM_ACCESS (R484): a write, or a read of n bytes, through CXL.mem. -/
  | hostMemAccess (pa : Nat) (bytes : List Byte)
  | hostMemRead (pkg : Nat) (pa : Nat) (n : Nat)
  /-- A host access to BAR0 of a package (R484): a write, or a read of n bytes. -/
  | bar0Write (pkg : Nat) (off : Nat) (bytes : List Byte)
  | bar0Read (pkg : Nat) (off : Nat) (n : Nat)
  /-- HOST_REGISTER_WRITE (R485). -/
  | hostRegisterWrite (pkg : Nat) (off : Nat) (v : DWord)
  /-- LCARVE_WRITE (R187). -/
  | lcarveWrite (core : Nat) (v : DWord)
  /-- MCLS_WRITE (R215), with the physical buffer that its check has found on an L-core (R216). -/
  | mclsWrite (core : Nat) (c : BitVec 3) (v : DWord) (buf : Option Nat)
  /-- PRECTL_GO (R250). -/
  | prectlGo (core : Nat) (v : DWord)
  /-- PRECTL_REL (R250). -/
  | prectlRel (core : Nat) (v : DWord)
  /-- TKILL_KILL (R256). -/
  | tkillKill (core : Nat) (tag : BitVec 24)
  /-- TKILL_OWN (R256). -/
  | tkillOwn (core : Nat) (ctx : Nat) (lane : Nat)
  /-- TKILL_CLR (R256). -/
  | tkillClr (core : Nat) (tag : BitVec 24)
  /-- DBGCTL_GO (R279). -/
  | dbgctlGo (core : Nat) (v : DWord)
  /-- DBGCTL_STEP (R279). -/
  | dbgctlStep (core : Nat) (v : DWord)
  /-- DBGCTL_HALT (R279). -/
  | dbgctlHalt (core : Nat) (v : DWord)
  /-- BEZEL_WRITE (R270). -/
  | bezelWrite (core : Nat) (idx : Nat) (v : DWord)
  /-- LOSSCTL_FREEZE (R272). -/
  | losctlFreeze (core : Nat) (frz : Bool)
  /-- LOSSCTL_CLEAR (R272). -/
  | losctlClear (core : Nat) (frz : Bool)
  /-- REPLAY_ENABLE (R281). -/
  | replayEnable (core : Nat) (v : DWord)
  /-- LEASE_OC_WRITE (R394). -/
  | leaseOcWrite (truss : Nat) (v : DWord)
  /-- MIGREQ_GO (R404). -/
  | migreqGo (bay : Nat) (v : DWord)
  /-- MIGREQ_ANS (R405). -/
  | migreqAns (bay : Nat) (v : DWord)
  /-- RASCTL_RETIRE (R468). -/
  | rasctlRetire (die : Nat) (v : DWord)
  /-- ACCESS_PERFORMED (R145). -/
  | accessPerformed (a : RemoteAns)
  /-- A recall of a line that another package holds has reached that package (R482). -/
  | coherence (line : Nat) (pkg : Nat)
  /-- ROTATION_BOUNDARY (R271). -/
  | rotationBoundary (core : Nat)
  /-- MANAGEMENT_PROCESSOR_REQUEST (R248). -/
  | managementProcessorRequest (core : Nat)
  /-- POWER_GRANT (R466). -/
  | powerGrant (bay : Nat) (watts : Nat)
  /-- FLIT_REPLAY (R476). -/
  | flitReplay (pkg : Nat) (link : Nat) (ack : Nat)
  /-- BACKED_STORAGE_LOSS (R472). -/
  | backedStorageLoss (pkg : Nat)
  deriving DecidableEq, Repr

end Sys2Proof
end

