-- ==== Sys2Proof/Syntax.lean ====
section
/-! DEFINITION. The instructions and events of the Birloth: one constructor per row of spec/opcode_table.json, in the
table's order. Rows up to TLBI_ALL are instructions that a context issues; the rows after it are the steps that other
parts of the device take, and the data that such a step acts on stands in the state (`State.ev`). -/

namespace Sys2Proof

/-- One step of the device: an instruction with its operands, or an event. -/
inductive Instr where
  /-- MOV (R93). -/
  | mov (o : Opnds)
  /-- MOVI (R93). -/
  | movi (o : Opnds)
  /-- ADD (R96). -/
  | add (o : Opnds)
  /-- ADDI (R97). -/
  | addi (o : Opnds)
  /-- SUB (R96). -/
  | sub (o : Opnds)
  /-- AND (R96). -/
  | and (o : Opnds)
  /-- OR (R96). -/
  | or (o : Opnds)
  /-- XOR (R96). -/
  | xor (o : Opnds)
  /-- NOT (R96). -/
  | not (o : Opnds)
  /-- SHL_REG (R101). -/
  | shlReg (o : Opnds)
  /-- SHL_IMM (R101). -/
  | shlImm (o : Opnds)
  /-- SHR_REG (R101). -/
  | shrReg (o : Opnds)
  /-- SHR_IMM (R101). -/
  | shrImm (o : Opnds)
  /-- SAR_REG (R101). -/
  | sarReg (o : Opnds)
  /-- SAR_IMM (R101). -/
  | sarImm (o : Opnds)
  /-- SKP (R106). -/
  | skp (c : Cond) (o : Opnds)
  /-- SKPI (R106). -/
  | skpi (c : Cond) (o : Opnds)
  /-- SKB_SET (R106). -/
  | skbSet (o : Opnds)
  /-- SKB_CLR (R106). -/
  | skbClr (o : Opnds)
  /-- JMP (R111). -/
  | jmp (o : Opnds)
  /-- CALL (R112). -/
  | call (o : Opnds)
  /-- CALLI (R112). -/
  | calli (o : Opnds)
  /-- RET (R112). -/
  | ret (o : Opnds)
  /-- MARK (R290). -/
  | mark (o : Opnds)
  /-- JOIN (R290). -/
  | join (o : Opnds)
  /-- FRAME (R116). -/
  | frame (o : Opnds)
  /-- NOP (R117). -/
  | nop (o : Opnds)
  /-- LD (R148). -/
  | ld (sz : ISize) (o : Opnds)
  /-- ST (R148). -/
  | st (sz : ISize) (o : Opnds)
  /-- LEA (R95). -/
  | lea (o : Opnds)
  /-- BR (R53). -/
  | br (o : Opnds)
  /-- BR_W (R111). -/
  | brW (o : Opnds)
  /-- ADC (R98). -/
  | adc (o : Opnds)
  /-- SBC (R98). -/
  | sbc (o : Opnds)
  /-- ADDS (R96). -/
  | adds (w : Width) (o : Opnds)
  /-- SUBS (R96). -/
  | subs (w : Width) (o : Opnds)
  /-- MUL (R99). -/
  | mul (w : Width) (o : Opnds)
  /-- MULH (R99). -/
  | mulh (w : Width) (o : Opnds)
  /-- MULHN (R99). -/
  | mulhn (w : Width) (o : Opnds)
  /-- MULW (R99). -/
  | mulw (w : Width) (o : Opnds)
  /-- DIV (R100). -/
  | div (w : Width) (o : Opnds)
  /-- DIVN (R100). -/
  | divn (w : Width) (o : Opnds)
  /-- REM (R100). -/
  | rem (w : Width) (o : Opnds)
  /-- REMN (R100). -/
  | remn (w : Width) (o : Opnds)
  /-- MIN (R96). -/
  | min (w : Width) (o : Opnds)
  /-- MAX (R96). -/
  | max (w : Width) (o : Opnds)
  /-- MINN (R96). -/
  | minn (w : Width) (o : Opnds)
  /-- MAXN (R96). -/
  | maxn (w : Width) (o : Opnds)
  /-- ABS (R96). -/
  | abs (w : Width) (o : Opnds)
  /-- NEG (R96). -/
  | neg (w : Width) (o : Opnds)
  /-- ANDN (R96). -/
  | andn (w : Width) (o : Opnds)
  /-- ORN (R96). -/
  | orn (w : Width) (o : Opnds)
  /-- ROL_REG (R101). -/
  | rolReg (o : Opnds)
  /-- ROL_IMM (R101). -/
  | rolImm (o : Opnds)
  /-- ROR_REG (R101). -/
  | rorReg (o : Opnds)
  /-- ROR_IMM (R101). -/
  | rorImm (o : Opnds)
  /-- CLZ (R102). -/
  | clz (w : Width) (o : Opnds)
  /-- CTZ (R102). -/
  | ctz (w : Width) (o : Opnds)
  /-- POPC (R102). -/
  | popc (w : Width) (o : Opnds)
  /-- BREV (R102). -/
  | brev (w : Width) (o : Opnds)
  /-- BSWP (R102). -/
  | bswp (w : Width) (o : Opnds)
  /-- BFX (R103). -/
  | bfx (o : Opnds)
  /-- BFXN (R103). -/
  | bfxn (o : Opnds)
  /-- BFI (R103). -/
  | bfi (o : Opnds)
  /-- SEL (R104). -/
  | sel (k : BitVec 4) (o : Opnds)
  /-- MOVB_TO_G (R93). -/
  | movbToG (o : Opnds)
  /-- MOVB_TO_B (R94). -/
  | movbToB (o : Opnds)
  /-- SETC (R105). -/
  | setc (c : Cond) (o : Opnds)
  /-- SETB (R105). -/
  | setb (c : Cond) (o : Opnds)
  /-- FADD (R123). -/
  | fadd (t : FType) (o : Opnds)
  /-- FSUB (R123). -/
  | fsub (t : FType) (o : Opnds)
  /-- FMUL (R123). -/
  | fmul (t : FType) (o : Opnds)
  /-- FMA (R123). -/
  | fma (t : FType) (o : Opnds)
  /-- FNMA (R123). -/
  | fnma (t : FType) (o : Opnds)
  /-- FMIN (R124). -/
  | fmin (t : FType) (o : Opnds)
  /-- FMAX (R124). -/
  | fmax (t : FType) (o : Opnds)
  /-- FABS (R125). -/
  | fabs (t : FType) (o : Opnds)
  /-- FNEG (R125). -/
  | fneg (t : FType) (o : Opnds)
  /-- FDIV (R123). -/
  | fdiv (t : FType) (o : Opnds)
  /-- FSQRT (R123). -/
  | fsqrt (t : FType) (o : Opnds)
  /-- FRCP (R123). -/
  | frcp (t : FType) (o : Opnds)
  /-- FRSQ (R123). -/
  | frsq (t : FType) (o : Opnds)
  /-- FEXP2 (R126). -/
  | fexp2 (t : FType) (o : Opnds)
  /-- FLOG2 (R126). -/
  | flog2 (t : FType) (o : Opnds)
  /-- FSIN (R126). -/
  | fsin (t : FType) (o : Opnds)
  /-- FCOS (R126). -/
  | fcos (t : FType) (o : Opnds)
  /-- FCLS (R127). -/
  | fcls (t : FType) (o : Opnds)
  /-- FSKP (R129). -/
  | fskp (c : FCond) (t : FType) (o : Opnds)
  /-- FSETC (R130). -/
  | fsetc (c : FCond) (t : FType) (o : Opnds)
  /-- FRND (R131). -/
  | frnd (t : FType) (o : Opnds)
  /-- CVT (R133). -/
  | cvt (src : FType) (dst : FType) (o : Opnds)
  /-- CVTI (R134). -/
  | cvti (n : ISize) (t : FType) (o : Opnds)
  /-- CVTF (R135). -/
  | cvtf (n : ISize) (t : FType) (o : Opnds)
  /-- ENC8 (R136). -/
  | enc8 (t : FType) (o : Opnds)
  /-- DEC8 (R137). -/
  | dec8 (t : FType) (o : Opnds)
  /-- LDQ (R151). -/
  | ldq (sz : ISize) (o : Opnds)
  /-- STQ (R152). -/
  | stq (sz : ISize) (o : Opnds)
  /-- QADV (R156). -/
  | qadv (k : BitVec 3) (o : Opnds)
  /-- QRST (R156). -/
  | qrst (o : Opnds)
  /-- PREF (R157). -/
  | pref (t : BitVec 2) (o : Opnds)
  /-- LDL (R148). -/
  | ldl (sz : ISize) (o : Opnds)
  /-- STL (R148). -/
  | stl (sz : ISize) (o : Opnds)
  /-- ATOM (R159). -/
  | atom (op : AtomOp) (w : Width) (o : Opnds)
  /-- CAS (R160). -/
  | cas (w : Width) (o : Opnds)
  /-- RED (R159). -/
  | red (op : AtomOp) (w : Width) (o : Opnds)
  /-- AFN (R161). -/
  | afn (f : BitVec 4) (w : Width) (o : Opnds)
  /-- FENCE (R163). -/
  | fence (o : Opnds)
  /-- FENCE_ACQ (R163). -/
  | fenceAcq (o : Opnds)
  /-- FENCE_REL (R163). -/
  | fenceRel (o : Opnds)
  /-- CLASP (R288). -/
  | clasp (n : BitVec 2) (o : Opnds)
  /-- UNCLASP (R299). -/
  | unclasp (o : Opnds)
  /-- UNCLASP_JOIN (R299). -/
  | unclaspJoin (o : Opnds)
  /-- LANE (R302). -/
  | lane (o : Opnds)
  /-- LANE_ACT (R302). -/
  | laneAct (o : Opnds)
  /-- LANE_LIVE (R302). -/
  | laneLive (o : Opnds)
  /-- WIDTH (R302). -/
  | width (o : Opnds)
  /-- SHFL (R304). -/
  | shfl (m : ShflMode) (o : Opnds)
  /-- VOTE (R305). -/
  | vote (m : VoteMode) (o : Opnds)
  /-- RSEG (R306). -/
  | rseg (f : LaneOp) (o : Opnds)
  /-- SCAN (R306). -/
  | scan (f : LaneOp) (o : Opnds)
  /-- BAR (R308). -/
  | bar (o : Opnds)
  /-- CMODE_PRIVATE (R309). -/
  | cmodePrivate (o : Opnds)
  /-- CMODE_SHARED (R309). -/
  | cmodeShared (o : Opnds)
  /-- SPAWN_CTX (R197). -/
  | spawnCtx (o : Opnds)
  /-- SPAWN_COURSE (R197). -/
  | spawnCourse (o : Opnds)
  /-- QUIT (R200). -/
  | quit (o : Opnds)
  /-- REAP_POLL (R202). -/
  | reapPoll (o : Opnds)
  /-- REAP_WAIT (R202). -/
  | reapWait (o : Opnds)
  /-- REAP_FORCE (R202). -/
  | reapForce (o : Opnds)
  /-- SLEEP (R204). -/
  | sleep (o : Opnds)
  /-- WAKE (R205). -/
  | wake (o : Opnds)
  /-- YLD (R206). -/
  | yld (o : Opnds)
  /-- YLD_CC (R206). -/
  | yldCc (o : Opnds)
  /-- SPIN (R207). -/
  | spin (w : Width) (o : Opnds)
  /-- WSP_BIND (R208). -/
  | wspBind (o : Opnds)
  /-- WSP_READ (R208). -/
  | wspRead (o : Opnds)
  /-- GETS (R195). -/
  | gets (o : Opnds)
  /-- SETS (R195). -/
  | sets (o : Opnds)
  /-- CINV_DATA (R210). -/
  | cinvData (o : Opnds)
  /-- CINV_CODE (R210). -/
  | cinvCode (o : Opnds)
  /-- CINV_ALL (R210). -/
  | cinvAll (o : Opnds)
  /-- CWB_LINE (R210). -/
  | cwbLine (o : Opnds)
  /-- CWB_ALL (R210). -/
  | cwbAll (o : Opnds)
  /-- MSEND (R226). -/
  | msend (c : BitVec 3) (fs : Bool) (o : Opnds)
  /-- MBIND (R228). -/
  | mbind (c : BitVec 3) (o : Opnds)
  /-- MBIND_KEEP (R228). -/
  | mbindKeep (c : BitVec 3) (o : Opnds)
  /-- MBIND_UN (R228). -/
  | mbindUn (c : BitVec 3) (keep : Bool) (o : Opnds)
  /-- MWAIT_ALL (R229). -/
  | mwaitAll (c : BitVec 3) (o : Opnds)
  /-- MWAIT_ANY (R229). -/
  | mwaitAny (c : BitVec 3) (o : Opnds)
  /-- MACK (R230). -/
  | mack (c : BitVec 3) (o : Opnds)
  /-- MFMT (R317). -/
  | mfmt (o : Opnds)
  /-- MTAB (R318). -/
  | mtab (tbl : Bool) (t4 : Bool) (o : Opnds)
  /-- MTAB_PRESET (R318). -/
  | mtabPreset (tbl : Bool) (t4 : Bool) (p : Preset) (o : Opnds)
  /-- MMA (R329). -/
  | mma (sh : Shape) (o : Opnds)
  /-- MMAG (R330). -/
  | mmag (sh : Shape) (o : Opnds)
  /-- MZRO (R331). -/
  | mzro (sh : Shape) (o : Opnds)
  /-- MSTC (R333). -/
  | mstc (sh : Shape) (o : Opnds)
  /-- MLDC (R332). -/
  | mldc (sh : Shape) (o : Opnds)
  /-- GATH (R335). -/
  | gath (lg : BitVec 3) (i32 : Bool) (o : Opnds)
  /-- MQF (R328). -/
  | mqf (mask : BitVec 3) (o : Opnds)
  /-- LEASE (R388). -/
  | lease (o : Opnds)
  /-- LEASE_RD (R388). -/
  | leaseRd (o : Opnds)
  /-- MIGR_L (R400). -/
  | migrL (o : Opnds)
  /-- MIGR_D (R400). -/
  | migrD (o : Opnds)
  /-- MIGR_ANY (R400). -/
  | migrAny (o : Opnds)
  /-- WPUSH (R358). -/
  | wpush (o : Opnds)
  /-- WPOP_TAIL (R358). -/
  | wpopTail (o : Opnds)
  /-- WPOP_HEAD (R358). -/
  | wpopHead (o : Opnds)
  /-- MCAST (R353). -/
  | mcast (o : Opnds)
  /-- RRED_LAST (R354). -/
  | rredLast (o : Opnds)
  /-- RRED_ALL (R355). -/
  | rredAll (o : Opnds)
  /-- LNCH (R378). -/
  | lnch (o : Opnds)
  /-- LNCH_HW (R378). -/
  | lnchHw (o : Opnds)
  /-- GSUB (R384). -/
  | gsub (o : Opnds)
  /-- GDONE (R385). -/
  | gdone (o : Opnds)
  /-- GDONE_FAIL (R385). -/
  | gdoneFail (o : Opnds)
  /-- CPY (R462). -/
  | cpy (o : Opnds)
  /-- CPY_JOIN (R464). -/
  | cpyJoin (o : Opnds)
  /-- CPYR (R462). -/
  | cpyr (o : Opnds)
  /-- TSEND (R463). -/
  | tsend (o : Opnds)
  /-- TGET (R463). -/
  | tget (o : Opnds)
  /-- FPUT (R487). -/
  | fput (o : Opnds)
  /-- FGET (R488). -/
  | fget (o : Opnds)
  /-- XFENCE (R489). -/
  | xfence (o : Opnds)
  /-- XFENCE_PKG (R489). -/
  | xfencePkg (o : Opnds)
  /-- TRAP (R242). -/
  | trap (o : Opnds)
  /-- SYSC (R242). -/
  | sysc (o : Opnds)
  /-- ERET (R243). -/
  | eret (o : Opnds)
  /-- BRK (R242). -/
  | brk (o : Opnds)
  /-- TMARK (R273). -/
  | tmark (o : Opnds)
  /-- TFENCE (R435). -/
  | tfence (o : Opnds)
  /-- TLBI_PAGE (R436). -/
  | tlbiPage (o : Opnds)
  /-- TLBI_ASID (R436). -/
  | tlbiAsid (o : Opnds)
  /-- TLBI_ALL (R436). -/
  | tlbiAll (o : Opnds)
  /-- QUEUE_LOAD_FILL (R151). -/
  | queueLoadFill
  /-- STORE_QUEUE_PERFORM (R152). -/
  | storeQueuePerform
  /-- RELAXED_LOAD_RETURN (R145). -/
  | relaxedLoadReturn
  /-- RELAXED_STORE_PERFORM (R147). -/
  | relaxedStorePerform
  /-- MULTI_ROTATION_HOLD_END (R183). -/
  | multiRotationHoldEnd
  /-- PAGE_WALK (R427). -/
  | pageWalk
  /-- HOME_FILL (R458). -/
  | homeFill
  /-- JOURNAL_ENTRY_PERFORM (R244). -/
  | journalEntryPerform
  /-- JOURNAL_REFUSAL (R245). -/
  | journalRefusal
  /-- JOURNAL_REFUSAL_TRAP (R245). -/
  | journalRefusalTrap
  /-- SPAWN_RECORD_ARRIVAL (R198). -/
  | spawnRecordArrival
  /-- SPAWN_ANSWER (R197). -/
  | spawnAnswer
  /-- SPAWN_QUEUE_START (R199). -/
  | spawnQueueStart
  /-- EXIT_RECORD_POST (R200). -/
  | exitRecordPost
  /-- WAKE_ARRIVAL (R205). -/
  | wakeArrival
  /-- SLEEP_TIMEOUT (R204). -/
  | sleepTimeout
  /-- SPIN_WAKE (R207). -/
  | spinWake
  /-- YLD_CC_WAKE (R206). -/
  | yldCcWake
  /-- MESSAGE_ARRIVAL (R219). -/
  | messageArrival
  /-- MESSAGE_RETRY (R222). -/
  | messageRetry
  /-- WINDOW_WRITE (R225). -/
  | windowWrite
  /-- TIMER_COMPARE (R248). -/
  | timerCompare
  /-- INTERRUPT_ENTRY (R249). -/
  | interruptEntry
  /-- PREEMPTION (R250). -/
  | preemption
  /-- CONTEXT_RESUME (R253). -/
  | contextResume
  /-- KILL_REQUEST_ARRIVAL (R257). -/
  | killRequestArrival
  /-- DEATH_NOTICE (R259). -/
  | deathNotice
  /-- BREAKPOINT_STOP (R275). -/
  | breakpointStop
  /-- HALT_STOP (R279). -/
  | haltStop
  /-- SINGLE_STEP_STOP (R279). -/
  | singleStepStop
  /-- BEZEL_SELECT (R270). -/
  | bezelSelect
  /-- SUMMARY_PERIOD (R266). -/
  | summaryPeriod
  /-- FUSION (R289). -/
  | fusion
  /-- REFUSION (R297). -/
  | refusion
  /-- BAR_RELEASE (R308). -/
  | barRelease
  /-- ENGINE_ENTRY_START (R324). -/
  | engineEntryStart
  /-- ENGINE_ENTRY_COMPLETE (R326). -/
  | engineEntryComplete
  /-- HOME_PARTIAL_ADD (R334). -/
  | homePartialAdd
  /-- ROUTER_DELIVERY (R353). -/
  | routerDelivery
  /-- REDUCTION_STEP (R354). -/
  | reductionStep
  /-- LAUNCH_ADMISSION (R364). -/
  | launchAdmission
  /-- BUNDLE_RESIDENT (R374). -/
  | bundleResident
  /-- LAUNCH_ANSWER (R378). -/
  | launchAnswer
  /-- GRAPH_LOAD (R381). -/
  | graphLoad
  /-- PURLIN_NODE_COMPLETE (R383). -/
  | purlinNodeComplete
  /-- PARKED_FAULT_ANSWER (R434). -/
  | parkedFaultAnswer
  /-- COURSE_ACTIVATION (R394). -/
  | courseActivation
  /-- FAIRNESS_DUE (R395). -/
  | fairnessDue
  /-- FAIRNESS_DISPLACEMENT (R395). -/
  | fairnessDisplacement
  /-- MIGRATION (R402). -/
  | migration
  /-- COPY_ENTRY_COMPLETE (R461). -/
  | copyEntryComplete
  /-- THERMAL_TRIP (R466). -/
  | thermalTrip
  /-- SOFT_ERROR_THRESHOLD (R467). -/
  | softErrorThreshold
  /-- SOFT_ERROR_WINDOW_END (R467). -/
  | softErrorWindowEnd
  /-- TRACE_DRAIN (R469). -/
  | traceDrain
  /-- RESET (R470). -/
  | reset
  /-- MANAGEMENT_BOOT (R470). -/
  | managementBoot
  /-- SIGNATURE_CHECK (R471). -/
  | signatureCheck
  /-- FIRMWARE_LOAD (R470). -/
  | firmwareLoad
  /-- HBM_TRAINING (R470). -/
  | hbmTraining
  /-- FEATURE_NEGOTIATION (R473). -/
  | featureNegotiation
  /-- KEEPER_RELEASE (R470). -/
  | keeperRelease
  /-- ATTESTATION (R472). -/
  | attestation
  /-- FLIT_RECEIVE (R476). -/
  | flitReceive
  /-- LINK_FAILURE (R483). -/
  | linkFailure
  /-- ROUTE_CHANGE (R478). -/
  | routeChange
  /-- FABRIC_REQUEST_ARRIVAL (R480). -/
  | fabricRequestArrival
  /-- HOST_PROXY_DELIVERY (R486). -/
  | hostProxyDelivery
  /-- HOST_MEM_ACCESS (R484). -/
  | hostMemAccess
  /-- HOST_REGISTER_WRITE (R485). -/
  | hostRegisterWrite
  /-- LCARVE_WRITE (R187). -/
  | lcarveWrite
  /-- MCLS_WRITE (R215). -/
  | mclsWrite
  /-- PRECTL_GO (R250). -/
  | prectlGo
  /-- PRECTL_REL (R250). -/
  | prectlRel
  /-- TKILL_KILL (R256). -/
  | tkillKill
  /-- TKILL_OWN (R256). -/
  | tkillOwn
  /-- TKILL_CLR (R256). -/
  | tkillClr
  /-- DBGCTL_GO (R279). -/
  | dbgctlGo
  /-- DBGCTL_STEP (R279). -/
  | dbgctlStep
  /-- DBGCTL_HALT (R279). -/
  | dbgctlHalt
  /-- BEZEL_WRITE (R270). -/
  | bezelWrite
  /-- LOSSCTL_FREEZE (R272). -/
  | losctlFreeze
  /-- LOSSCTL_CLEAR (R272). -/
  | losctlClear
  /-- REPLAY_ENABLE (R281). -/
  | replayEnable
  /-- LEASE_OC_WRITE (R394). -/
  | leaseOcWrite
  /-- MIGREQ_GO (R404). -/
  | migreqGo
  /-- MIGREQ_ANS (R405). -/
  | migreqAns
  /-- RASCTL_RETIRE (R468). -/
  | rasctlRetire
  /-- ACCESS_PERFORMED (R145). -/
  | accessPerformed
  /-- ROTATION_BOUNDARY (R271). -/
  | rotationBoundary
  /-- MANAGEMENT_PROCESSOR_REQUEST (R248). -/
  | managementProcessorRequest
  /-- POWER_GRANT (R466). -/
  | powerGrant
  /-- FLIT_REPLAY (R476). -/
  | flitReplay
  /-- BACKED_STORAGE_LOSS (R472). -/
  | backedStorageLoss
  deriving DecidableEq, Repr

/-- The step that an event's data belongs to. -/
def Ev.kind : Ev → Instr
  | .queueLoadFill _ => .queueLoadFill
  | .storeQueuePerform _ => .storeQueuePerform
  | .relaxedLoadReturn _ => .relaxedLoadReturn
  | .relaxedStorePerform _ => .relaxedStorePerform
  | .multiRotationHoldEnd _ _ => .multiRotationHoldEnd
  | .pageWalk _ _ _ => .pageWalk
  | .homeFill _ _ _ => .homeFill
  | .journalEntryPerform _ _ => .journalEntryPerform
  | .journalRefusal _ _ _ => .journalRefusal
  | .journalRefusalTrap _ _ => .journalRefusalTrap
  | .spawnRecordArrival _ => .spawnRecordArrival
  | .spawnAnswer _ _ _ _ => .spawnAnswer
  | .spawnQueueStart _ => .spawnQueueStart
  | .exitRecordPost _ => .exitRecordPost
  | .wakeArrival _ => .wakeArrival
  | .sleepTimeout _ _ => .sleepTimeout
  | .spinWake _ _ _ => .spinWake
  | .yldCcWake _ _ => .yldCcWake
  | .messageArrival _ => .messageArrival
  | .messageRetry _ _ => .messageRetry
  | .windowWrite _ _ _ => .windowWrite
  | .timerCompare _ => .timerCompare
  | .interruptEntry _ => .interruptEntry
  | .preemption _ => .preemption
  | .contextResume _ => .contextResume
  | .killRequestArrival _ => .killRequestArrival
  | .deathNotice _ => .deathNotice
  | .breakpointStop _ _ _ => .breakpointStop
  | .haltStop _ _ => .haltStop
  | .singleStepStop _ _ => .singleStepStop
  | .bezelSelect _ => .bezelSelect
  | .summaryPeriod _ => .summaryPeriod
  | .fusion _ _ _ _ => .fusion
  | .refusion _ => .refusion
  | .barRelease _ => .barRelease
  | .engineEntryStart _ => .engineEntryStart
  | .engineEntryComplete _ => .engineEntryComplete
  | .homePartialAdd _ => .homePartialAdd
  | .routerDelivery _ => .routerDelivery
  | .reductionStep _ _ => .reductionStep
  | .launchAdmission _ => .launchAdmission
  | .bundleResident _ _ _ => .bundleResident
  | .launchAnswer _ _ _ => .launchAnswer
  | .graphLoad _ _ _ _ _ => .graphLoad
  | .purlinNodeComplete _ => .purlinNodeComplete
  | .parkedFaultAnswer _ => .parkedFaultAnswer
  | .courseActivation _ => .courseActivation
  | .fairnessDue _ => .fairnessDue
  | .fairnessDisplacement _ => .fairnessDisplacement
  | .migration _ => .migration
  | .copyEntryComplete _ => .copyEntryComplete
  | .thermalTrip _ _ => .thermalTrip
  | .softErrorThreshold _ => .softErrorThreshold
  | .softErrorWindowEnd _ => .softErrorWindowEnd
  | .traceDrain _ => .traceDrain
  | .reset _ => .reset
  | .managementBoot _ => .managementBoot
  | .signatureCheck _ _ => .signatureCheck
  | .coherence _ _ => .accessPerformed
  | .firmwareLoad _ _ _ => .firmwareLoad
  | .hbmTraining _ _ _ => .hbmTraining
  | .featureNegotiation _ => .featureNegotiation
  | .keeperRelease _ => .keeperRelease
  | .attestation _ _ => .attestation
  | .flitReceive _ _ _ => .flitReceive
  | .linkFailure _ _ => .linkFailure
  | .routeChange _ _ _ => .routeChange
  | .fabricRequestArrival _ => .fabricRequestArrival
  | .hostProxyDelivery _ => .hostProxyDelivery
  | .hostMemAccess _ _ => .hostMemAccess
  | .hostMemRead _ _ _ => .hostMemAccess
  | .bar0Read _ _ _ => .hostMemAccess
  | .bar0Write _ off _ => if off < 0x400000 then .windowWrite else .hostRegisterWrite
  | .hostRegisterWrite _ _ _ => .hostRegisterWrite
  | .lcarveWrite _ _ => .lcarveWrite
  | .mclsWrite _ _ _ _ => .mclsWrite
  | .prectlGo _ _ => .prectlGo
  | .prectlRel _ _ => .prectlRel
  | .tkillKill _ _ => .tkillKill
  | .tkillOwn _ _ _ => .tkillOwn
  | .tkillClr _ _ => .tkillClr
  | .dbgctlGo _ _ => .dbgctlGo
  | .dbgctlStep _ _ => .dbgctlStep
  | .dbgctlHalt _ _ => .dbgctlHalt
  | .bezelWrite _ _ _ => .bezelWrite
  | .losctlFreeze _ _ => .losctlFreeze
  | .losctlClear _ _ => .losctlClear
  | .replayEnable _ _ => .replayEnable
  | .leaseOcWrite _ _ => .leaseOcWrite
  | .migreqGo _ _ => .migreqGo
  | .migreqAns _ _ => .migreqAns
  | .rasctlRetire _ _ => .rasctlRetire
  | .accessPerformed _ => .accessPerformed
  | .rotationBoundary _ => .rotationBoundary
  | .managementProcessorRequest _ => .managementProcessorRequest
  | .powerGrant _ _ => .powerGrant
  | .flitReplay _ _ _ => .flitReplay
  | .backedStorageLoss _ => .backedStorageLoss

end Sys2Proof
end

