-- ==== Sys2Proof/Machine/Fields.lean ====
section
/-! DEFINITION. What each instruction does with its operand fields (R64-R68): the codes of its suffixes, which
fields name registers, pairs or quads, which it must leave 0, and the checks of R75 on them. The well-formedness of
an instruction and the decoder share these checks. -/

namespace Sys2Proof

/-! ## Codes of suffixes -/

/-- R92. -/
def condCode : Cond → Nat
  | .eq => 0 | .ne => 1 | .lt => 2 | .le => 3 | .gt => 4 | .ge => 5 | .ltn => 6 | .len => 7 | .gtn => 8 | .gen => 9

/-- R92. -/
def condOf : Nat → Option Cond
  | 0 => some .eq | 1 => some .ne | 2 => some .lt | 3 => some .le | 4 => some .gt | 5 => some .ge
  | 6 => some .ltn | 7 => some .len | 8 => some .gtn | 9 => some .gen | _ => none

/-- The cell offset of SKP from op 16 (R69, R106): six conditions only. -/
def skpCode : Cond → Nat
  | .eq => 0 | .ne => 1 | .lt => 2 | .ge => 3 | .ltn => 4 | .gen => 5 | _ => 6

/-- R69, R106. -/
def skpOf : Nat → Option Cond
  | 0 => some .eq | 1 => some .ne | 2 => some .lt | 3 => some .ge | 4 => some .ltn | 5 => some .gen | _ => none

/-- R128. -/
def fcondCode : FCond → Nat
  | .eq => 0 | .ne => 1 | .lt => 2 | .le => 3 | .gt => 4 | .ge => 5 | .un => 6 | .or => 7

/-- R128. -/
def fcondOf : Nat → Option FCond
  | 0 => some .eq | 1 => some .ne | 2 => some .lt | 3 => some .le | 4 => some .gt | 5 => some .ge
  | 6 => some .un | 7 => some .or | _ => none

/-- R119. -/
def ftypeCode : FType → Nat
  | .f32 => 0 | .f64 => 1 | .f16 => 2 | .bf16 => 3 | .f16x2 => 4 | .bf16x2 => 5

/-- R119. -/
def ftypeOf : Nat → Option FType
  | 0 => some .f32 | 1 => some .f64 | 2 => some .f16 | 3 => some .bf16 | 4 => some .f16x2 | 5 => some .bf16x2
  | _ => none

/-- R140. -/
def isizeCode : ISize → Nat
  | .s8 => 0 | .n8 => 1 | .s16 => 2 | .n16 => 3 | .w32 => 4 | .w64 => 5 | .w128 => 6

/-- R140. -/
def isizeOf : Nat → Option ISize
  | 0 => some .s8 | 1 => some .n8 | 2 => some .s16 | 3 => some .n16 | 4 => some .w32 | 5 => some .w64
  | 6 => some .w128 | _ => none

/-- The bytes of a size (R24). -/
def isizeBytes : ISize → Nat
  | .s8 => 1 | .n8 => 1 | .s16 => 2 | .n16 => 2 | .w32 => 4 | .w64 => 8 | .w128 => 16

/-- The cell offset of ST from op 49 (R69): five sizes only. -/
def stCode : ISize → Nat
  | .n8 => 0 | .n16 => 1 | .w32 => 2 | .w64 => 3 | .w128 => 4 | _ => 5

/-- R69. -/
def stOf : Nat → Option ISize
  | 0 => some .n8 | 1 => some .n16 | 2 => some .w32 | 3 => some .w64 | 4 => some .w128 | _ => none

/-- The size bit (R89, R140). -/
def widthCode : Width → Nat
  | .w32 => 0 | .w64 => 1

/-- R89, R140. -/
def widthOf : Nat → Option Width
  | 0 => some .w32 | 1 => some .w64 | _ => none

/-- R58. -/
def scopeCode : Scope → Nat
  | .none => 0 | .strand => 1 | .core => 2 | .truss => 3 | .bay => 4 | .die => 5 | .pkg => 6 | .sys => 7

/-- R58: three bits, so every code is a scope. -/
def scopeOf (n : BitVec 3) : Scope :=
  match n.toNat with
  | 0 => .none | 1 => .strand | 2 => .core | 3 => .truss | 4 => .bay | 5 => .die | 6 => .pkg | _ => .sys

/-- R159. -/
def atomCode : AtomOp → Nat
  | .add => 0 | .and => 1 | .or => 2 | .xor => 3 | .min => 4 | .max => 5 | .minn => 6 | .maxn => 7 | .xchg => 8
  | .fadd => 9

/-- R159. -/
def atomOf : Nat → Option AtomOp
  | 0 => some .add | 1 => some .and | 2 => some .or | 3 => some .xor | 4 => some .min | 5 => some .max
  | 6 => some .minn | 7 => some .maxn | 8 => some .xchg | 9 => some .fadd | _ => none

/-- R304. -/
def shflCode : ShflMode → Nat
  | .pick => 0 | .lo => 1 | .hi => 2 | .mix => 3 | .rot => 4

/-- R304. -/
def shflOf : Nat → Option ShflMode
  | 0 => some .pick | 1 => some .lo | 2 => some .hi | 3 => some .mix | 4 => some .rot | _ => none

/-- R305. -/
def voteCode : VoteMode → Nat
  | .every => 0 | .some => 1 | .mask => 2 | .same => 3 | .maskhi => 4 | .count => 5

/-- R305. -/
def voteOf : Nat → Option VoteMode
  | 0 => some .every | 1 => some .some | 2 => some .mask | 3 => some .same | 4 => some .maskhi | 5 => some .count
  | _ => none

/-- R306. -/
def laneOpCode : LaneOp → Nat
  | .add => 0 | .and => 1 | .or => 2 | .xor => 3 | .min => 4 | .max => 5 | .minn => 6 | .maxn => 7 | .fadd => 8
  | .fmin => 9 | .fmax => 10

/-- R306. -/
def laneOpOf : Nat → Option LaneOp
  | 0 => some .add | 1 => some .and | 2 => some .or | 3 => some .xor | 4 => some .min | 5 => some .max
  | 6 => some .minn | 7 => some .maxn | 8 => some .fadd | 9 => some .fmin | 10 => some .fmax | _ => none

/-- R318. -/
def presetCode : Preset → Nat
  | .e4m3 => 0 | .e5m2 => 1 | .e3m2 => 2 | .e2m1 => 3 | .int8 => 4

/-- R318. -/
def presetOf : Nat → Option Preset
  | 0 => some .e4m3 | 1 => some .e5m2 | 2 => some .e3m2 | 3 => some .e2m1 | 4 => some .int8 | _ => none

/-! ## Operand signatures -/

/-- What a register field names: nothing (it must be 0), a register, a pair, a quad, a b register, or a code of its own. -/
inductive RegUse where
  | no | r | p | q | b | code
  deriving DecidableEq, Repr

/-- The registers that an instruction names and the modifier fields that it accepts (R58, R65, R68). -/
structure Sig where
  x     : RegUse := .no
  /-- x is also a source, so the K-form needs REG (R65). -/
  xRead : Bool := false
  s1    : RegUse := .no
  s2    : RegUse := .no
  /-- A queue may stand for s2 or x (R65, R91, R121). -/
  zqOk  : Bool := false
  xqOk  : Bool := false
  rlx   : Bool := false
  scope : Bool := false
  sat   : Bool := false
  sr    : Bool := false
  cnt   : Bool := false
  deriving DecidableEq, Repr

/-- A register or a pair, by the size bit (R89). -/
def RegUse.ofWidth : Width → RegUse
  | .w32 => .r | .w64 => .p

/-- The registers of a memory datum (R140). -/
def RegUse.ofSize : ISize → RegUse
  | .w64 => .p | .w128 => .q | _ => .r

/-- The registers of a float type (R119). -/
def RegUse.ofType : FType → RegUse
  | .f64 => .p | _ => .r

/-- Two sources and a written x, all of one width; queues only on 32-bit operands (R65, R91). -/
def Sig.two (u : RegUse) : Sig := { x := u, s1 := u, s2 := u, zqOk := u == .r, xqOk := u == .r }

/-- One source and a written x (R65, R91). -/
def Sig.one (ux us : RegUse) : Sig := { x := ux, s2 := us, zqOk := us == .r, xqOk := ux == .r && us == .r }

/-- One source and a written x of a conversion or a test (R65, R121): each queue operand is judged by its own width. -/
def Sig.oneF (ux us : RegUse) : Sig := { x := ux, s2 := us, zqOk := us == .r, xqOk := ux == .r }

/-- Class M with data in x (R140). -/
def Sig.mem (u : RegUse) (rlx : Bool) : Sig := { x := u, rlx := rlx }

/-- R65-R68 with each instruction's own rule. -/
def Instr.sig : Instr → Sig
  -- page 0 (R93-R117)
  | .mov _ | .not _ => .one .r .r
  | .movi _ | .addi _ | .shlImm _ | .shrImm _ | .sarImm _ | .rolImm _ | .rorImm _ => { x := .r }
  | .add _ | .sub _ | .and _ | .or _ | .xor _ | .shlReg _ | .shrReg _ | .sarReg _ | .rolReg _ | .rorReg _ => .two .r
  | .skp _ _ => { x := .r, s2 := .r, cnt := true }
  | .skpi _ _ => { x := .r, cnt := true }
  | .skbSet _ | .skbClr _ => { x := .r, s2 := .code, cnt := true }
  | .jmp _ | .call _ | .mark _ | .join _ | .nop _ | .br _ | .brW _ => {}
  | .calli _ => { s2 := .p }
  | .ret _ => { s2 := .r }
  | .frame _ => { x := .code }
  | .ld sz _ | .st sz _ => .mem (.ofSize sz) true
  | .lea _ => .mem .p false
  -- page 1
  | .adc _ | .sbc _ => { x := .p, s1 := .r, s2 := .r, zqOk := true }
  | .adds w _ | .subs w _ | .mul w _ | .mulh w _ | .mulhn w _ | .div w _ | .divn w _ | .rem w _ | .remn w _
  | .min w _ | .max w _ | .minn w _ | .maxn w _ | .andn w _ | .orn w _ => .two (.ofWidth w)
  | .mulw w _ => { x := if w = .w32 then .p else .q, s1 := .ofWidth w, s2 := .ofWidth w, zqOk := w == .w32 }
  | .abs w _ | .neg w _ | .brev w _ | .bswp w _ => .one (.ofWidth w) (.ofWidth w)
  | .clz w _ | .ctz w _ | .popc w _ => .one .r (.ofWidth w)
  | .bfx _ | .bfxn _ => .one .r .r
  | .bfi _ => { x := .r, xRead := true, s2 := .r, zqOk := true }
  | .sel _ _ | .setb _ _ => { x := .r, xRead := true, s1 := .r, s2 := .r, zqOk := true }
  | .movbToG _ => { x := .p, s2 := .b }
  | .movbToB _ => { x := .b, s2 := .p }
  | .setc _ _ => .two .r
  -- page 2 (R123-R131)
  | .fadd t _ | .fsub t _ | .fmul t _ | .fdiv t _ | .fmin t _ | .fmax t _ => .two (.ofType t)
  | .fma t _ | .fnma t _ =>
    { x := .ofType t, xRead := true, s1 := .ofType t, s2 := .ofType t, zqOk := t != .f64 }
  | .fabs t _ | .fneg t _ | .fsqrt t _ | .frcp t _ | .frsq t _ | .fexp2 t _ | .flog2 t _ | .fsin t _ | .fcos t _
  | .frnd t _ => .one (.ofType t) (.ofType t)
  | .fcls t _ => .oneF .r (.ofType t)
  | .fskp _ t _ => { s1 := .ofType t, s2 := .ofType t, zqOk := t != .f64, cnt := true }
  | .fsetc _ t _ => { x := .r, s1 := .ofType t, s2 := .ofType t, zqOk := t != .f64, xqOk := true }
  -- page 3 (R132-R137)
  | .cvt s d _ =>
    { x := .ofType d, s1 := if d = .f16x2 ∨ d = .bf16x2 then .r else .no, s2 := .ofType s,
      zqOk := s != .f64, xqOk := d != .f64, sat := true, sr := true }
  | .cvti n t _ => .oneF (.ofSize n) (.ofType t)
  | .cvtf n t _ => .oneF (.ofType t) (.ofSize n)
  | .enc8 t _ => { Sig.oneF .r (.ofType t) with sat := true, sr := true }
  | .dec8 t _ => .oneF (.ofType t) .r
  -- page 4 (R140-R163)
  | .ldq _ _ | .stq _ _ => { x := .code }
  | .qadv _ _ | .qrst _ => { x := .code }
  | .pref _ _ => {}
  | .ldl sz _ | .stl sz _ => .mem (.ofSize sz) false
  | .atom _ w _ | .red _ w _ | .afn _ w _ => .mem (.ofWidth w) true
  | .cas w _ => .mem (if w = .w32 then .p else .q) true
  | .fence _ | .fenceAcq _ | .fenceRel _ => { scope := true }
  -- page 5 (R288-R309)
  | .clasp _ _ => { x := .r, xqOk := true }
  | .unclasp _ | .unclaspJoin _ | .bar _ | .cmodePrivate _ | .cmodeShared _ => {}
  | .lane _ | .laneAct _ | .laneLive _ | .width _ => { x := .r, xqOk := true }
  | .shfl m _ => { x := .r, s1 := if m = .pick then .r else .no, s2 := .r }
  | .vote _ _ | .scan _ _ => { x := .r, s2 := .r }
  | .rseg _ _ => { x := .r, s1 := .r, s2 := .r }
  -- page 6 (R195-R230)
  | .spawnCtx _ | .spawnCourse _ => { x := .r, s1 := .r, s2 := .p, xqOk := true }
  | .quit _ => { s2 := .r, zqOk := true }
  | .reapPoll _ | .reapWait _ => { x := .q }
  | .reapForce _ => { x := .q, s2 := .r, zqOk := true }
  | .sleep _ => .one .r .r
  | .wake _ => { s2 := .p }
  | .yld _ => {}
  | .yldCc _ => { x := .r, xRead := true, s2 := .r, zqOk := true }
  | .spin w _ => .mem (.ofWidth w) false
  | .wspBind _ => { s1 := .r, s2 := .r, zqOk := true }
  | .wspRead _ => .one .r .r
  | .gets _ | .sets _ => { x := .p }
  | .cinvData _ | .cinvCode _ | .cwbLine _ => { s2 := .p }
  | .cinvAll _ | .cwbAll _ => {}
  | .msend _ _ _ => { x := .r, xRead := true, s1 := .r, s2 := .r, scope := true }
  | .mbind _ _ => .one .r .r
  | .mbindKeep _ _ | .mbindUn _ _ _ => { x := .r, xqOk := true }
  | .mwaitAll _ _ | .mwaitAny _ _ => .one .r .r
  | .mack _ _ => { s2 := .r, zqOk := true }
  -- page 7 (R317-R335)
  | .mfmt _ | .mtabPreset _ _ _ _ | .mqf _ _ => {}
  | .mtab _ _ _ => { s2 := .r, zqOk := true }
  -- MMA and MMAG read x and take a pair for a global B (imm[7]) or for the A and index bases (R329, R330).
  | .mma _ o => { x := .r, xRead := true, s1 := .r, s2 := if o.imm.getLsbD 7 then .p else .r, zqOk := !o.imm.getLsbD 7 }
  | .mmag _ o => { x := .r, xRead := true, s1 := .p, s2 := if o.imm.getLsbD 7 then .p else .r, zqOk := !o.imm.getLsbD 7 }
  | .mzro _ _ => { x := .r, xRead := true }
  | .mstc _ o =>
    { x := .r, xRead := true, s1 := if (o.imm.extractLsb' 7 3).toNat < 6 then .r else .p, s2 := .r, zqOk := true,
      sat := true }
  | .mldc _ _ => { x := .r, xRead := true, s1 := .r, s2 := .r, zqOk := true }
  | .gath _ _ o => { x := .r, xRead := true, s1 := if o.imm.getLsbD 7 then .p else .r, s2 := .r, zqOk := true }
  -- page 8
  | .lease _ => { x := .r, s2 := .r }
  | .leaseRd _ | .migrL _ | .migrD _ | .migrAny _ => { x := .r }
  | .wpush _ => { x := .r, s2 := .p }
  | .wpopTail _ | .wpopHead _ => { x := .p }
  | .mcast _ | .rredLast _ | .rredAll _ => { x := .p, xRead := true, s1 := .r, s2 := .r, zqOk := true }
  | .lnch _ | .lnchHw _ => { x := .r, s1 := .r, s2 := .r }
  | .gsub _ => { x := .p, s2 := .p }
  | .gdone _ | .gdoneFail _ => { s1 := .r, s2 := .r, zqOk := true }
  -- pages 9 and 10
  | .cpy _ => { x := .p, xRead := true, s1 := .p, s2 := .r }
  | .cpyJoin _ => {}
  | .cpyr _ => { s2 := .r }
  | .tsend _ | .tget _ => { x := .p, xRead := true, s1 := .r, s2 := .p }
  | .fput _ => { x := .p, xRead := true, s2 := .r }
  | .fget _ => { x := .p, xRead := true, s1 := .r, s2 := .r }
  | .xfence _ => {}
  | .xfencePkg _ => { s2 := .r }
  -- page 11
  | .trap _ | .sysc _ | .brk _ | .eret _ => {}
  | .tmark _ => { x := .r }
  | .tfence _ | .tlbiAll _ => { scope := true }
  | .tlbiPage _ => { s1 := .p, s2 := .r, scope := true }
  | .tlbiAsid _ => { s2 := .r, scope := true }
  | _ => {}

/-- The operands of an instruction that a context issues; an event has none. -/
def Instr.opnds? : Instr → Option Opnds
  | .mov o => some o
  | .movi o => some o
  | .add o => some o
  | .addi o => some o
  | .sub o => some o
  | .and o => some o
  | .or o => some o
  | .xor o => some o
  | .not o => some o
  | .shlReg o => some o
  | .shlImm o => some o
  | .shrReg o => some o
  | .shrImm o => some o
  | .sarReg o => some o
  | .sarImm o => some o
  | .skp _ o => some o
  | .skpi _ o => some o
  | .skbSet o => some o
  | .skbClr o => some o
  | .jmp o => some o
  | .call o => some o
  | .calli o => some o
  | .ret o => some o
  | .mark o => some o
  | .join o => some o
  | .frame o => some o
  | .nop o => some o
  | .ld _ o => some o
  | .st _ o => some o
  | .lea o => some o
  | .br o => some o
  | .brW o => some o
  | .adc o => some o
  | .sbc o => some o
  | .adds _ o => some o
  | .subs _ o => some o
  | .mul _ o => some o
  | .mulh _ o => some o
  | .mulhn _ o => some o
  | .mulw _ o => some o
  | .div _ o => some o
  | .divn _ o => some o
  | .rem _ o => some o
  | .remn _ o => some o
  | .min _ o => some o
  | .max _ o => some o
  | .minn _ o => some o
  | .maxn _ o => some o
  | .abs _ o => some o
  | .neg _ o => some o
  | .andn _ o => some o
  | .orn _ o => some o
  | .rolReg o => some o
  | .rolImm o => some o
  | .rorReg o => some o
  | .rorImm o => some o
  | .clz _ o => some o
  | .ctz _ o => some o
  | .popc _ o => some o
  | .brev _ o => some o
  | .bswp _ o => some o
  | .bfx o => some o
  | .bfxn o => some o
  | .bfi o => some o
  | .sel _ o => some o
  | .movbToG o => some o
  | .movbToB o => some o
  | .setc _ o => some o
  | .setb _ o => some o
  | .fadd _ o => some o
  | .fsub _ o => some o
  | .fmul _ o => some o
  | .fma _ o => some o
  | .fnma _ o => some o
  | .fmin _ o => some o
  | .fmax _ o => some o
  | .fabs _ o => some o
  | .fneg _ o => some o
  | .fdiv _ o => some o
  | .fsqrt _ o => some o
  | .frcp _ o => some o
  | .frsq _ o => some o
  | .fexp2 _ o => some o
  | .flog2 _ o => some o
  | .fsin _ o => some o
  | .fcos _ o => some o
  | .fcls _ o => some o
  | .fskp _ _ o => some o
  | .fsetc _ _ o => some o
  | .frnd _ o => some o
  | .cvt _ _ o => some o
  | .cvti _ _ o => some o
  | .cvtf _ _ o => some o
  | .enc8 _ o => some o
  | .dec8 _ o => some o
  | .ldq _ o => some o
  | .stq _ o => some o
  | .qadv _ o => some o
  | .qrst o => some o
  | .pref _ o => some o
  | .ldl _ o => some o
  | .stl _ o => some o
  | .atom _ _ o => some o
  | .cas _ o => some o
  | .red _ _ o => some o
  | .afn _ _ o => some o
  | .fence o => some o
  | .fenceAcq o => some o
  | .fenceRel o => some o
  | .clasp _ o => some o
  | .unclasp o => some o
  | .unclaspJoin o => some o
  | .lane o => some o
  | .laneAct o => some o
  | .laneLive o => some o
  | .width o => some o
  | .shfl _ o => some o
  | .vote _ o => some o
  | .rseg _ o => some o
  | .scan _ o => some o
  | .bar o => some o
  | .cmodePrivate o => some o
  | .cmodeShared o => some o
  | .spawnCtx o => some o
  | .spawnCourse o => some o
  | .quit o => some o
  | .reapPoll o => some o
  | .reapWait o => some o
  | .reapForce o => some o
  | .sleep o => some o
  | .wake o => some o
  | .yld o => some o
  | .yldCc o => some o
  | .spin _ o => some o
  | .wspBind o => some o
  | .wspRead o => some o
  | .gets o => some o
  | .sets o => some o
  | .cinvData o => some o
  | .cinvCode o => some o
  | .cinvAll o => some o
  | .cwbLine o => some o
  | .cwbAll o => some o
  | .msend _ _ o => some o
  | .mbind _ o => some o
  | .mbindKeep _ o => some o
  | .mbindUn _ _ o => some o
  | .mwaitAll _ o => some o
  | .mwaitAny _ o => some o
  | .mack _ o => some o
  | .mfmt o => some o
  | .mtab _ _ o => some o
  | .mtabPreset _ _ _ o => some o
  | .mma _ o => some o
  | .mmag _ o => some o
  | .mzro _ o => some o
  | .mstc _ o => some o
  | .mldc _ o => some o
  | .gath _ _ o => some o
  | .mqf _ o => some o
  | .lease o => some o
  | .leaseRd o => some o
  | .migrL o => some o
  | .migrD o => some o
  | .migrAny o => some o
  | .wpush o => some o
  | .wpopTail o => some o
  | .wpopHead o => some o
  | .mcast o => some o
  | .rredLast o => some o
  | .rredAll o => some o
  | .lnch o => some o
  | .lnchHw o => some o
  | .gsub o => some o
  | .gdone o => some o
  | .gdoneFail o => some o
  | .cpy o => some o
  | .cpyJoin o => some o
  | .cpyr o => some o
  | .tsend o => some o
  | .tget o => some o
  | .fput o => some o
  | .fget o => some o
  | .xfence o => some o
  | .xfencePkg o => some o
  | .trap o => some o
  | .sysc o => some o
  | .eret o => some o
  | .brk o => some o
  | .tmark o => some o
  | .tfence o => some o
  | .tlbiPage o => some o
  | .tlbiAsid o => some o
  | .tlbiAll o => some o
  | _ => none

/-- The operands of an instruction; an event answers empty ones. -/
def Instr.opnds (i : Instr) : Opnds := i.opnds?.getD { form := .k }

/-! ## Cells -/

/-- The pairs that CVT accepts (R133). -/
def cvtPair (s d : FType) : Bool :=
  (ftypeCode s < 4 && ftypeCode d < 4) || (s == .f32 && 4 ≤ ftypeCode d) || (4 ≤ ftypeCode s && d == .f32)

/-- R319. -/
def shapeCode (s : Shape) : Nat := s.m.toNat * 16 + s.n.toNat * 4 + s.k.toNat

/-- R319: code 3 of M or N is illegal. -/
def shapeOf (fn : Nat) : Option Shape :=
  if fn < 64 ∧ fn / 16 < 3 ∧ fn / 4 % 4 < 3 then
    some { m := BitVec.ofNat 2 (fn / 16), n := BitVec.ofNat 2 (fn / 4), k := BitVec.ofNat 2 fn }
  else none

/-- The cell and FN of an instruction (R69-R72); none for an event, for the KB word of BR (R53) and for suffixes that
the instruction does not take. -/
def Instr.cell? : Instr → Option (Nat × Nat × Nat)
  | .mov _ => some (0, 1, 0)
  | .movi _ => some (0, 2, 0)
  | .add _ => some (0, 3, 0)
  | .addi _ => some (0, 4, 0)
  | .sub _ => some (0, 5, 0)
  | .and _ => some (0, 6, 0)
  | .or _ => some (0, 7, 0)
  | .xor _ => some (0, 8, 0)
  | .not _ => some (0, 9, 0)
  | .shlReg _ => some (0, 10, 0)
  | .shlImm _ => some (0, 11, 0)
  | .shrReg _ => some (0, 12, 0)
  | .shrImm _ => some (0, 13, 0)
  | .sarReg _ => some (0, 14, 0)
  | .sarImm _ => some (0, 15, 0)
  | .skbSet _ => some (0, 32, 0)
  | .skbClr _ => some (0, 33, 0)
  | .jmp _ => some (0, 34, 0)
  | .call _ => some (0, 35, 0)
  | .calli _ => some (0, 36, 0)
  | .ret _ => some (0, 37, 0)
  | .mark _ => some (0, 38, 0)
  | .join _ => some (0, 39, 0)
  | .frame _ => some (0, 40, 0)
  | .nop _ => some (0, 41, 0)
  | .lea _ => some (0, 54, 0)
  | .brW _ => some (0, 55, 0)
  | .skp c _ => if skpCode c < 6 then some (0, 16 + skpCode c, 0) else none
  | .skpi c _ => some (0, 22 + condCode c, 0)
  | .ld sz _ => some (0, 42 + isizeCode sz, 0)
  | .st sz _ => if stCode sz < 5 then some (0, 49 + stCode sz, 0) else none
  | .adc _ => some (1, 0, 0)
  | .sbc _ => some (1, 1, 0)
  | .rolReg _ => some (1, 20, 0)
  | .rolImm _ => some (1, 21, 0)
  | .rorReg _ => some (1, 22, 0)
  | .rorImm _ => some (1, 23, 0)
  | .bfx _ => some (1, 29, 0)
  | .bfxn _ => some (1, 30, 0)
  | .bfi _ => some (1, 31, 0)
  | .adds w _ => some (1, 2, widthCode w)
  | .subs w _ => some (1, 3, widthCode w)
  | .mul w _ => some (1, 4, widthCode w)
  | .mulh w _ => some (1, 5, widthCode w)
  | .mulhn w _ => some (1, 6, widthCode w)
  | .mulw w _ => some (1, 7, widthCode w)
  | .div w _ => some (1, 8, widthCode w)
  | .divn w _ => some (1, 9, widthCode w)
  | .rem w _ => some (1, 10, widthCode w)
  | .remn w _ => some (1, 11, widthCode w)
  | .min w _ => some (1, 12, widthCode w)
  | .max w _ => some (1, 13, widthCode w)
  | .minn w _ => some (1, 14, widthCode w)
  | .maxn w _ => some (1, 15, widthCode w)
  | .abs w _ => some (1, 16, widthCode w)
  | .neg w _ => some (1, 17, widthCode w)
  | .andn w _ => some (1, 18, widthCode w)
  | .orn w _ => some (1, 19, widthCode w)
  | .clz w _ => some (1, 24, widthCode w)
  | .ctz w _ => some (1, 25, widthCode w)
  | .popc w _ => some (1, 26, widthCode w)
  | .brev w _ => some (1, 27, widthCode w)
  | .bswp w _ => some (1, 28, widthCode w)
  | .sel k _ => some (1, 32, k.toNat)
  | .movbToG _ => some (1, 33, 0)
  | .movbToB _ => some (1, 33, 1)
  | .setc c _ => some (1, 34, condCode c)
  | .setb c _ => some (1, 35, condCode c)
  | .fadd t _ => some (2, 0, ftypeCode t)
  | .fsub t _ => some (2, 1, ftypeCode t)
  | .fmul t _ => some (2, 2, ftypeCode t)
  | .fma t _ => some (2, 3, ftypeCode t)
  | .fnma t _ => some (2, 4, ftypeCode t)
  | .fmin t _ => some (2, 5, ftypeCode t)
  | .fmax t _ => some (2, 6, ftypeCode t)
  | .fabs t _ => some (2, 7, ftypeCode t)
  | .fneg t _ => some (2, 8, ftypeCode t)
  | .fdiv t _ => some (2, 9, ftypeCode t)
  | .fsqrt t _ => some (2, 10, ftypeCode t)
  | .frcp t _ => some (2, 11, ftypeCode t)
  | .frsq t _ => some (2, 12, ftypeCode t)
  | .fcls t _ => some (2, 17, ftypeCode t)
  | .frnd t _ => some (2, 20, ftypeCode t)
  | .fexp2 t _ => if t = .f64 then none else some (2, 13, ftypeCode t)
  | .flog2 t _ => if t = .f64 then none else some (2, 14, ftypeCode t)
  | .fsin t _ => if t = .f64 then none else some (2, 15, ftypeCode t)
  | .fcos t _ => if t = .f64 then none else some (2, 16, ftypeCode t)
  | .fskp c t _ => if ftypeCode t < 4 then some (2, 18, fcondCode c * 8 + ftypeCode t) else none
  | .fsetc c t _ => if ftypeCode t < 4 then some (2, 19, fcondCode c * 8 + ftypeCode t) else none
  | .cvt s d _ => if cvtPair s d then some (3, 0, ftypeCode s * 8 + ftypeCode d) else none
  | .cvti n t _ => if isizeCode n < 6 ∧ ftypeCode t < 4 then some (3, 1, isizeCode n * 8 + ftypeCode t) else none
  | .cvtf n t _ => if isizeCode n < 6 ∧ ftypeCode t < 4 then some (3, 2, isizeCode n * 8 + ftypeCode t) else none
  | .enc8 t _ => if ftypeCode t < 4 then some (3, 3, ftypeCode t) else none
  | .dec8 t _ => if ftypeCode t < 4 then some (3, 4, ftypeCode t) else none
  | .ldq sz _ => if isizeCode sz < 5 then some (4, 0, isizeCode sz) else none
  | .stq sz _ => if sz = .n8 ∨ sz = .n16 ∨ sz = .w32 then some (4, 1, isizeCode sz) else none
  | .qadv k _ => some (4, 2, k.toNat)
  | .qrst _ => some (4, 3, 0)
  | .pref t _ => if t.toNat < 3 then some (4, 4, t.toNat) else none
  | .ldl sz _ => some (4, 5, isizeCode sz)
  | .stl sz _ => if sz = .s8 ∨ sz = .s16 then none else some (4, 6, isizeCode sz)
  | .atom op w _ => some (4, 7, atomCode op * 2 + widthCode w)
  | .cas w _ => some (4, 8, widthCode w)
  | .red op w _ => if op = .xchg then none else some (4, 9, atomCode op * 2 + widthCode w)
  | .afn f w _ => some (4, 10, f.toNat * 2 + widthCode w)
  | .fence _ => some (4, 11, 0)
  | .fenceAcq _ => some (4, 11, 1)
  | .fenceRel _ => some (4, 11, 2)
  | .clasp n _ => if n.toNat < 3 then some (5, 0, n.toNat) else none
  | .unclasp _ => some (5, 1, 0)
  | .unclaspJoin _ => some (5, 1, 1)
  | .lane _ => some (5, 2, 0)
  | .laneAct _ => some (5, 2, 1)
  | .laneLive _ => some (5, 2, 2)
  | .width _ => some (5, 3, 0)
  | .shfl m _ => some (5, 4, shflCode m)
  | .vote m _ => some (5, 5, voteCode m)
  | .rseg m _ => some (5, 6, laneOpCode m)
  | .scan m _ => some (5, 7, laneOpCode m)
  | .bar _ => some (5, 8, 0)
  | .cmodePrivate _ => some (5, 9, 0)
  | .cmodeShared _ => some (5, 9, 1)
  | .spawnCtx _ => some (6, 0, 0)
  | .spawnCourse _ => some (6, 0, 1)
  | .quit _ => some (6, 1, 0)
  | .reapPoll _ => some (6, 2, 0)
  | .reapWait _ => some (6, 2, 1)
  | .reapForce _ => some (6, 2, 2)
  | .sleep _ => some (6, 3, 0)
  | .wake _ => some (6, 4, 0)
  | .yld _ => some (6, 5, 0)
  | .yldCc _ => some (6, 5, 1)
  | .spin w _ => some (6, 6, widthCode w)
  | .wspBind _ => some (6, 7, 0)
  | .wspRead _ => some (6, 7, 1)
  | .gets _ => some (6, 8, 0)
  | .sets _ => some (6, 9, 0)
  | .cinvData _ => some (6, 10, 0)
  | .cinvCode _ => some (6, 10, 1)
  | .cinvAll _ => some (6, 10, 2)
  | .cwbLine _ => some (6, 11, 0)
  | .cwbAll _ => some (6, 11, 1)
  | .msend c fs _ => some (6, 12, c.toNat + 8 * fs.toNat)
  | .mbind c _ => some (6, 13, c.toNat)
  | .mbindUn c keep _ => some (6, 13, c.toNat + 8 + 16 * keep.toNat)
  | .mbindKeep c _ => some (6, 13, c.toNat + 16)
  | .mwaitAll c _ => some (6, 14, c.toNat)
  | .mwaitAny c _ => some (6, 14, c.toNat + 8)
  | .mack c _ => some (6, 15, c.toNat)
  | .mfmt _ => some (7, 0, 0)
  | .mtab b t4 _ => some (7, 1, b.toNat + 2 * t4.toNat)
  | .mtabPreset b t4 p _ =>
    if t4 = (p == .e2m1) then some (7, 1, b.toNat + 2 * t4.toNat + 4 + 8 * presetCode p) else none
  | .mma sh _ => if sh.m.toNat < 3 ∧ sh.n.toNat < 3 then some (7, 2, shapeCode sh) else none
  | .mmag sh _ => if sh.m.toNat < 3 ∧ sh.n.toNat < 3 then some (7, 3, shapeCode sh) else none
  | .mzro sh _ => if sh.m.toNat < 3 ∧ sh.n.toNat < 3 ∧ sh.k = 0 then some (7, 4, shapeCode sh) else none
  | .mstc sh _ => if sh.m.toNat < 3 ∧ sh.n.toNat < 3 ∧ sh.k = 0 then some (7, 5, shapeCode sh) else none
  | .mldc sh _ => if sh.m.toNat < 3 ∧ sh.n.toNat < 3 ∧ sh.k = 0 then some (7, 6, shapeCode sh) else none
  | .gath lg i _ => if lg.toNat < 7 then some (7, 7, lg.toNat + 8 * i.toNat) else none
  | .mqf m _ => if m = 0 then none else some (7, 8, m.toNat)
  | .lease _ => some (8, 0, 0)
  | .leaseRd _ => some (8, 0, 1)
  | .migrL _ => some (8, 1, 0)
  | .migrD _ => some (8, 1, 1)
  | .migrAny _ => some (8, 1, 2)
  | .wpush _ => some (8, 2, 0)
  | .wpopTail _ => some (8, 3, 0)
  | .wpopHead _ => some (8, 3, 1)
  | .mcast _ => some (8, 4, 0)
  | .rredLast _ => some (8, 5, 0)
  | .rredAll _ => some (8, 5, 1)
  | .lnch _ => some (8, 6, 0)
  | .lnchHw _ => some (8, 6, 1)
  | .gsub _ => some (8, 7, 0)
  | .gdone _ => some (8, 8, 0)
  | .gdoneFail _ => some (8, 8, 1)
  | .cpy _ => some (9, 0, 0)
  | .cpyJoin _ => some (9, 0, 1)
  | .cpyr _ => some (9, 1, 0)
  | .tsend _ => some (9, 2, 0)
  | .tget _ => some (9, 3, 0)
  | .fput _ => some (10, 0, 0)
  | .fget _ => some (10, 1, 0)
  | .xfence _ => some (10, 2, 0)
  | .xfencePkg _ => some (10, 2, 1)
  | .trap _ => some (11, 0, 0)
  | .sysc _ => some (11, 1, 0)
  | .eret _ => some (11, 2, 0)
  | .brk _ => some (11, 3, 0)
  | .tmark _ => some (11, 4, 0)
  | .tfence _ => some (11, 5, 0)
  | .tlbiPage _ => some (11, 6, 0)
  | .tlbiAsid _ => some (11, 6, 1)
  | .tlbiAll _ => some (11, 6, 2)
  | _ => none

/-- The instruction of a cell of page 0 with an FN, given its operands (R69); none where the FN is illegal. -/
def ofCell0 (op fn : Nat) (o : Opnds) : Option Instr :=
  match op with
  | 1 => if fn = 0 then some (.mov o) else none
  | 2 => if fn = 0 then some (.movi o) else none
  | 3 => if fn = 0 then some (.add o) else none
  | 4 => if fn = 0 then some (.addi o) else none
  | 5 => if fn = 0 then some (.sub o) else none
  | 6 => if fn = 0 then some (.and o) else none
  | 7 => if fn = 0 then some (.or o) else none
  | 8 => if fn = 0 then some (.xor o) else none
  | 9 => if fn = 0 then some (.not o) else none
  | 10 => if fn = 0 then some (.shlReg o) else none
  | 11 => if fn = 0 then some (.shlImm o) else none
  | 12 => if fn = 0 then some (.shrReg o) else none
  | 13 => if fn = 0 then some (.shrImm o) else none
  | 14 => if fn = 0 then some (.sarReg o) else none
  | 15 => if fn = 0 then some (.sarImm o) else none
  | 16 => if fn = 0 then some (.skp .eq o) else none
  | 17 => if fn = 0 then some (.skp .ne o) else none
  | 18 => if fn = 0 then some (.skp .lt o) else none
  | 19 => if fn = 0 then some (.skp .ge o) else none
  | 20 => if fn = 0 then some (.skp .ltn o) else none
  | 21 => if fn = 0 then some (.skp .gen o) else none
  | 22 => if fn = 0 then some (.skpi .eq o) else none
  | 23 => if fn = 0 then some (.skpi .ne o) else none
  | 24 => if fn = 0 then some (.skpi .lt o) else none
  | 25 => if fn = 0 then some (.skpi .le o) else none
  | 26 => if fn = 0 then some (.skpi .gt o) else none
  | 27 => if fn = 0 then some (.skpi .ge o) else none
  | 28 => if fn = 0 then some (.skpi .ltn o) else none
  | 29 => if fn = 0 then some (.skpi .len o) else none
  | 30 => if fn = 0 then some (.skpi .gtn o) else none
  | 31 => if fn = 0 then some (.skpi .gen o) else none
  | 32 => if fn = 0 then some (.skbSet o) else none
  | 33 => if fn = 0 then some (.skbClr o) else none
  | 34 => if fn = 0 then some (.jmp o) else none
  | 35 => if fn = 0 then some (.call o) else none
  | 36 => if fn = 0 then some (.calli o) else none
  | 37 => if fn = 0 then some (.ret o) else none
  | 38 => if fn = 0 then some (.mark o) else none
  | 39 => if fn = 0 then some (.join o) else none
  | 40 => if fn = 0 then some (.frame o) else none
  | 41 => if fn = 0 then some (.nop o) else none
  | 42 => if fn = 0 then some (.ld .s8 o) else none
  | 43 => if fn = 0 then some (.ld .n8 o) else none
  | 44 => if fn = 0 then some (.ld .s16 o) else none
  | 45 => if fn = 0 then some (.ld .n16 o) else none
  | 46 => if fn = 0 then some (.ld .w32 o) else none
  | 47 => if fn = 0 then some (.ld .w64 o) else none
  | 48 => if fn = 0 then some (.ld .w128 o) else none
  | 49 => if fn = 0 then some (.st .n8 o) else none
  | 50 => if fn = 0 then some (.st .n16 o) else none
  | 51 => if fn = 0 then some (.st .w32 o) else none
  | 52 => if fn = 0 then some (.st .w64 o) else none
  | 53 => if fn = 0 then some (.st .w128 o) else none
  | 54 => if fn = 0 then some (.lea o) else none
  | 55 => if fn = 0 then some (.brW o) else none
  | _ => none

/-- The instruction of a cell of page 1 with an FN, given its operands (R70); none where the FN is illegal. -/
def ofCell1 (op fn : Nat) (o : Opnds) : Option Instr :=
  match op with
  | 0 => if fn = 0 then some (.adc o) else none
  | 1 => if fn = 0 then some (.sbc o) else none
  | 2 => (widthOf fn).map (.adds · o)
  | 3 => (widthOf fn).map (.subs · o)
  | 4 => (widthOf fn).map (.mul · o)
  | 5 => (widthOf fn).map (.mulh · o)
  | 6 => (widthOf fn).map (.mulhn · o)
  | 7 => (widthOf fn).map (.mulw · o)
  | 8 => (widthOf fn).map (.div · o)
  | 9 => (widthOf fn).map (.divn · o)
  | 10 => (widthOf fn).map (.rem · o)
  | 11 => (widthOf fn).map (.remn · o)
  | 12 => (widthOf fn).map (.min · o)
  | 13 => (widthOf fn).map (.max · o)
  | 14 => (widthOf fn).map (.minn · o)
  | 15 => (widthOf fn).map (.maxn · o)
  | 16 => (widthOf fn).map (.abs · o)
  | 17 => (widthOf fn).map (.neg · o)
  | 18 => (widthOf fn).map (.andn · o)
  | 19 => (widthOf fn).map (.orn · o)
  | 20 => if fn = 0 then some (.rolReg o) else none
  | 21 => if fn = 0 then some (.rolImm o) else none
  | 22 => if fn = 0 then some (.rorReg o) else none
  | 23 => if fn = 0 then some (.rorImm o) else none
  | 24 => (widthOf fn).map (.clz · o)
  | 25 => (widthOf fn).map (.ctz · o)
  | 26 => (widthOf fn).map (.popc · o)
  | 27 => (widthOf fn).map (.brev · o)
  | 28 => (widthOf fn).map (.bswp · o)
  | 29 => if fn = 0 then some (.bfx o) else none
  | 30 => if fn = 0 then some (.bfxn o) else none
  | 31 => if fn = 0 then some (.bfi o) else none
  | 32 => if fn < 16 then some (.sel (BitVec.ofNat 4 fn) o) else none
  | 33 => match fn with | 0 => some (.movbToG o) | 1 => some (.movbToB o) | _ => none
  | 34 => (condOf fn).map (.setc · o)
  | 35 => (condOf fn).map (.setb · o)
  | _ => none

/-- The instruction of a cell of page 2 with an FN, given its operands (R71); none where the FN is illegal. -/
def ofCell2 (op fn : Nat) (o : Opnds) : Option Instr :=
  match op with
  | 0 => (ftypeOf fn).map (.fadd · o)
  | 1 => (ftypeOf fn).map (.fsub · o)
  | 2 => (ftypeOf fn).map (.fmul · o)
  | 3 => (ftypeOf fn).map (.fma · o)
  | 4 => (ftypeOf fn).map (.fnma · o)
  | 5 => (ftypeOf fn).map (.fmin · o)
  | 6 => (ftypeOf fn).map (.fmax · o)
  | 7 => (ftypeOf fn).map (.fabs · o)
  | 8 => (ftypeOf fn).map (.fneg · o)
  | 9 => (ftypeOf fn).map (.fdiv · o)
  | 10 => (ftypeOf fn).map (.fsqrt · o)
  | 11 => (ftypeOf fn).map (.frcp · o)
  | 12 => (ftypeOf fn).map (.frsq · o)
  | 13 => if fn = 1 then none else (ftypeOf fn).map (.fexp2 · o)
  | 14 => if fn = 1 then none else (ftypeOf fn).map (.flog2 · o)
  | 15 => if fn = 1 then none else (ftypeOf fn).map (.fsin · o)
  | 16 => if fn = 1 then none else (ftypeOf fn).map (.fcos · o)
  | 17 => (ftypeOf fn).map (.fcls · o)
  | 18 => if fn % 8 < 4 then (fcondOf (fn / 8)).bind fun c => (ftypeOf (fn % 8)).map (.fskp c · o) else none
  | 19 => if fn % 8 < 4 then (fcondOf (fn / 8)).bind fun c => (ftypeOf (fn % 8)).map (.fsetc c · o) else none
  | 20 => (ftypeOf fn).map (.frnd · o)
  | _ => none

/-- The instruction of a cell of page 3 with an FN, given its operands (R71); none where the FN is illegal. -/
def ofCell3 (op fn : Nat) (o : Opnds) : Option Instr :=
  match op with
  | 0 =>
    (ftypeOf (fn / 8)).bind fun s =>
      (ftypeOf (fn % 8)).bind fun d => if cvtPair s d then some (.cvt s d o) else none
  | 1 =>
    if fn / 8 < 6 ∧ fn % 8 < 4 then (isizeOf (fn / 8)).bind fun n =>
      (ftypeOf (fn % 8)).map (.cvti n · o) else none
  | 2 =>
    if fn / 8 < 6 ∧ fn % 8 < 4 then (isizeOf (fn / 8)).bind fun n =>
      (ftypeOf (fn % 8)).map (.cvtf n · o) else none
  | 3 => if fn < 4 then (ftypeOf fn).map (.enc8 · o) else none
  | 4 => if fn < 4 then (ftypeOf fn).map (.dec8 · o) else none
  | _ => none

/-- The instruction of a cell of page 4 with an FN, given its operands (R72); none where the FN is illegal. -/
def ofCell4 (op fn : Nat) (o : Opnds) : Option Instr :=
  match op with
  | 0 => if fn < 5 then (isizeOf fn).map (.ldq · o) else none
  | 1 => if fn = 1 ∨ fn = 3 ∨ fn = 4 then (isizeOf fn).map (.stq · o) else none
  | 2 => if fn < 8 then some (.qadv (BitVec.ofNat 3 fn) o) else none
  | 3 => if fn = 0 then some (.qrst o) else none
  | 4 => if fn < 3 then some (.pref (BitVec.ofNat 2 fn) o) else none
  | 5 => (isizeOf fn).map (.ldl · o)
  | 6 => if fn = 0 ∨ fn = 2 then none else (isizeOf fn).map (.stl · o)
  | 7 => (atomOf (fn / 2)).bind fun op => (widthOf (fn % 2)).map (.atom op · o)
  | 8 => (widthOf fn).map (.cas · o)
  | 9 => if fn / 2 = 8 then none else (atomOf (fn / 2)).bind fun op => (widthOf (fn % 2)).map (.red op · o)
  | 10 => if fn < 32 then (widthOf (fn % 2)).map (.afn (BitVec.ofNat 4 (fn / 2)) · o) else none
  | 11 => match fn with | 0 => some (.fence o) | 1 => some (.fenceAcq o) | 2 => some (.fenceRel o) | _ => none
  | _ => none

/-- The instruction of a cell of page 5 with an FN, given its operands (R72); none where the FN is illegal. -/
def ofCell5 (op fn : Nat) (o : Opnds) : Option Instr :=
  match op with
  | 0 => if fn < 3 then some (.clasp (BitVec.ofNat 2 fn) o) else none
  | 1 => match fn with | 0 => some (.unclasp o) | 1 => some (.unclaspJoin o) | _ => none
  | 2 => match fn with | 0 => some (.lane o) | 1 => some (.laneAct o) | 2 => some (.laneLive o) | _ => none
  | 3 => if fn = 0 then some (.width o) else none
  | 4 => (shflOf fn).map (.shfl · o)
  | 5 => (voteOf fn).map (.vote · o)
  | 6 => (laneOpOf fn).map (.rseg · o)
  | 7 => (laneOpOf fn).map (.scan · o)
  | 8 => if fn = 0 then some (.bar o) else none
  | 9 => match fn with | 0 => some (.cmodePrivate o) | 1 => some (.cmodeShared o) | _ => none
  | _ => none

/-- The instruction of a cell of page 6 with an FN, given its operands (R72); none where the FN is illegal. -/
def ofCell6 (op fn : Nat) (o : Opnds) : Option Instr :=
  match op with
  | 0 => match fn with | 0 => some (.spawnCtx o) | 1 => some (.spawnCourse o) | _ => none
  | 1 => if fn = 0 then some (.quit o) else none
  | 2 => match fn with | 0 => some (.reapPoll o) | 1 => some (.reapWait o) | 2 => some (.reapForce o) | _ => none
  | 3 => if fn = 0 then some (.sleep o) else none
  | 4 => if fn = 0 then some (.wake o) else none
  | 5 => match fn with | 0 => some (.yld o) | 1 => some (.yldCc o) | _ => none
  | 6 => (widthOf fn).map (.spin · o)
  | 7 => match fn with | 0 => some (.wspBind o) | 1 => some (.wspRead o) | _ => none
  | 8 => if fn = 0 then some (.gets o) else none
  | 9 => if fn = 0 then some (.sets o) else none
  | 10 => match fn with | 0 => some (.cinvData o) | 1 => some (.cinvCode o) | 2 => some (.cinvAll o) | _ => none
  | 11 => match fn with | 0 => some (.cwbLine o) | 1 => some (.cwbAll o) | _ => none
  | 12 => if fn < 16 then some (.msend (BitVec.ofNat 3 fn) (fn / 8 == 1) o) else none
  | 13 =>
    if fn < 8 then some (.mbind (BitVec.ofNat 3 fn) o)
    else if fn < 32 then (if fn / 8 = 2 then some (.mbindKeep (BitVec.ofNat 3 fn) o)
      else some (.mbindUn (BitVec.ofNat 3 fn) (fn / 8 == 3) o)) else none
  | 14 =>
    if fn < 8 then some (.mwaitAll (BitVec.ofNat 3 fn) o)
    else if fn < 16 then some (.mwaitAny (BitVec.ofNat 3 fn) o) else none
  | 15 => if fn < 8 then some (.mack (BitVec.ofNat 3 fn) o) else none
  | _ => none

/-- The instruction of a cell of page 7 with an FN, given its operands (R72); none where the FN is illegal. -/
def ofCell7 (op fn : Nat) (o : Opnds) : Option Instr :=
  match op with
  | 0 => if fn = 0 then some (.mfmt o) else none
  | 1 =>
    if fn / 4 % 2 = 0 then (if fn < 4 then some (.mtab (fn % 2 == 1) (fn / 2 == 1) o) else none)
    else (presetOf (fn / 8)).bind fun p =>
      if (fn / 2 % 2 == 1) = (p == .e2m1) then some (.mtabPreset (fn % 2 == 1) (fn / 2 % 2 == 1) p o) else none
  | 2 => (shapeOf fn).map (.mma · o)
  | 3 => (shapeOf fn).map (.mmag · o)
  | 4 => if fn % 4 = 0 then (shapeOf fn).map (.mzro · o) else none
  | 5 => if fn % 4 = 0 then (shapeOf fn).map (.mstc · o) else none
  | 6 => if fn % 4 = 0 then (shapeOf fn).map (.mldc · o) else none
  | 7 => if fn < 16 ∧ fn % 8 < 7 then some (.gath (BitVec.ofNat 3 fn) (fn / 8 == 1) o) else none
  | 8 => if 0 < fn ∧ fn < 8 then some (.mqf (BitVec.ofNat 3 fn) o) else none
  | _ => none

/-- The instruction of a cell of page 8 with an FN, given its operands (R72); none where the FN is illegal. -/
def ofCell8 (op fn : Nat) (o : Opnds) : Option Instr :=
  match op with
  | 0 => match fn with | 0 => some (.lease o) | 1 => some (.leaseRd o) | _ => none
  | 1 => match fn with | 0 => some (.migrL o) | 1 => some (.migrD o) | 2 => some (.migrAny o) | _ => none
  | 2 => if fn = 0 then some (.wpush o) else none
  | 3 => match fn with | 0 => some (.wpopTail o) | 1 => some (.wpopHead o) | _ => none
  | 4 => if fn = 0 then some (.mcast o) else none
  | 5 => match fn with | 0 => some (.rredLast o) | 1 => some (.rredAll o) | _ => none
  | 6 => match fn with | 0 => some (.lnch o) | 1 => some (.lnchHw o) | _ => none
  | 7 => if fn = 0 then some (.gsub o) else none
  | 8 => match fn with | 0 => some (.gdone o) | 1 => some (.gdoneFail o) | _ => none
  | _ => none

/-- The instruction of a cell of page 9 with an FN, given its operands (R72); none where the FN is illegal. -/
def ofCell9 (op fn : Nat) (o : Opnds) : Option Instr :=
  match op with
  | 0 => match fn with | 0 => some (.cpy o) | 1 => some (.cpyJoin o) | _ => none
  | 1 => if fn = 0 then some (.cpyr o) else none
  | 2 => if fn = 0 then some (.tsend o) else none
  | 3 => if fn = 0 then some (.tget o) else none
  | _ => none

/-- The instruction of a cell of page 10 with an FN, given its operands (R72); none where the FN is illegal. -/
def ofCell10 (op fn : Nat) (o : Opnds) : Option Instr :=
  match op with
  | 0 => if fn = 0 then some (.fput o) else none
  | 1 => if fn = 0 then some (.fget o) else none
  | 2 => match fn with | 0 => some (.xfence o) | 1 => some (.xfencePkg o) | _ => none
  | _ => none

/-- The instruction of a cell of page 11 with an FN, given its operands (R72); none where the FN is illegal. -/
def ofCell11 (op fn : Nat) (o : Opnds) : Option Instr :=
  match op with
  | 0 => if fn = 0 then some (.trap o) else none
  | 1 => if fn = 0 then some (.sysc o) else none
  | 2 => if fn = 0 then some (.eret o) else none
  | 3 => if fn = 0 then some (.brk o) else none
  | 4 => if fn = 0 then some (.tmark o) else none
  | 5 => if fn = 0 then some (.tfence o) else none
  | 6 => match fn with | 0 => some (.tlbiPage o) | 1 => some (.tlbiAsid o) | 2 => some (.tlbiAll o) | _ => none
  | _ => none

/-- The instruction of a cell (R49). -/
def ofCell (page op fn : Nat) (o : Opnds) : Option Instr :=
  match page with
  | 0 => ofCell0 op fn o
  | 1 => ofCell1 op fn o
  | 2 => ofCell2 op fn o
  | 3 => ofCell3 op fn o
  | 4 => ofCell4 op fn o
  | 5 => ofCell5 op fn o
  | 6 => ofCell6 op fn o
  | 7 => ofCell7 op fn o
  | 8 => ofCell8 op fn o
  | 9 => ofCell9 op fn o
  | 10 => ofCell10 op fn o
  | 11 => ofCell11 op fn o
  | _ => none

/-- The operand class of a cell and the forms in which it exists, K then W (R69-R72, R74); none for an illegal cell. -/
def cellInfo (page op : Nat) : Option (Cls × Bool × Bool) :=
  let both (c : Cls) : Option (Cls × Bool × Bool) := some (c, true, true)
  let kOnly (c : Cls) : Option (Cls × Bool × Bool) := some (c, true, false)
  match page with
  | 0 =>
    if op = 0 ∨ 55 < op then none
    else if op = 55 then some (.j, false, true)
    else if op = 2 ∨ (22 ≤ op ∧ op ≤ 31) then both .ix
    else if op = 4 ∨ op = 11 ∨ op = 13 ∨ op = 15 ∨ op = 40 then both .i
    else if (16 ≤ op ∧ op ≤ 21) ∨ op = 32 ∨ op = 33 then both .s
    else if op = 34 ∨ op = 35 ∨ op = 38 then both .j
    else if 42 ≤ op then both .m
    else both .a
  | 1 =>
    if 35 < op then none
    else if op = 21 ∨ op = 23 then both .i
    else if (29 ≤ op ∧ op ≤ 31) ∨ op = 35 then both .ax
    else both .a
  | 2 => if 20 < op then none else if 18 ≤ op then both .ax else both .a
  | 3 => if 4 < op then none else both .ax
  | 4 =>
    if 11 < op then none
    else if op = 2 ∨ op = 3 then kOnly .a
    else if op = 11 then both .ax
    else if op = 0 ∨ op = 1 ∨ op = 5 ∨ op = 6 then kOnly .m
    else both .m
  | 5 =>
    if op = 0 then kOnly .ax
    else if op = 1 ∨ op = 9 then kOnly .a
    else if op = 4 ∨ op = 6 ∨ op = 7 then both .ax
    else if op < 9 then both .a
    else none
  | 6 =>
    if 15 < op then none
    else if op = 5 ∨ op = 12 ∨ op = 13 then both .ax
    else if op = 6 then both .m
    else if op = 8 ∨ op = 9 then both .i
    else both .a
  | 7 => if 8 < op then none else kOnly .ax
  | 8 =>
    if op = 2 ∨ op = 3 then kOnly .a
    else if op = 4 ∨ op = 5 then kOnly .ax
    else if op = 6 ∨ op = 7 then both .ax
    else if op < 9 then both .a
    else none
  | 9 => if op < 2 then both .ax else if op < 4 then kOnly .ax else none
  | 10 => if op < 3 then both .ax else none
  | 11 =>
    if op = 0 ∨ op = 1 ∨ op = 3 ∨ op = 4 then both .i
    else if op = 2 then both .a
    else if op = 5 ∨ op = 6 then both .ax
    else none
  | _ => none

/-- A cell whose instruction reads x as a source under every FN (R65). -/
def cellReadsX (page op : Nat) : Bool :=
  match page with
  | 1 => op == 31 || op == 32 || op == 35
  | 2 => op == 3 || op == 4
  | 6 => op == 12
  | 7 => 2 ≤ op && op ≤ 7
  | 8 => op == 4 || op == 5
  | 9 => op == 2 || op == 3
  | 10 => op == 0 || op == 1
  | _ => false

/-- A cell that a kind of core does not implement (R456). -/
def cellAbsent (kind : CoreKind) (page op : Nat) : Bool :=
  match kind with
  | .eave => page == 5 || (page == 7 && op != 1) || (page == 8 && op < 6)
  | .dcore => page == 9 && (op == 2 || op == 3)
  | .lcore => false

/-- The class of an instruction's cell; the KB word of BR counts as class J (R53). -/
def Instr.cls (i : Instr) : Cls :=
  match i.cell? with
  | some (p, op, _) => match cellInfo p op with | some (c, _, _) => c | none => .j
  | none => .j

/-! ## Checks of R75 on the fields -/

/-- A register field that its use forbids with reason 5 (R68, R93). -/
def RegUse.bad5 (u : RegUse) (r : Reg) : Bool :=
  match u with
  | .no => r != 0
  | .b => 8 ≤ r.toNat
  | _ => false

/-- A register operand that R12, R21 or R25 forbids, under a register need. -/
def RegUse.bad7 (need : Nat) (u : RegUse) (r : Reg) : Bool :=
  match u with
  | .r => need ≤ r.toNat
  | .p => r.toNat % 2 != 0 || need < r.toNat + 2
  | .q => r.toNat % 4 != 0 || need < r.toNat + 4
  | _ => false

/-- The two-address form of R65: K-form without REG. -/
def Opnds.two (o : Opnds) : Bool := o.form == .k && !o.reg

/-- Which use each register field of an instruction has (R65, R67). -/
def Instr.uses (i : Instr) : List (RegUse × Reg) :=
  let o := i.opnds
  let s := i.sig
  match i.cls with
  | .a | .ax =>
    if o.two then
      (if s.x = .no then [(s.s1, o.x)] else if s.s1 = .no then [(s.x, o.x)] else [(s.x, o.x), (s.s1, o.x)])
        ++ [(s.s2, o.y), (.no, o.z)]
    else [(if o.xq then .code else s.x, o.x), (s.s1, o.y), (if o.zq then .code else s.s2, o.z)]
  | .i | .ix => [(s.x, o.x), (.no, o.y), (.no, o.z)]
  | .s => [(s.x, o.x), (s.s2, o.y), (.no, o.z)]
  | .m => [(s.x, o.x), (match o.desc.mode.toNat with | 0 => .r | 2 => .p | _ => .no, o.y), (.no, o.z)]
  | .j => [(.no, o.x), (.no, o.y), (.no, o.z)]

/-- The registers that an instruction names without a field (R176). -/
def Instr.implied : Instr → List (RegUse × Reg)
  | .call _ | .calli _ => [(.r, 30)]
  | .frame _ => [(.r, 31)]
  | _ => []

/-- An instruction of class A or AX that reads x as a source, in the K-form without REG (reason 4; R65; for AX log 68). -/
def Instr.needsReg (i : Instr) : Bool :=
  i.sig.xRead && i.opnds.two

/-- Queue fields that break R56, R65, R91 or R121. -/
def Instr.badQueue (i : Instr) : Bool :=
  let o := i.opnds
  let s := i.sig
  (if o.zq then !s.zqOk || 2 ≤ o.z.toNat else o.wait != 0) || (o.xq && (!s.xqOk || 2 ≤ o.x.toNat))

/-- G fields that the instruction does not take (R58, R68). -/
def Instr.badMods (i : Instr) : Bool :=
  let g := i.opnds.g
  let s := i.sig
  (g.rlx && !s.rlx) || (g.scope != .none && !s.scope) || (g.sat && !s.sat) || (g.sr && !s.sr)
    || (g.cnt != 0 && !s.cnt) || g.cnt == 3

/-- An address descriptor that R67 forbids, or with a field that its MODE does not use (R68); `loc` operands take no BASE and
no MODE 2. -/
def Instr.badDesc (i : Instr) : Bool :=
  let d := i.opnds.desc
  5 ≤ d.scale.toNat || d.mode == 3 || (d.mode == 1 && (d.scale != 0 || d.ext))
    || (d.mode == 2 && (d.base != 0 || d.scale != 0 || d.ext))
    || (match i with | .ldl _ _ | .stl _ _ => d.base != 0 || 2 ≤ d.mode.toNat | _ => false)

/-- A value of a field that the instruction's own rule makes illegal with reason 5 and that stands in the first word of a
W2 instruction. -/
def Instr.badValue1 : Instr → Bool
  | .skbSet o | .skbClr o => 32 ≤ o.y.toNat
  | .frame o => o.x != 31
  | .ldq _ o | .stq _ o => 2 ≤ o.x.toNat
  | .qadv _ o => 4 ≤ o.x.toNat
  | .qrst o => 5 ≤ o.x.toNat
  -- x is 0 also where the two-address form reads s1 in its place (R208, R385, R436).
  | .gdone o | .gdoneFail o | .wspBind o | .tlbiPage o => o.two && o.x != 0
  | _ => false

/-- A value of the immediate or of G that the instruction's own rule makes illegal with reason 5. -/
def Instr.badValue2 : Instr → Bool
  | .fskp _ _ o | .fsetc _ _ o => o.nImm != 0 || o.imm != 0
  | .frnd _ o => 5 ≤ (o.imm.extractLsb' 0 3).toNat
  | .cvti _ _ o => 5 ≤ (o.imm.extractLsb' 1 3).toNat
  | .fence o | .fenceAcq o | .fenceRel o | .tfence o | .tlbiPage o | .tlbiAsid o | .tlbiAll o =>
    o.imm != 0 || o.g.scope == .none
  | .shfl m o => m == .pick && o.imm != 0
  | .rseg _ o | .yld o | .msend _ _ o | .mbind _ o | .mbindKeep _ o | .mbindUn _ _ o | .mtab _ _ o
  | .mtabPreset _ _ _ o | .mqf _ o | .lnch o | .lnchHw o | .xfence o | .xfencePkg o => o.imm != 0
  | .mstc _ o =>
    (o.imm.extractLsb' 7 3).toNat == 7 && (o.imm.extractLsb' 16 6).toNat < (o.imm.extractLsb' 10 6).toNat
  | .mldc _ o => 4 ≤ (o.imm.extractLsb' 7 3).toNat
  | .cpyJoin o => o.imm.getLsbD 7
  | .fput o =>
    let n := ((o.imm.extractLsb' 0 8).toNat + 1) * 16
    !(n == 16 || n == 32 || n == 64 || n % 128 == 0)
  | _ => false

/-- The system registers that a kind of core maps (R16 and the maps of the other chapters). -/
def sysMapped (kind : CoreKind) (idx : Nat) : Bool :=
  let strand := idx < 8 || (0x100 ≤ idx && idx ≤ 0x105) || (0x110 ≤ idx && idx ≤ 0x119) || (0x130 ≤ idx && idx ≤ 0x139)
    || (0x140 ≤ idx && idx ≤ 0x146) || (0x150 ≤ idx && idx ≤ 0x164) || (0x170 ≤ idx && idx ≤ 0x180)
  let truss := (0x190 ≤ idx && idx ≤ 0x194) || idx == 0x1A0 || idx == 0x1A1 || (0x1E0 ≤ idx && idx ≤ 0x1E1) || idx == 0x1E8
  let die := idx == 0x1B0 || (0x1C0 ≤ idx && idx ≤ 0x1CF) || (0x1D0 ≤ idx && idx ≤ 0x1D3) || (0x1F0 ≤ idx && idx ≤ 0x1F4)
  match kind with
  | .dcore | .lcore => strand || truss || die || (0x200 ≤ idx && idx ≤ 0x27F)
  | .eave => strand || die || (0x200 ≤ idx && idx ≤ 0x20F)

/-- A value that is illegal with reason 5 on one kind of core only (R16, R206, R462, R464, R488). -/
def Instr.badKind (kind : CoreKind) : Instr → Bool
  | .gets o | .sets o => !sysMapped kind (o.imm.extractLsb' 0 12).toNat
  | .yldCc _ => kind == .lcore
  | .cpy o | .cpyr o | .fget o => kind == .lcore && !o.imm.getLsbD 7
  | .cpyJoin o => kind != .dcore && (o.imm.extractLsb' 0 3).toNat != 0
  | _ => false

/-- The reasons that the register fields, the descriptor and the first word's values establish (R76, R77). -/
def Instr.errs1 (need : Nat) (i : Instr) : List Nat :=
  (if i.needsReg then [4] else [])
    ++ (if i.uses.any (fun u => u.1.bad5 u.2) || i.badQueue || i.badDesc || i.badValue1 then [5] else [])
    ++ (if (i.uses ++ i.implied).any (fun u => u.1.bad7 need u.2) then [7] else [])

/-- The reasons that the fields of a whole instruction establish. -/
def Instr.errs (kind : CoreKind) (need : Nat) (i : Instr) : List Nat :=
  i.errs1 need ++ (if i.badMods || i.badValue2 || i.badKind kind then [5] else [])

/-! ## The shape of operands in each class and form (R64, R66) -/

/-- The value `v` is one that `n` bits sign-extend to. -/
def fitsSext (n : Nat) (v : DWord) : Bool := ((v.setWidth n).signExtend 64) == v

/-- The bits that the base word of a K-form class adds to the immediate (R55, R64). -/
def kBaseBits : Cls → Nat
  | .i | .ix => 5
  | .j => 10
  | _ => 0

/-- The bits of a W-form immediate (R66). -/
def wImmBits : Cls → Nat
  | .i | .ax => 16
  | .ix => 32
  | .m => 26
  | .j => 22
  | .a | .s => 0

/-- The prefix kinds that a class accepts, IMM, REG and MOD (R64). -/
def clsAccepts : Cls → Bool × Bool × Bool
  | .a => (false, true, false)
  | .ax => (true, true, true)
  | .i => (true, false, false)
  | .ix => (true, false, true)
  | .s => (false, false, true)
  | .m => (true, true, true)
  | .j => (true, false, false)

/-- The operand record is one that the encoding of its class and form can hold; `page` tells whether a PAGE prefix
stands in the chain. -/
def Opnds.shapeOk (cls : Cls) (page : Nat) (o : Opnds) : Bool :=
  let rs := match cls with | .a | .ax => true | _ => false
  match o.form with
  | .k =>
    let acc := clsAccepts cls
    (o.nImm == 0 || acc.1) && (!o.reg || acc.2.1) && (!o.mod || acc.2.2)
      && o.nImm + (if page = 0 then 0 else 1) + o.reg.toNat + o.mod.toNat ≤ 4
      && o.x.toNat < 32 && o.y.toNat < 32 && o.z.toNat < 32
      && fitsSext (10 * o.nImm + kBaseBits cls) o.imm
      && ((rs && o.reg) || (o.z == 0 && !o.zq && o.wait == 0 && !o.xq))
      && ((cls == .m && o.reg) || o.desc == {})
      && (o.mod || o.g == {})
      && (match cls with | .i | .ix => o.y == 0 | .j => o.x == 0 && o.y == 0 | _ => true)
  | .w =>
    o.nImm == 0 && !o.reg && !o.mod && !o.zq && o.wait == 0 && !o.xq
      && fitsSext (wImmBits cls) o.imm
      && (rs || cls == .s || o.z == 0)
      && (cls == .m || o.desc == {})
      && (match cls with
          | .a | .i | .j => o.g == {}
          | .s => o.g == { cnt := o.g.cnt }
          | .m => o.g == { rlx := o.g.rlx }
          | _ => true)
      && (match cls with | .i | .ix => o.y == 0 | .j => o.x == 0 && o.y == 0 | _ => true)

/-- The operands of a KB word (R53). -/
def Opnds.kbOk (o : Opnds) : Bool :=
  o == { form := .k, imm := o.imm } && fitsSext 12 o.imm

end Sys2Proof
end

