-- ==== Sys2Proof/Machine/Flags.lean ====
section
/-! DEFINITION. The sticky flags of STATUS (R13, R28) and the comparison conditions (R92, R128). -/

namespace Sys2Proof.Machine

open Sys2Proof

/-- The sticky flags that an operation raises (R13, R28). -/
structure FFlags where
  nv : Bool := false
  dz : Bool := false
  of : Bool := false
  uf : Bool := false
  nx : Bool := false
  deriving DecidableEq, Repr

/-- The flags of both (R29). -/
def orFlags (a b : FFlags) : FFlags :=
  { nv := a.nv || b.nv, dz := a.dz || b.dz, of := a.of || b.of, uf := a.uf || b.uf, nx := a.nx || b.nx }

/-- NV alone. -/
def flagNV : FFlags := { nv := true }

/-- The flags in their places in STATUS: NV 6, DZ 5, OF 4, UF 3, NX 2 (R13). -/
def flagBits (f : FFlags) : DWord :=
  (BitVec.ofBool f.nv ++ BitVec.ofBool f.dz ++ BitVec.ofBool f.of ++ BitVec.ofBool f.uf ++ BitVec.ofBool f.nx
    ++ (0 : BitVec 2)).setWidth 64

/-- An instruction that raises a flag sets it and clears none (R13). -/
def raiseFlags (status : DWord) (f : FFlags) : DWord := status ||| flagBits f

/-- The integer comparison of a condition code (R92). -/
def condHolds {n : Nat} (c : Cond) (a b : BitVec n) : Bool :=
  match c with
  | .eq => a == b
  | .ne => a != b
  | .lt => a.slt b
  | .le => a.sle b
  | .gt => b.slt a
  | .ge => b.sle a
  | .ltn => a.ult b
  | .len => a.ule b
  | .gtn => b.ult a
  | .gen => b.ule a

end Sys2Proof.Machine
end

