-- ==== Sys2Proof/Machine/Float.lean ====
section
/-! DEFINITION. Floating-point values, their formats and the one rounding (R26-R32, R47, R48), the arithmetic of R123
to R135, and the functions of R126. A finite value is a sign, a natural number and a power of two. -/

namespace Sys2Proof.Machine

open Sys2Proof

/-! ## Values and formats -/

/-- A value of a floating-point format: a NaN, an infinity, or (-1)^neg * m * 2^e. -/
inductive FVal where
  | nan (signalling : Bool)
  | inf (neg : Bool)
  | fin (neg : Bool) (m : Nat) (e : Int)
  deriving DecidableEq, Repr

/-- A binary format: precision with the hidden bit, and the width of the exponent field (R26). -/
structure Fmt where
  p  : Nat
  eb : Nat
  deriving DecidableEq, Repr

def fp64 : Fmt := { p := 53, eb := 11 }
def fp32 : Fmt := { p := 24, eb := 8 }
def fp16 : Fmt := { p := 11, eb := 5 }
def bf16 : Fmt := { p := 8, eb := 8 }

/-- The format of one element of a type (R119). -/
def fmtOf : FType → Fmt
  | .f32 => fp32
  | .f64 => fp64
  | .f16 | .f16x2 => fp16
  | .bf16 | .bf16x2 => bf16

/-- The exponent bias. -/
def fmtBias (f : Fmt) : Int := 2 ^ (f.eb - 1) - 1
/-- The exponent of the smallest normal value. -/
def fmtEmin (f : Fmt) : Int := 1 - fmtBias f
/-- The weight of the last place of a subnormal. -/
def fmtQmin (f : Fmt) : Int := fmtEmin f - (f.p - 1 : Nat)

/-- The value of an encoding (R26, R27). -/
def fDecode (f : Fmt) (b : Nat) : FVal :=
  let mb := f.p - 1
  let m := b % 2 ^ mb
  let ex := b / 2 ^ mb % 2 ^ f.eb
  let neg := (b / 2 ^ (mb + f.eb)) % 2 == 1
  if ex = 2 ^ f.eb - 1 then (if m = 0 then .inf neg else .nan (m < 2 ^ (mb - 1)))
  else if ex = 0 then .fin neg m (fmtQmin f)
  else .fin neg (2 ^ mb + m) (fmtQmin f + (ex - 1 : Nat))

/-- The sign bit in its place. -/
def fSign (f : Fmt) (neg : Bool) : Nat := if neg then 2 ^ (f.p - 1 + f.eb) else 0
/-- The canonical NaN (R26). -/
def fNaN (f : Fmt) : Nat := (2 ^ f.eb - 1) * 2 ^ (f.p - 1) + 2 ^ (f.p - 2)
/-- An infinity. -/
def fInf (f : Fmt) (neg : Bool) : Nat := fSign f neg + (2 ^ f.eb - 1) * 2 ^ (f.p - 1)
/-- The largest finite value. -/
def fMax (f : Fmt) (neg : Bool) : Nat := fInf f neg - 1
/-- A zero. -/
def fZero (f : Fmt) (neg : Bool) : Nat := fSign f neg

/-- The encoding of `k` units of weight 2^q, where k < 2^p, and k has p bits unless q is the subnormal weight. -/
def fEncode (f : Fmt) (neg : Bool) (k : Nat) (q : Int) : Nat :=
  if k < 2 ^ (f.p - 1) then fSign f neg + k
  else fSign f neg + (q - fmtQmin f + 1).toNat * 2 ^ (f.p - 1) + (k - 2 ^ (f.p - 1))

/-! ## Rounding -/

/-- A rounding mode, with LFSR[31:8] for a stochastic one (R47, R48). -/
structure RMode where
  mode : Rounding
  lfsr : Nat := 0
  deriving DecidableEq, Repr

/-- RM of STATUS (R13). -/
def rmOf (rm : BitVec 2) : RMode :=
  match rm.toNat with
  | 0 => { mode := .rne } | 1 => { mode := .rtz } | 2 => { mode := .rup } | _ => { mode := .rdn }

/-- Whether a magnitude between k and k+1 units goes to k+1, for a remainder of `rem` of `unit` parts and a part that is
only known to be above 0 and below one part (`sticky`). -/
def roundsUp (r : RMode) (neg : Bool) (k rem unit : Nat) (sticky : Bool) : Bool :=
  let inexact := rem != 0 || sticky
  match r.mode with
  | .rne => unit < 2 * rem || (2 * rem == unit && (sticky || k % 2 == 1))
  | .rtz => false
  | .rup => inexact && !neg
  | .rdn => inexact && neg
  | .sr => inexact && r.lfsr < rem * 2 ^ 24 / unit

/-- Rounds m * 2^e, plus less than 2^e when `sticky`, to units of 2^q: the units and whether the value changed. A sticky
value has e below q. -/
def roundUnits (r : RMode) (neg : Bool) (m : Nat) (e : Int) (sticky : Bool) (q : Int) : Nat × Bool :=
  if q ≤ e then (m * 2 ^ (e - q).toNat, sticky)
  else
    let d := (q - e).toNat
    if m.log2 + 2 < d then
      -- below a quarter of a unit: the value is a remainder of less than half
      let small := m != 0 || sticky
      (if small && roundsUp r neg 0 1 4096 true && r.mode != .sr then 1 else 0, small)
    else
      let k := m / 2 ^ d
      let rem := m % 2 ^ d
      (if roundsUp r neg k rem (2 ^ d) sticky then k + 1 else k, rem != 0 || sticky)

/-- The stochastic decision for a magnitude far below one unit (R48): LFSR[31:8] is below floor(f * 2^24). -/
def srTiny (r : RMode) (m : Nat) (e q : Int) : Bool :=
  r.mode == .sr && r.lfsr < m * 2 ^ 24 / 2 ^ (q - e).toNat

/-- A rounded encoding with the flags it raises. -/
structure Rounded where
  bits  : Nat
  flags : FFlags := {}
  deriving DecidableEq, Repr

/-- What overflow delivers (R28): `sat` delivers the largest finite value (R133). -/
def fOverflow (f : Fmt) (r : RMode) (neg sat : Bool) : Nat :=
  let toInf := match r.mode with
    | .rne | .sr => true
    | .rtz => false
    | .rup => !neg
    | .rdn => neg
  if sat then fMax f neg else if toInf then fInf f neg else fMax f neg

/-- Rounds a non-zero magnitude m * 2^e (plus less than 2^e when `sticky`) to a format, with the flags of R28. UF stands
for a result that is tiny after rounding with an unbounded exponent range, zero included. DEDUCED (log 23). -/
def roundFin (f : Fmt) (r : RMode) (neg : Bool) (m : Nat) (e : Int) (sticky sat : Bool) : Rounded :=
  let lead : Int := e + m.log2
  let qu : Int := lead - (f.p - 1 : Nat)
  let q : Int := if qu < fmtQmin f then fmtQmin f else qu
  let (k0, inexact) := roundUnits r neg m e sticky q
  let k := if r.mode == .sr && k0 == 0 && srTiny r m e q then 1 else k0
  let (ku, _) := roundUnits r neg m e sticky qu
  let tiny := decide (lead < fmtEmin f) && !(lead + 1 = fmtEmin f && ku == 2 ^ f.p)
  let (k, q) := if k = 2 ^ f.p then (2 ^ (f.p - 1), q + 1) else (k, q)
  if fmtBias f < q + (f.p - 1 : Nat) ∧ 2 ^ (f.p - 1) ≤ k then
    { bits := fOverflow f r neg sat, flags := { of := true, nx := true } }
  else { bits := fEncode f neg k q, flags := { nx := inexact, uf := inexact && tiny } }

/-- Rounds a value to a format (R27, R28): a zero keeps its sign, a NaN is canonical and a signalling one sets NV. -/
def roundVal (f : Fmt) (r : RMode) (v : FVal) (sat : Bool := false) : Rounded :=
  match v with
  | .nan s => { bits := fNaN f, flags := { nv := s } }
  | .inf n => { bits := fInf f n }
  | .fin n m e => if m = 0 then { bits := fZero f n } else roundFin f r n m e false sat

/-- The invalid operation: the canonical NaN and NV (R123). -/
def fInvalid (f : Fmt) : Rounded := { bits := fNaN f, flags := flagNV }

/-- A NaN result of NaN operands (R27). -/
def fNanResult (f : Fmt) (sig : Bool) : Rounded := { bits := fNaN f, flags := { nv := sig } }

/-! ## Arithmetic -/

def isNan : FVal → Bool
  | .nan _ => true
  | _ => false

def isSNan : FVal → Bool
  | .nan s => s
  | _ => false

def isInf : FVal → Bool
  | .inf _ => true
  | _ => false

def isZero : FVal → Bool
  | .fin _ m _ => m == 0
  | _ => false

def signOf : FVal → Bool
  | .nan _ => false
  | .inf n => n
  | .fin n _ _ => n

def negVal : FVal → FVal
  | .nan s => .nan s
  | .inf n => .inf (!n)
  | .fin n m e => .fin (!n) m e

/-- The signed integer of a finite value in units of 2^e. -/
def unitsAt (n : Bool) (m : Nat) (e0 e : Int) : Int :=
  let k : Int := (m * 2 ^ (e0 - e).toNat : Nat)
  if n then -k else k

/-- The exact sum of two finite values, with the zero sign of R27. -/
def sumFin (r : RMode) (n1 : Bool) (m1 : Nat) (e1 : Int) (n2 : Bool) (m2 : Nat) (e2 : Int) : FVal :=
  if m1 = 0 ∧ m2 = 0 then .fin (if n1 == n2 then n1 else r.mode == .rdn) 0 0
  else if m1 = 0 then .fin n2 m2 e2
  else if m2 = 0 then .fin n1 m1 e1
  else
    let e := if e1 < e2 then e1 else e2
    let s := unitsAt n1 m1 e1 e + unitsAt n2 m2 e2 e
    if s = 0 then .fin (r.mode == .rdn) 0 0 else .fin (decide (s < 0)) s.natAbs e

/-- The sum of two values that are not NaN; none where it is invalid (R123). -/
def sumVal (r : RMode) : FVal → FVal → Option FVal
  | .fin n1 m1 e1, .fin n2 m2 e2 => some (sumFin r n1 m1 e1 n2 m2 e2)
  | .inf a, .inf b => if a = b then some (.inf a) else none
  | .inf a, _ => some (.inf a)
  | _, b => some b

/-- The product of two values that are not NaN; none where it is invalid (R123). -/
def prodVal : FVal → FVal → Option FVal
  | .fin n1 m1 e1, .fin n2 m2 e2 => some (.fin (n1 != n2) (m1 * m2) (if m1 * m2 = 0 then 0 else e1 + e2))
  | a, b => if isZero a || isZero b then none else some (.inf (signOf a != signOf b))

/-- FADD (R123). -/
def fAdd (f : Fmt) (r : RMode) (a b : FVal) : Rounded :=
  if isNan a || isNan b then fNanResult f (isSNan a || isSNan b)
  else match sumVal r a b with
    | none => fInvalid f
    | some v => roundVal f r v

/-- FSUB (R123). -/
def fSub (f : Fmt) (r : RMode) (a b : FVal) : Rounded := fAdd f r a (negVal b)

/-- FMUL (R123). -/
def fMul (f : Fmt) (r : RMode) (a b : FVal) : Rounded :=
  if isNan a || isNan b then fNanResult f (isSNan a || isSNan b)
  else match prodVal a b with
    | none => fInvalid f
    | some v => roundVal f r v

/-- FMA: a * b + c, rounded once (R123). -/
def fMulAdd (f : Fmt) (r : RMode) (a b c : FVal) (sat : Bool := false) : Rounded :=
  if isNan a || isNan b || isNan c then
    let zeroInf := (isZero a && isInf b) || (isInf a && isZero b)
    fNanResult f (isSNan a || isSNan b || isSNan c || zeroInf)
  else match prodVal a b with
    | none => fInvalid f
    | some p => match sumVal r p c with
      | none => fInvalid f
      | some v => roundVal f r v sat

/-- FNMA: c - a * b, rounded once (R123). -/
def fNegMulAdd (f : Fmt) (r : RMode) (a b c : FVal) : Rounded := fMulAdd f r (negVal a) b c

/-- FDIV (R123). The quotient of two magnitudes is taken to 128 bits and a sticky remainder. -/
def fDiv (f : Fmt) (r : RMode) (a b : FVal) : Rounded :=
  if isNan a || isNan b then fNanResult f (isSNan a || isSNan b)
  else
    let neg := signOf a != signOf b
    match a, b with
    | .fin _ m1 e1, .fin _ m2 e2 =>
      if m2 = 0 then
        if m1 = 0 then fInvalid f else { bits := fInf f neg, flags := { dz := true } }
      else if m1 = 0 then { bits := fZero f neg }
      else
        let t := m1 * 2 ^ 128
        roundFin f r neg (t / m2) (e1 - e2 - 128) (t % m2 != 0) false
    | .inf _, .fin _ _ _ => { bits := fInf f neg }
    | .fin _ _ _, .inf _ => { bits := fZero f neg }
    | _, _ => fInvalid f

/-- The integer square root, bit by bit: the largest r of `fuel` bits above `acc` with r * r at most n. -/
def isqrtStep (n : Nat) : Nat → Nat → Nat
  | 0, acc => acc
  | b + 1, acc =>
    let t := acc + 2 ^ b
    isqrtStep n b (if t * t ≤ n then t else acc)

/-- The integer square root. -/
def isqrt (n : Nat) : Nat := isqrtStep n (n.log2 / 2 + 1) 0

/-- A magnitude m * 2^e with an even exponent. -/
def evenExp (m : Nat) (e : Int) : Nat × Int := if e % 2 = 0 then (m, e) else (2 * m, e - 1)

/-- FSQRT (R123). -/
def fSqrt (f : Fmt) (r : RMode) (a : FVal) : Rounded :=
  match a with
  | .nan s => fNanResult f s
  | .inf n => if n then fInvalid f else { bits := fInf f false }
  | .fin n m e =>
    if m = 0 then { bits := fZero f n }
    else if n then fInvalid f
    else
      let (m, e) := evenExp m e
      let t := m * 2 ^ 128
      let s := isqrt t
      roundFin f r false s (e / 2 - 64) (s * s != t) false

/-- FRCP (R123). -/
def fRcp (f : Fmt) (r : RMode) (a : FVal) : Rounded := fDiv f r (.fin false 1 0) a

/-- FRSQ (R123). -/
def fRsq (f : Fmt) (r : RMode) (a : FVal) : Rounded :=
  match a with
  | .nan s => fNanResult f s
  | .inf n => if n then fInvalid f else { bits := fZero f false }
  | .fin n m e =>
    if m = 0 then { bits := fInf f n, flags := { dz := true } }
    else if n then fInvalid f
    else
      let (m, e) := evenExp m e
      let t := 2 ^ 256 / m
      let s := isqrt t
      roundFin f r false s (-(e / 2) - 128) (s * s * m != 2 ^ 256) false

/-! ## Comparison -/

/-- Compares two values that are not NaN; -0 and +0 are equal (R128). -/
def cmpVal (a b : FVal) : Ordering :=
  match a, b with
  | .fin n1 m1 e1, .fin n2 m2 e2 =>
    let e := if e1 < e2 then e1 else e2
    compare (unitsAt n1 m1 e1 e) (unitsAt n2 m2 e2 e)
  | .inf n1, .inf n2 => compare (if n1 then (0 : Nat) else 1) (if n2 then 0 else 1)
  | .inf n, _ => if n then .lt else .gt
  | _, .inf n => if n then .gt else .lt
  | _, _ => .eq

/-- Whether a condition holds, and NV (R128). -/
def fCondHolds (c : FCond) (a b : FVal) : Bool × FFlags :=
  let un := isNan a || isNan b
  let o := if un then .eq else cmpVal a b
  let sig : FFlags := { nv := isSNan a || isSNan b }
  let any : FFlags := { nv := un }
  match c with
  | .eq => (!un && o == .eq, sig)
  | .ne => (un || o != .eq, sig)
  | .lt => (!un && o == .lt, any)
  | .le => (!un && o != .gt, any)
  | .gt => (!un && o == .gt, any)
  | .ge => (!un && o != .lt, any)
  | .un => (un, sig)
  | .or => (!un, sig)

/-- FMIN and FMAX on encodings (R124): -0 counts below +0. -/
def fMinMax (f : Fmt) (max : Bool) (a b : Nat) : Rounded :=
  let va := fDecode f a
  let vb := fDecode f b
  let fl : FFlags := { nv := isSNan va || isSNan vb }
  match isNan va, isNan vb with
  | true, true => { bits := fNaN f, flags := fl }
  | true, false => { bits := b, flags := fl }
  | false, true => { bits := a, flags := fl }
  | false, false =>
    let less := match cmpVal va vb with
      | .lt => true
      | .gt => false
      | .eq => signOf va && !signOf vb
    { bits := if less != max then a else b, flags := fl }

/-- FABS and FNEG on an encoding (R125). -/
def fAbsNeg (f : Fmt) (neg : Bool) (a : Nat) : Nat :=
  let s := 2 ^ (f.p - 1 + f.eb)
  if isNan (fDecode f a) then fNaN f
  else if neg then (if a / s % 2 = 1 then a - s else a + s) else a % s

/-- FCLS: the class bit of an encoding (R127). -/
def fClass (f : Fmt) (a : Nat) : Nat :=
  match fDecode f a with
  | .nan s => if s then 8 else 9
  | .inf n => if n then 0 else 7
  | .fin n m _ =>
    let normal := 2 ^ (f.p - 1) ≤ m
    if m = 0 then (if n then 3 else 4)
    else if normal then (if n then 1 else 6)
    else (if n then 2 else 5)

/-! ## Rounding to an integer -/

/-- A finite value rounded to an integral magnitude, and whether it changed. -/
def roundInt (r : RMode) (n : Bool) (m : Nat) (e : Int) : Nat × Bool := roundUnits r n m e false 0

/-- FRND (R131): the sign is kept, and NX is set only when asked. -/
def fRound (f : Fmt) (r : RMode) (setNx : Bool) (a : FVal) : Rounded :=
  match a with
  | .nan s => fNanResult f s
  | .inf n => { bits := fInf f n }
  | .fin n m e =>
    let (k, ch) := roundInt r n m e
    if k = 0 then { bits := fZero f n, flags := { nx := setNx && ch } }
    else { bits := (roundFin f r n k 0 false false).bits, flags := { nx := setNx && ch } }

/-- CVTI (R134): a float to an integer between two limits; a clamped result sets NV only. -/
def fToInt (r : RMode) (lo hi : Int) (a : FVal) : Int × FFlags :=
  match a with
  | .nan _ => (0, flagNV)
  | .inf n => (if n then lo else hi, flagNV)
  | .fin n m e =>
    let (k, ch) := roundInt r n m e
    let v : Int := if n then -(k : Int) else k
    if v < lo then (lo, flagNV) else if hi < v then (hi, flagNV) else (v, { nx := ch })

/-- CVTF (R135): a result of zero is +0. -/
def fFromInt (f : Fmt) (r : RMode) (v : Int) : Rounded :=
  roundVal f r (.fin (decide (v < 0)) v.natAbs 0)

/-! ## The functions of R126

Each is taken in fixed point with 320 fraction bits and an error below 2^-300. A result that is not exact is never
closer than that to a rounding boundary of a 32-bit or 16-bit type. DEDUCED (log 24). -/

/-- Fraction bits. -/
def fixBits : Nat := 320
/-- ln 2, in units of 2^-320. -/
def fixLn2 : Nat :=
  1480553391661173448385607439722553250922680800745876974795605978609098082859138712941075737848984
/-- Pi, in units of 2^-320. -/
def fixPi : Nat :=
  6710401180212168915155840974220003240804194089427148950727106424351713218671805380099500388914039

/-- The terms of the exponential series from `t`, the k-th. -/
def fixExpSum (y : Nat) : Nat → Nat → Nat → Nat
  | 0, _, _ => 0
  | fuel + 1, k, t => t + fixExpSum y fuel (k + 1) (t * y / 2 ^ fixBits / (k + 1))

/-- The terms of the sine or cosine series from `t`, the k-th power, with alternating signs. -/
def fixTrigSum (y2 : Nat) : Nat → Nat → Nat → Int
  | 0, _, _ => 0
  | fuel + 1, k, t => (t : Int) - fixTrigSum y2 fuel (k + 2) (t * y2 / 2 ^ fixBits / ((k + 1) * (k + 2)))

/-- The terms of the series of artanh z, from the power `t` of exponent k. -/
def fixAtanhSum (z2 : Nat) : Nat → Nat → Nat → Nat
  | 0, _, _ => 0
  | fuel + 1, k, t => t / k + fixAtanhSum z2 fuel (k + 2) (t * z2 / 2 ^ fixBits)

/-- The whole part and the fraction, in units of 2^-320, of a magnitude below 2^130 whose last place is at 2^-320 or
above. -/
def fixSplit (m : Nat) (e : Int) : Nat × Nat :=
  let t := if 0 ≤ e then m * 2 ^ (e.toNat + fixBits) else m * 2 ^ fixBits / 2 ^ (-e).toNat
  (t / 2 ^ fixBits, t % 2 ^ fixBits)

/-- FEXP2. -/
def fExp2 (f : Fmt) (r : RMode) (a : FVal) : Rounded :=
  match a with
  | .nan s => fNanResult f s
  | .inf n => { bits := if n then fZero f false else fInf f false }
  | .fin n m e =>
    let (i, fr) := fixSplit m e
    if fr = 0 then roundFin f r false 1 (if n then -(i : Int) else i) false false
    else
      -- 2^-x = 2^(-i-1) * 2^(1 - fraction)
      let (i, fr) : Int × Nat := if n then (-(i : Int) - 1, 2 ^ fixBits - fr) else (i, fr)
      let s := fixExpSum (fr * fixLn2 / 2 ^ fixBits) 90 0 (2 ^ fixBits)
      roundFin f r false s (i - fixBits) true false

/-- FLOG2. -/
def fLog2 (f : Fmt) (r : RMode) (a : FVal) : Rounded :=
  match a with
  | .nan s => fNanResult f s
  | .inf n => if n then fInvalid f else { bits := fInf f false }
  | .fin n m e =>
    if m = 0 then { bits := fInf f true, flags := { dz := true } }
    else if n then fInvalid f
    else
      let l := m.log2
      let i : Int := e + l
      if m = 2 ^ l then fFromInt f r i
      else
        let u := 2 ^ l
        let z := (m - u) * 2 ^ fixBits / (m + u)
        let ln := 2 * fixAtanhSum (z * z / 2 ^ fixBits) 110 1 z
        let t : Int := i * 2 ^ fixBits + (ln * 2 ^ fixBits / fixLn2 : Nat)
        roundFin f r (decide (t < 0)) (if t < 0 then t.natAbs - 1 else t.natAbs) (-(fixBits : Int)) true false

/-- sin (pi y) for a fraction y of at most one half, in units of 2^-320. -/
def fixSin (y : Nat) : Nat :=
  let t := y * fixPi / 2 ^ fixBits
  (fixTrigSum (t * t / 2 ^ fixBits) 60 1 t).toNat

/-- cos (pi y) for a fraction y of at most one half, in units of 2^-320. -/
def fixCos (y : Nat) : Nat :=
  let t := y * fixPi / 2 ^ fixBits
  (fixTrigSum (t * t / 2 ^ fixBits) 60 0 (2 ^ fixBits)).toNat

/-- FSIN. -/
def fSin (f : Fmt) (r : RMode) (a : FVal) : Rounded :=
  match a with
  | .nan s => fNanResult f s
  | .inf _ => fInvalid f
  | .fin n m e =>
    let (i, fr) := fixSplit m e
    let half := 2 ^ (fixBits - 1)
    if fr = 0 then { bits := fZero f n }
    else
      let neg := n != (i % 2 == 1)
      if fr = half then roundFin f r neg 1 0 false false
      else roundFin f r neg (fixSin (if half < fr then 2 ^ fixBits - fr else fr)) (-(fixBits : Int)) true false

/-- FCOS. -/
def fCos (f : Fmt) (r : RMode) (a : FVal) : Rounded :=
  match a with
  | .nan s => fNanResult f s
  | .inf _ => fInvalid f
  | .fin _ m e =>
    let (i, fr) := fixSplit m e
    let half := 2 ^ (fixBits - 1)
    let odd := i % 2 == 1
    if fr = half then { bits := fZero f false }
    else if fr = 0 then roundFin f r odd 1 0 false false
    else
      let neg := odd != decide (half < fr)
      let c := fixCos (if half < fr then 2 ^ fixBits - fr else fr)
      -- just below a power of two the value is strictly below it
      roundFin f r neg (c - 1) (-(fixBits : Int)) true false

/-! ## E8M10 (R30-R32) -/

/-- The value of an E8M10 encoding under a reading of the top exponent. -/
def e8m10Val (txr : Bool) (v : BitVec 19) : FVal :=
  let neg := v.getLsbD 18
  let ex := (v.extractLsb' 10 8).toNat
  let m := (v.extractLsb' 0 10).toNat
  if ex = 255 then
    if txr then (if m = 0x3FF then .nan false else .fin neg (1024 + m) 118)
    else if m = 0 then .inf neg else .nan (m < 512)
  else if ex = 0 then .fin neg m (-136)
  else .fin neg (1024 + m) ((ex : Int) - 137)

/-- A value as an E8M10 encoding that holds it exactly: the presets' entries. -/
def e8m10Enc (neg : Bool) (m : Nat) (e : Int) : BitVec 19 :=
  let s : BitVec 19 := if neg then 0x40000 else 0
  if m = 0 then s
  else
    let l := m.log2
    let lead : Int := e + l
    if lead < -126 then s ||| BitVec.ofNat 19 (m * 2 ^ (e + 136).toNat)
    else
      let frac := if l ≤ 10 then (m - 2 ^ l) * 2 ^ (10 - l) else (m - 2 ^ l) / 2 ^ (l - 10)
      s ||| BitVec.ofNat 19 ((lead + 127).toNat * 1024 + frac)

/-- The E8M10 infinity code of the TXR = 0 reading, and the canonical NaN of either (R30). -/
def e8m10Inf : BitVec 19 := 0x3FC00
def e8m10NaN (txr : Bool) : BitVec 19 := if txr then 0x3FFFF else 0x3FE00

end Sys2Proof.Machine
end

