-- ==== Sys2Proof/Config.lean ====
section
/-! DEFINITION. What the manual leaves free: values with no body, which no proof can evaluate (log 8, log 9). -/

namespace Sys2Proof

/-- A free choice: the number of the step's free counter and the purpose of the choice. -/
opaque Config.choice : Nat → Nat → Nat
/-- The feature bits that a device offers in FEATOFF; the manual gives none. -/
opaque Config.featOff : QWord
/-- The node id by which RAS names an L2 slice of a die; the manual gives none (log 47). -/
opaque Config.sliceNode : Nat → Nat → Word
/-- The units of a virtual channel that a link takes before the first credit comes back; the manual gives none (R477, log 64). -/
opaque Config.linkCredits : Nat → Nat
/-- The far end of a link of a package: the package and its link; which links are wired, and how, is the system's (R478, log 64). -/
opaque Config.wire : Nat → Nat → Option (Nat × Nat)
/-- The 80 bytes of a slot of a flit, by the unit that it holds; the manual gives no format of a unit's header (R476, log 64). -/
opaque Config.slotBytes : Nat → List Byte
/-- CRC-64 over bytes; the manual gives no polynomial (R476, log 64). -/
opaque Config.crc64 : List Byte → DWord
/-- The public key in the fuses of a package, its own key, and its identity with the signature of it (R471, log 50). -/
opaque Config.fuseKey : Nat → List Byte
opaque Config.deviceKey : Nat → List Byte
opaque Config.identity : Nat → List Byte × List Byte
/-- XMSS-SHAKE256_20_256: whether a signature of bytes holds under a public key, and the signature of bytes with a key at a
leaf index; the manual names the parameter set and gives no algorithm (R471, log 50). -/
opaque Config.xmssVerify : List Byte → List Byte → List Byte → Bool
opaque Config.xmssSign : List Byte → Nat → List Byte → List Byte
/-- A value that the manual does not state, by the free counter and its purpose. -/
opaque Config.freeValue : Nat → Nat → DWord

/-- The watts that keep a bay's region of its die within 500 W/cm²; the manual gives no areas (R466, log 46). -/
opaque Config.bayWatts : Nat → Nat

end Sys2Proof
end

