-- ==== Sys2Proof/WellFormed.lean ====
section
/-! DEFINITION. The well-formed instructions: those that some words encode on a kind of core (R49-R76). -/

namespace Sys2Proof

/-- The form in which a kind of core issues (R10, R456). -/
def kindForm : CoreKind → Form
  | .dcore | .eave => .k
  | .lcore => .w

/-- The highest register need of a form (R176): 32 registers in the K-form, 64 in the W-form. -/
def maxNeed : CoreKind → Nat
  | .dcore | .eave => 32
  | .lcore => 64

/-- An instruction that an encoding names on this kind of core: its cell exists there in the core's form, its operands
have the shape of its class, and no field breaks R64 to R68. An event is not encoded and is not well-formed. -/
def Instr.wf (kind : CoreKind) (i : Instr) : Bool :=
  match i with
  | .br o => kindForm kind == .k && o.kbOk
  | i =>
    match i.cell? with
    | none => false
    | some (page, op, _) =>
      match cellInfo page op with
      | none => false
      | some (cls, kOk, wOk) =>
        i.opnds.form == kindForm kind
          && (match kindForm kind with | .k => kOk | .w => wOk)
          && !cellAbsent kind page op
          && i.opnds.shapeOk cls page
          && (i.errs kind (maxNeed kind)).isEmpty

end Sys2Proof
end

