-- ==== Sys2Proof/Decode.lean ====
section
/-! DEFINITION. Decoding and encoding (R49-R77). The decoder reads the words of an instruction in address order and
stops at the first word that makes the instruction illegal (R76). -/

namespace Sys2Proof

/-- Why bytes are no instruction: the reason codes of R76, or too few bytes. -/
inductive DecodeErr where
  /-- More bytes are needed. -/
  | truncated
  /-- Reason 1: an illegal cell, or a W-form OP of 56-63. -/
  | illegalCell
  /-- Reason 2: a reserved page. -/
  | reservedPage
  /-- Reason 3: an illegal prefix chain. -/
  | illegalChain
  /-- Reason 4: a prefix kind not accepted, or a missing REG. -/
  | prefixNotAccepted
  /-- Reason 5: a forbidden field value. -/
  | forbiddenField
  /-- Reason 6: a cell used in a form in which it does not exist. -/
  | wrongForm
  /-- Reason 7: a forbidden register operand. -/
  | forbiddenRegister
  deriving DecidableEq, Repr

/-- The reason code of R76. -/
def decodeErrReason : DecodeErr → Nat
  | .truncated => 0
  | .illegalCell => 1
  | .reservedPage => 2
  | .illegalChain => 3
  | .prefixNotAccepted => 4
  | .forbiddenField => 5
  | .wrongForm => 6
  | .forbiddenRegister => 7

/-- The error that reports a reason code. -/
def decodeErrOf : Nat → DecodeErr
  | 1 => .illegalCell
  | 2 => .reservedPage
  | 3 => .illegalChain
  | 4 => .prefixNotAccepted
  | 5 => .forbiddenField
  | 6 => .wrongForm
  | _ => .forbiddenRegister

/-- The lowest of the reasons that hold (R76). -/
def lowestReason (l : List Nat) : Nat := l.foldl Nat.min 8

/-- The instruction when no reason holds; else the lowest reason (R76). -/
def judge (l : List Nat) (i : Instr) : Except DecodeErr Instr :=
  if l.isEmpty then .ok i else .error (decodeErrOf (lowestReason l))

/-! ## K-form -/

/-- The prefixes read so far: the IMM fields, PG and FN, and the REG and MOD payloads (R54-R58). -/
structure Chain where
  nImm : Nat := 0
  imm  : Nat := 0
  page : Option (Nat × Nat) := none
  reg  : Option (BitVec 10) := none
  mod  : Option (BitVec 10) := none
  deriving DecidableEq, Repr

/-- The number of prefixes (R59). -/
def Chain.count (c : Chain) : Nat := c.nImm + c.page.isSome.toNat + c.reg.isSome.toNat + c.mod.isSome.toNat

/-- The top four bits of a K-form word choose its format (R52). -/
def halfTop (w : Half) : Nat := (w.extractLsb' 12 4).toNat

/-- One prefix word (R54-R59): the reasons it establishes, and the chain with it. -/
def prefixStep (c : Chain) (w : Half) : List Nat × Chain :=
  let pay : BitVec 10 := w.extractLsb' 0 10
  let fifth := if c.count = 4 then [3] else []
  match (w.extractLsb' 10 2).toNat with
  | 0 => (fifth, { c with nImm := c.nImm + 1, imm := c.imm * 1024 + pay.toNat })
  | 1 => (fifth ++ (if c.reg.isSome then [3] else []), { c with reg := some pay })
  | 2 =>
    let pg := (pay.extractLsb' 6 4).toNat
    (fifth ++ (if c.page.isSome then [3] else []) ++ (if 1 ≤ pg ∧ pg ≤ 11 then [] else [2]),
      { c with page := some (pg, (pay.extractLsb' 0 6).toNat) })
  | _ =>
    (fifth ++ (if c.mod.isSome then [3] else [])
        ++ (if pay.extractLsb' 0 2 != 0 || pay.extractLsb' 2 2 == 3 then [5] else []),
      { c with mod := some pay })

/-- The G field of a MOD payload or of a W-form word (R58). -/
def modsOf (g : BitVec 10) : Mods :=
  { rlx := g.getLsbD 9, scope := scopeOf (g.extractLsb' 6 3), sat := g.getLsbD 5, sr := g.getLsbD 4,
    cnt := g.extractLsb' 2 2 }

/-- The low `n` bits of a number, sign-extended (R66). -/
def sextNat (n : Nat) (v : Nat) : DWord := (BitVec.ofNat n v).signExtend 64

/-- A register field of the K-form (R51). -/
def reg5 (r : BitVec 5) : Reg := r.setWidth 6

/-- The address descriptor in a REG payload (R54, R67). -/
def descOf (p : BitVec 10) : Desc :=
  { base := p.extractLsb' 7 3, scale := p.extractLsb' 4 3, ext := p.getLsbD 3, mode := p.extractLsb' 1 2 }

/-- The operands of a K-form instruction of a class (R64). -/
def kOpnds (cls : Cls) (c : Chain) (w : Half) : Opnds :=
  let x : BitVec 5 := w.extractLsb' 5 5
  let y : BitVec 5 := w.extractLsb' 0 5
  let p : BitVec 10 := c.reg.getD 0
  let g : Mods := modsOf (c.mod.getD 0)
  let n := 10 * c.nImm
  let o : Opnds := { form := .k, nImm := c.nImm, reg := c.reg.isSome, mod := c.mod.isSome, g }
  match cls with
  | .a | .ax =>
    { o with x := reg5 x, y := reg5 y, z := reg5 (p.extractLsb' 5 5), zq := p.getLsbD 4, wait := p.extractLsb' 1 3,
             xq := p.getLsbD 0, imm := sextNat n c.imm }
  | .i | .ix => { o with x := reg5 x, imm := sextNat (n + 5) (c.imm * 32 + y.toNat) }
  | .s => { o with x := reg5 x, y := reg5 y }
  | .m => { o with x := reg5 x, y := reg5 y, desc := descOf p, imm := sextNat n c.imm }
  | .j => { o with imm := sextNat (n + 10) (c.imm * 1024 + x.toNat * 32 + y.toNat) }

/-- The reasons that a chain and its base word establish before the fields are read (R59, R64, R74). -/
def chainErrs (cls : Cls) (kOk : Bool) (c : Chain) : List Nat :=
  let acc := clsAccepts cls
  (if (c.nImm != 0 && !acc.1) || (c.reg.isSome && !acc.2.1) || (c.mod.isSome && !acc.2.2) then [4] else [])
    ++ (if cls == .m && (c.reg.getD 0).getLsbD 0 then [5] else [])
    ++ (if kOk then [] else [6])

/-- The base word at the end of a chain (R52, R53). -/
def baseStep (kind : CoreKind) (need : Nat) (c : Chain) (w : Half) : Except DecodeErr Instr :=
  if halfTop w = 14 then
    if c.count = 0 then .ok (.br { form := .k, imm := (w.extractLsb' 0 12).signExtend 64 }) else .error .illegalChain
  else
    let op := (w.extractLsb' 10 6).toNat
    let (page, fn) := c.page.getD (0, 0)
    match cellInfo page op with
    | none => .error .illegalCell
    | some (cls, kOk, _) =>
      if cellAbsent kind page op then .error .illegalCell
      else
        match ofCell page op fn (kOpnds cls c w) with
        | some i => judge (chainErrs cls kOk c ++ i.errs kind need) i
        | none =>
          let l := 5 :: chainErrs cls kOk c ++ (if cellReadsX page op && c.reg.isNone then [4] else [])
          .error (decodeErrOf (lowestReason l))

/-- A K-form instruction at the head of a list of halfwords, and the halfwords after it (R50, R60). -/
def decodeK (kind : CoreKind) (need : Nat) (c : Chain) : List Half → Except DecodeErr (Instr × List Half)
  | [] => .error .truncated
  | w :: ws =>
    if halfTop w = 15 then
      match prefixStep c w with
      | ([], c') => decodeK kind need c' ws
      | (l, _) => .error (decodeErrOf (lowestReason l))
    else
      match baseStep kind need c w with
      | .ok i => .ok (i, ws)
      | .error e => .error e

/-! ## W-form -/

/-- The fields of a W-form word (R63). -/
def wField (w : Word) (lo : Nat) : Reg := w.extractLsb' lo 6

/-- The reasons in every list. -/
def commonReasons (l : List (List Nat)) : List Nat := [4, 5, 7].filter fun r => l.all fun e => e.contains r

/-- The second word that a class needs (R64). -/
def clsW2 : Cls → Bool
  | .ax | .ix | .m => true
  | _ => false

/-- The operands that the first word gives (R63, R64), with the immediate of one-word classes. -/
def wOpnds1 (cls : Cls) (w : Word) : Opnds :=
  let x := wField w 16
  let y := wField w 10
  let z := wField w 4
  let m : BitVec 4 := w.extractLsb' 0 4
  let o : Opnds := { form := .w }
  match cls with
  | .a | .ax => { o with x, y, z }
  | .i => { o with x, imm := (w.extractLsb' 0 16).signExtend 64 }
  | .ix => { o with x, g := modsOf (z ++ m) }
  | .s => { o with x, y, z, g := { cnt := m.extractLsb' 0 2 } }
  | .m =>
    { o with x, y, g := { rlx := m.getLsbD 0 },
             desc := { base := z.extractLsb' 3 3, scale := z.extractLsb' 0 3, ext := m.getLsbD 3, mode := m.extractLsb' 1 2 } }
  | .j => { o with imm := (x ++ w.extractLsb' 0 16).signExtend 64 }

/-- FN where the first word holds it: MOD of class A, Y of class IX; else 0 (R64). -/
def wFn1 (cls : Cls) (w : Word) : Nat :=
  match cls with
  | .a => (w.extractLsb' 0 4).toNat
  | .ix => (wField w 10).toNat
  | _ => 0

/-- The reasons that the first word of a W2 instruction establishes: those that hold under every FN, immediate and G
that its second word could give (R76, R77). DEDUCED (log 19). -/
def wErrs1 (cls : Cls) (page op need : Nat) (w : Word) : List Nat :=
  let o := wOpnds1 cls w
  let cands := match cls with
    | .ix => (ofCell page op (wFn1 cls w) o).toList
    | _ => (List.range 64).filterMap fun fn => ofCell page op fn o
  (if cands.isEmpty then [5] else commonReasons (cands.map fun i => i.errs1 need ++ (if i.badMods then [5] else [])))
    ++ (if (cls == .ax && w.extractLsb' 0 4 != 0) || (cls == .ix && w.extractLsb' 0 2 != 0) then [5] else [])

/-- The operands and FN of a W2 instruction from both words (R64, R66). -/
def wOpnds2 (cls : Cls) (w v : Word) : Opnds × Nat :=
  let o := wOpnds1 cls w
  match cls with
  | .ax => ({ o with imm := (v.extractLsb' 16 16).signExtend 64, g := modsOf (v.extractLsb' 6 10) },
      (v.extractLsb' 0 6).toNat)
  | .ix => ({ o with imm := v.signExtend 64 }, wFn1 cls w)
  | _ => ({ o with imm := (v.extractLsb' 0 26).signExtend 64 }, (v.extractLsb' 26 6).toNat)

/-- The whole W-form instruction once its words are known. -/
def wFinish (kind : CoreKind) (need page op fn : Nat) (errs : List Nat) (o : Opnds) : Except DecodeErr Instr :=
  match ofCell page op fn o with
  | some i => judge (errs ++ i.errs kind need) i
  | none => .error (decodeErrOf (lowestReason (5 :: errs)))

/-- A W-form instruction at the head of a list of words, and the words after it (R50, R63). -/
def decodeW (kind : CoreKind) (need : Nat) : List Word → Except DecodeErr (Instr × List Word)
  | [] => .error .truncated
  | w :: ws =>
    let op := (wField w 26).toNat
    let page := (w.extractLsb' 22 4).toNat
    if 56 ≤ op then .error .illegalCell
    else if 12 ≤ page then .error .reservedPage
    else match cellInfo page op with
      | none => .error .illegalCell
      | some (cls, _, wOk) =>
        let form := if wOk then [] else [6]
        if clsW2 cls then
          let errs := form ++ wErrs1 cls page op need w
          if errs.isEmpty then
            match ws with
            | [] => .error .truncated
            | v :: vs =>
              let (o, fn) := wOpnds2 cls w v
              let low := if cls == .ax && v.extractLsb' 6 2 != 0 then [5] else []
              match wFinish kind need page op fn low o with
              | .ok i => .ok (i, vs)
              | .error e => .error e
          else .error (decodeErrOf (lowestReason errs))
        else
          let low := if cls == .s && w.extractLsb' 2 2 != 0 then [5] else []
          match wFinish kind need page op (wFn1 cls w) (form ++ low) (wOpnds1 cls w) with
          | .ok i => .ok (i, ws)
          | .error e => .error e

/-! ## Bytes -/

/-- Halfwords of little-endian bytes (R6, R50). -/
def halves : List Byte → List Half
  | a :: b :: t => (b ++ a) :: halves t
  | _ => []

/-- Words of little-endian bytes (R6, R50). -/
def words : List Byte → List Word
  | a :: b :: c :: d :: t => (d ++ c ++ b ++ a) :: words t
  | _ => []

/-- The bytes of a halfword, lowest address first (R6). -/
def halfBytes (w : Half) : List Byte := [w.extractLsb' 0 8, w.extractLsb' 8 8]

/-- The bytes of a word, lowest address first (R6). -/
def wordBytes (w : Word) : List Byte :=
  [w.extractLsb' 0 8, w.extractLsb' 8 8, w.extractLsb' 16 8, w.extractLsb' 24 8]

/-- The instruction at the head of a list of bytes on a kind of core, for a context with a register need. -/
def decodeNeed (kind : CoreKind) (need : Nat) (bs : List Byte) : Except DecodeErr Instr :=
  match kindForm kind with
  | .k => (decodeK kind need {} (halves bs)).map Prod.fst
  | .w => (decodeW kind need (words bs)).map Prod.fst

/-- The instruction at the head of a list of bytes on a kind of core, with every register of the form allowed. -/
def decode (kind : CoreKind) (bs : List Byte) : Except DecodeErr Instr := decodeNeed kind (maxNeed kind) bs

/-! ## Encoding -/

/-- A prefix word of a kind (R51, R54). -/
def prefixWord (kind : BitVec 2) (payload : BitVec 10) : Half := (15 : BitVec 4) ++ kind ++ payload

/-- G as ten bits (R58). -/
def modsBits (g : Mods) : BitVec 10 :=
  BitVec.ofBool g.rlx ++ BitVec.ofNat 3 (scopeCode g.scope) ++ BitVec.ofBool g.sat ++ BitVec.ofBool g.sr ++ g.cnt
    ++ (0 : BitVec 2)

/-- The address descriptor as a REG payload (R54). -/
def descBits (d : Desc) : BitVec 10 :=
  d.base ++ d.scale ++ BitVec.ofBool d.ext ++ d.mode ++ (0 : BitVec 1)

/-- The REG payload of a class (R54, R56). -/
def regBits (cls : Cls) (o : Opnds) : BitVec 10 :=
  match cls with
  | .m => descBits o.desc
  | _ => o.z.setWidth 5 ++ BitVec.ofBool o.zq ++ o.wait ++ BitVec.ofBool o.xq

/-- The IMM prefixes of an immediate above the base word's bits, most significant first (R55). -/
def immWords (v : Nat) : Nat → List Half
  | 0 => []
  | n + 1 => prefixWord 0 (BitVec.ofNat 10 (v / 1024 ^ n)) :: immWords v n

/-- The low ten bits of the base word (R51, R64). -/
def baseBits (cls : Cls) (o : Opnds) : BitVec 10 :=
  match cls with
  | .i | .ix => o.x.setWidth 5 ++ o.imm.extractLsb' 0 5
  | .j => o.imm.extractLsb' 0 10
  | _ => o.x.setWidth 5 ++ o.y.setWidth 5

/-- The K-form words of an instruction, prefixes in the order IMM, PAGE, REG, MOD (R118). -/
def encodeK (i : Instr) : List Half :=
  let o := i.opnds
  match i with
  | .br _ => [(14 : BitVec 4) ++ o.imm.extractLsb' 0 12]
  | _ =>
    match i.cell? with
    | none => []
    | some (page, op, fn) =>
      let cls := i.cls
      immWords (o.imm.toNat / 2 ^ kBaseBits cls) o.nImm
        ++ (if page = 0 then [] else [prefixWord 2 (BitVec.ofNat 4 page ++ BitVec.ofNat 6 fn)])
        ++ (if o.reg then [prefixWord 1 (regBits cls o)] else [])
        ++ (if o.mod then [prefixWord 3 (modsBits o.g)] else [])
        ++ [BitVec.ofNat 6 op ++ baseBits cls o]

/-- The W-form words of an instruction (R63, R64). -/
def encodeW (i : Instr) : List Word :=
  let o := i.opnds
  match i.cell? with
  | none => []
  | some (page, op, fn) =>
    let hd : BitVec 10 := BitVec.ofNat 6 op ++ BitVec.ofNat 4 page
    let f : BitVec 6 := BitVec.ofNat 6 fn
    match i.cls with
    | .a => [hd ++ o.x ++ o.y ++ o.z ++ BitVec.ofNat 4 fn]
    | .ax => [hd ++ o.x ++ o.y ++ o.z ++ (0 : BitVec 4), o.imm.extractLsb' 0 16 ++ modsBits o.g ++ f]
    | .i => [hd ++ o.x ++ o.imm.extractLsb' 0 16]
    | .ix => [hd ++ o.x ++ f ++ modsBits o.g, o.imm.extractLsb' 0 32]
    | .s => [hd ++ o.x ++ o.y ++ o.z ++ (0 : BitVec 2) ++ o.g.cnt]
    | .m =>
      [hd ++ o.x ++ o.y ++ (o.desc.base ++ o.desc.scale) ++ BitVec.ofBool o.desc.ext ++ o.desc.mode ++ BitVec.ofBool o.g.rlx,
        f ++ o.imm.extractLsb' 0 26]
    | .j => [hd ++ o.imm.extractLsb' 0 22]

/-- The bytes of a well-formed instruction, in address order; an event has none. -/
def encode (i : Instr) : List Byte :=
  match i.opnds.form with
  | .k => (encodeK i).flatMap halfBytes
  | .w => (encodeW i).flatMap wordBytes

/-- The length of an instruction in bytes (R50). -/
def instrLen (i : Instr) : Nat :=
  let o := i.opnds
  match o.form with
  | .k =>
    let page := match i.cell? with | some (p, _, _) => if p = 0 then 0 else 1 | none => 0
    2 * (o.nImm + page + o.reg.toNat + o.mod.toNat + 1)
  | .w => if clsW2 i.cls then 8 else 4

/-! ## The opcode table's numbering -/

/-- The bytes of an instruction numbered as the opcode table numbers it. A 16-bit row is one K-form word. A 32-bit row
is a K-form word with its PAGE prefix, which stands in the half that has prefix form, or one W-form word. Zeros follow.
DEDUCED (log 20). -/
def tableBytes (nbits w : Nat) : CoreKind × List Byte :=
  let lo : Half := BitVec.ofNat 16 w
  let hi : Half := BitVec.ofNat 16 (w / 65536)
  let zs : List Byte := List.replicate 8 0
  if nbits ≤ 16 then (.dcore, halfBytes lo ++ zs)
  else if halfTop hi = 15 then (.dcore, halfBytes hi ++ halfBytes lo ++ zs)
  else if halfTop lo = 15 ∧ halfTop hi ≠ 13 then (.dcore, halfBytes lo ++ halfBytes hi ++ zs)
  else (.lcore, halfBytes lo ++ halfBytes hi ++ zs)

/-- The instruction that the decoder reads from an instruction whose bits are `w`, numbered as the opcode table numbers
them. -/
def decodeTableWord (nbits w : Nat) : Option Instr :=
  let (kind, bs) := tableBytes nbits w
  (decode kind bs).toOption

end Sys2Proof
end

