-- ==== Sys2Proof/Machine/Tab.lean ====
section
/-! DEFINITION. Sparse tables in one canonical form: pairs of a number and a value, numbers strictly rising, no value
equal to what an unlisted number reads as. -/

namespace Sys2Proof.Machine

/-- A sparse table. -/
abbrev Tab (α : Type) := List (Nat × α)

/-- The value at a number; `d` where it is not listed. -/
def tget {α : Type} (d : α) : Tab α → Nat → α
  | [], _ => d
  | (k, v) :: t, n => if k = n then v else tget d t n

/-- The table without a number. -/
def terase {α : Type} : Tab α → Nat → Tab α
  | [], _ => []
  | (k, v) :: t, n => if k = n then terase t n else (k, v) :: terase t n

/-- The table with a value placed in rising order. -/
def tput {α : Type} : Tab α → Nat → α → Tab α
  | [], n, v => [(n, v)]
  | (k, w) :: t, n, v => if n < k then (n, v) :: (k, w) :: t else if k = n then (n, v) :: t else (k, w) :: tput t n v

/-- The table with a value written; writing what an unlisted number reads as removes the entry. -/
def tset {α : Type} [DecidableEq α] (d : α) (t : Tab α) (n : Nat) (v : α) : Tab α :=
  if v = d then terase t n else tput t n v

/-- Every number of a table is above `n`, and they rise. -/
def risingFrom {α : Type} : Nat → Tab α → Bool
  | _, [] => true
  | n, (k, _) :: t => n < k && risingFrom k t

/-- The numbers of a table rise strictly. -/
def rising {α : Type} : Tab α → Bool
  | [] => true
  | (k, _) :: t => risingFrom k t

/-- The canonical form. -/
def twf {α : Type} [DecidableEq α] (d : α) (t : Tab α) : Bool := rising t && t.all fun e => e.2 != d

end Sys2Proof.Machine
end

