-- ==== Sys2Proof/Machine/State.lean ====
section
/-! DEFINITION. The state of the whole device as plain data: contexts with their lanes, cores, Trusses, bays, dies,
packages, physical memory, and the events that are due or on their way. A unit that nothing has touched is not listed
and reads as its default record. Keys: a core is its node id without the kind bits (R212); its Truss is that number
without the low 6 bits, its bay without 10, its die without 14, its package without 16. -/

namespace Sys2Proof.Machine

open Sys2Proof

/-! ## Queues, waits and lanes -/

/-- One queue entry (R150): its data word, fault cause (0 none), skip mark, and whether its data has come back. -/
structure QEntry where
  data   : Word := 0
  cause  : BitVec 2 := 0
  skip   : Bool := false
  filled : Bool := false
  deriving DecidableEq, Repr

/-- A queue of a lane (R22, R150). -/
structure Queue where
  ents     : Tab QEntry := []
  cons     : Nat := 0
  prod     : Nat := 0
  fill     : Nat := 0
  inflight : Nat := 0
  deriving DecidableEq, Repr

/-- What a lane waits for before its instruction is complete. -/
inductive Wait where
  | none
  /-- The instruction could not complete and issues again. -/
  | retry
  /-- MWAIT waits: whether for any lane, the class, and the counts of the lanes (R229). -/
  | mwait (any : Bool) (cls : Nat) (ks : List (Nat × Nat))
  /-- REAP with FN 1 waits for an exit record (R202). -/
  | reap
  /-- SLEEP in progress: start cycle and timeout (R204). -/
  | sleep (t0 : Nat) (timeout : Nat)
  /-- SPIN in progress: the watched lines, by physical line number (R207). -/
  | spin (lines : List Nat)
  /-- YLD.cc in progress: counter, target, continuation and the address after the instruction (R206). -/
  | yldCc (n : Nat) (target : Nat) (cont : DWord) (next : DWord)
  /-- SPAWN, LNCH or GSUB: how many answers are still out, the statuses by lane, and the launch messages that have not
  entered their send queues (R197, R222, R378, R384). -/
  | answer (out : Nat) (st : List (Nat × Nat)) (left : List Msg)
  /-- An access that has not been performed, or an answer from another package (R145, R147). -/
  | access
  /-- CLASP in progress (R288). -/
  | clasp (base : Nat) (n : Nat)
  /-- The answer of another package has come; the instruction issues again and ends with it (R147). -/
  | granted (a : RemoteAns)
  /-- A SLEEP or SPIN has ended; the instruction issues again and completes with this result (R204, R207). -/
  | woken (r : Nat)
  /-- Waiting at the rejoin (R295). -/
  | rejoin
  /-- A split lane waiting at BAR (R297, R308). -/
  | bar
  /-- A course that has arrived at BAR (R308); `joined` where it arrived as its lanes re-fused there (R297). -/
  | arrived (joined : Bool)
  /-- Parked for a host-assisted page fault: vector, reason, address and lane mask (R433). -/
  | parked (t : TrapInfo)
  /-- A migration waits for its decision (R400, R401, R404): 0 to L and 1 to D by MIGR, with its x and the address after
  it; 2 to L and 3 to D before the instruction at a point. -/
  | migr (k : Nat) (x : Nat) (next : DWord)
  /-- MSEND and GDONE: the messages of lanes that have not entered the send queue (R226). -/
  | msend (left : List Msg)
  /-- FPUT: the blocks that have not been stored or entered (R487). -/
  | fput (left : List (LaneAcc × List Byte))
  /-- QUIT at step 3 with a full exit queue (R200). -/
  | quit (code : Word)
  /-- A cross-lane instruction of one half of a pair waits for the other (R307). -/
  | pair
  deriving DecidableEq, Repr

/-- A journal entry that was refused and whose trap has not been taken (R245, R246). -/
structure Refused where
  idx    : Nat
  reason : Nat
  va     : DWord
  logSize : Nat
  lane   : Nat
  /-- Its age: the free counter when it was refused (R243, R245). -/
  since  : Nat := 0
  deriving DecidableEq, Repr

/-- One lane: the registers and the control area of R19. A strand is one lane. While its course is not split the copies
of uniform fields are equal in all lanes (R286). -/
structure Lane where
  /-- LIVE: in the lane mask. -/
  live      : Bool := true
  /-- ACTV: in the active mask. -/
  actv      : Bool := true
  /-- The annul count (R107). -/
  annul     : Nat := 0
  /-- The annul count that a handler's context takes again at ERET (R109). -/
  annulSaved : Nat := 0
  /-- DEPTH (R295). -/
  depth     : Nat := 0
  regs      : Tab Word := []
  b         : Tab DWord := []
  pc        : DWord := 0
  status    : DWord := 0
  slim      : Word := 0
  ttb       : DWord := 0
  lnid      : DWord := 0
  lndim     : DWord := 0
  queues    : Tab Queue := []
  /-- Trap registers (R239). -/
  epc       : DWord := 0
  estatus   : DWord := 0
  tcause    : DWord := 0
  tpc       : DWord := 0
  teq       : DWord := 0
  txpc      : DWord := 0
  taddr     : DWord := 0
  tmask     : Word := 0
  tscr0     : DWord := 0
  tscr1     : DWord := 0
  inHandler : Bool := false
  pendWake  : Bool := false
  wait      : Wait := .none
  /-- The instruction in progress while the lane waits inside it. -/
  inst      : Option Instr := none
  /-- Extra rotations still to hold (R183). -/
  hold      : Nat := 0
  /-- Pending refusals, oldest first (R245). -/
  refpend   : List Refused := []
  /-- WSKIP while it is valid (R277). -/
  wskip     : Option DWord := none
  /-- Stopped by debug, with the stop cause (R278). -/
  stopped   : Bool := false
  /-- A step was asked for: stop again at the next boundary (R279). -/
  stepping  : Bool := false
  /-- A stop was asked for at the next boundary (R279). -/
  haltReq   : Bool := false
  /-- Breakpoints do not match at the first instruction after GO (R279). -/
  passBp    : Bool := false
  /-- Point record (R241, R397). -/
  point     : Nat := 0
  /-- The address of that point in the other form. -/
  pointOther : DWord := 0
  noeq      : Bool := true
  icnt      : Nat := 0
  /-- Issue count of replay (R281). -/
  replay    : Nat := 0
  deriving DecidableEq, Repr

/-! ## Contexts -/

/-- What a context is (R285, R301). -/
inductive CtxKind where
  /-- A strand that belongs to no course: of a D-core, of an Eave core, or an L-core's keeper. -/
  | strand
  /-- A course on a Truss. -/
  | course
  /-- A course of an L-core. -/
  | gable
  deriving DecidableEq, Repr

/-- A decode table (R33, R34, R36). -/
structure FmtTable where
  loaded : Bool := false
  four   : Bool := false
  txr    : Bool := false
  encodable : Bool := false
  entries : List (BitVec 19) := []
  deriving DecidableEq, Repr

/-- A mark-stack entry (R290). Masks are lane masks. -/
structure Mark where
  rj    : DWord
  mask  : Word
  dmask : Word := 0
  dpc   : DWord := 0
  deriving DecidableEq, Repr

/-- The lease record of a course (R387-R391). -/
structure LeaseRec where
  decl   : Bool := false
  lines  : Nat := 0
  est    : Nat := 0
  filter : List Nat := []
  refusals : Nat := 0
  /-- Lost-locality events since the last summary, and in this activation (R271, R390). -/
  lostLoc  : Nat := 0
  h        : Nat := 0
  deriving DecidableEq, Repr

/-- A context: a strand or a course, bound to a slot or held in its workspace. An unlisted context is not alive. -/
structure Ctx where
  alive   : Bool := false
  kind    : CtxKind := .strand
  /-- The core of the strand, or the core of lane 0 (R285). -/
  core    : Nat := 0
  /-- The slot or L-core context that it is bound to. -/
  slot    : Option Nat := none
  lanes   : List Lane := []
  /-- Placed with its bundle and not yet resident (R373, R374). -/
  pending : Bool := false
  /-- The slot that a pre-emption took it from, while nothing else was bound there (R353). -/
  left    : Option Nat := none
  /-- The cores on which that slot has been bound again since (R353). -/
  rebound : List Nat := []
  /-- The slot that a course held last, while it holds none (R402). -/
  last    : Option Nat := none
  /-- Its workspace is allocated (R508): its offset and size in bytes. -/
  wsOn    : Bool := false
  wsptr   : Word := 0
  wsize   : Nat := 0
  need    : Nat := 32
  /-- The point list: K-form address, W-form address and number of each point (R397). -/
  points  : List (DWord × DWord × Nat) := []
  kernel  : Kernel := {}
  task    : BitVec 24 := 0
  /-- Where notices go: node id of the parent's engine, and its slot or course word (R198). -/
  parentNode : Nat := 0xFFFFFFFF
  parentWord : Word := 0
  /-- Course fields (R286). -/
  num     : Nat := 0
  marks   : List Mark := []
  split   : Bool := false
  rjv     : Bool := false
  rd      : Nat := 0
  cause   : Nat := 0
  srj     : DWord := 0
  half    : Bool := false
  /-- The other half of a pair (R307). -/
  mate    : Option Nat := none
  /-- The cross-lane instruction this half has issued while it waits for the other (R307). -/
  pairAt  : Option (DWord × List Nat) := none
  /-- Held by pre-emption (R250), or waiting for a migration decision. -/
  held    : Bool := false
  /-- The course is due by age (R395). -/
  due     : Bool := false
  /-- The slot that is being emptied for it (R395, R396). -/
  claim   : Option Nat := none
  /-- Truss cycle at which it last became ready, and times skipped (R393, R395). -/
  readyAt : Nat := 0
  skip    : Nat := 0
  /-- It must leave its slot at its next boundary: the END of its summary, 0 for no (R395, R500). -/
  displace : Nat := 0
  /-- A pre-emption was asked for at the next boundary (R250). -/
  preempt : Bool := false
  /-- It leaves its slot when its queues have nothing in flight (R23): the END of its summary, 0 for no. -/
  leaving : Nat := 0
  lease   : LeaseRec := {}
  /-- The launch (die and number) and bundle that it belongs to (R366, R374). -/
  launch  : Option (Nat × Nat) := none
  bundle  : Nat := 0
  /-- The cycle in which it reached step 3 of QUIT (R200). -/
  quitAt  : Nat := 0
  /-- Single-lane issues since the last issue of several lanes (R404). -/
  single  : Nat := 0
  /-- A migration was asked for at the next point: MIGREQ.TGT (R404). -/
  migReq  : Option Nat := none
  /-- A migration before the next instruction has been declined (R404). -/
  migTried : Bool := false
  /-- The address of the point that a migration which no MIGR started has brought it to, until it issues there (R404). -/
  migHere : Option DWord := none
  /-- Tables A and B that a migration brought, for the format context of its next slot (R402). -/
  tables  : Option (FmtTable × FmtTable) := none
  /-- L-core: registers with a relaxed load on its way, with its ticket and the lanes that it still writes (R191, R193). -/
  score   : List (Nat × Nat × List Nat) := []
  /-- L-core: registers that a dependent instruction may not read before a cycle, with the lanes that write them (R192). -/
  busy    : List (Nat × Nat × List Nat) := []
  tickets : Nat := 0
  /-- Bytes of its workspace that the keeper has written and that are not yet acted on: lane, byte offset in the lane's
  workspace and value (R18, R278, R279, R286, log 58). -/
  edits   : List (Nat × Nat × Byte) := []
  /-- Stops whose lanes still have queue entries in flight: the lanes, the cause and the mask of the record (R278). -/
  stopping : List (List Nat × Nat × Word) := []
  deriving DecidableEq, Repr

/-! ## Cores -/

/-- An exit record (R201). -/
structure ExitRec where
  w0 : Word
  w1 : Word
  w2 : Word
  w3 : Word
  /-- The context whose workspace it releases. -/
  ctx : Nat
  deriving DecidableEq, Repr

/-- A posted-store journal entry (R244). -/
structure JEntry where
  id    : Nat
  ctx   : Nat
  lane  : Nat
  /-- The entry's index among the strand's 32. -/
  idx   : Nat
  op    : MemOp
  va    : DWord
  pa    : Nat
  data  : QWord
  bytes : List Byte
  /-- The attribute of the page that the store named (R246). -/
  attr  : Nat := 0
  /-- The instruction that it belongs to, by the free counter at its issue (R148, R158). -/
  group : Nat := 0
  task  : BitVec 24
  /-- The 8-byte words of an FPUT block that are still out, once its home has passed it and performed some (R487). -/
  left  : Option (List Nat) := none
  /-- The home has answered that it was refused. -/
  refused : Bool := false
  /-- The parent of its context (R247). -/
  parent : Nat
  deriving DecidableEq, Repr

/-- A message in a send queue (R222, R226). -/
structure SendEnt where
  msg     : Msg
  /-- Refused; it waits for a retry. -/
  refused : Bool := false
  deriving DecidableEq, Repr

/-- A delivery caught in a spill ring (R251). -/
inductive SpillEnt where
  | answer (ctx : Nat) (e : Ev)
  | deliver (ctx : Nat) (d : Delivery)
  /-- 64 bytes of the global operand of a parked engine entry (R336). -/
  | operand (ctx : Nat) (q : QueueId) (entry : Nat) (pa : Nat) (bytes : List Byte)
  deriving DecidableEq, Repr

/-- A format context (R314, R315). -/
structure FmtCtx where
  set   : Bool := false
  word  : BitVec 9 := 0
  a     : FmtTable := {}
  b     : FmtTable := {}
  owner : Option Nat := none
  deriving DecidableEq, Repr

/-- A line of a cache that is not coherent (R412). -/
structure CLine where
  line  : Nat
  data  : List Byte
  dirty : List Bool
  /-- The number of the course that touched it last; none where no course did (R391). -/
  owner : Option Nat
  /-- Its sectors that were poisoned when it was filled, 0 to 3 (R165). -/
  bad   : List Nat := []
  deriving DecidableEq, Repr

/-- An entry of an engine or copy queue (R324, R459). -/
structure QEnt where
  id    : Nat
  /-- The instruction as it issued; a join is MQF or CPY_JOIN. -/
  instr : Instr
  ctx   : Nat
  lane  : Nat
  core  : Nat
  /-- The operand values at issue: x, s1 and s2 with their pair partners. -/
  x     : DWord
  s1    : DWord
  s2    : DWord
  task  : BitVec 24
  ttb   : DWord
  priv  : Bool
  txr   : Bool
  rm    : BitVec 2
  /-- The slot whose format context it uses (R316). -/
  slot  : Nat
  /-- Issued by a fused course (R311, R324). -/
  course : Bool := false
  started : Bool := false
  /-- Deferred with its pre-empted context, or parked after it had started, with its sub-tile saved (R336). -/
  parked  : Bool := false
  sub     : Bool := false
  /-- The slot whose park record it holds while it is parked, and the group of 32 products that it goes on with (R336, R337). -/
  park    : Nat := 0
  group   : Nat := 0
  /-- Its task has been killed: it completes and counts nothing (R257). -/
  killed  : Bool := false
  /-- The flags that its counter takes, in their places in bits 38:33 less 33. -/
  flags : Nat := 0
  /-- A descriptor read at issue (CPYR). -/
  desc  : List Byte := []
  /-- Its home partials have been sent; how many are still out (R334). -/
  sent  : Bool := false
  out   : Nat := 0
  /-- The pages of 4 KiB that it translated at issue: virtual and physical number (R329, R333). -/
  pages : List (Nat × Nat) := []
  /-- FGET (R479, R488): the sectors that are done, a sector that has been asked of another package, the stop after a check
  that failed, and the journal entries of its core before it: those below this number. -/
  sectors : Nat := 0
  asked : Bool := false
  halted : Bool := false
  posts : Nat := 0
  /-- Sectors of 64 bytes of its global operand that a spill ring has given back, by physical address (R251, R253). -/
  got   : List (Nat × List Byte) := []
  deriving DecidableEq, Repr

/-- The detail trace and loss state of a core that no system register shows (R264, R271). -/
structure Bezel where
  lost    : Bool := false
  /-- Per slot, since the last summary: instructions, lease at the start, rotations classed issued, memory, message
  (R265). -/
  counts  : Tab (List Nat) := []
  ready   : Tab Nat := []
  armed   : Bool := false
  selected : Option Nat := none
  /-- Rotations since the last summary of a slot's strand (R266). -/
  since   : Tab Nat := []
  /-- A LOSSCTL write waits for the rotation boundary (R272). -/
  pendFrz : Option Bool := none
  pendClr : Bool := false
  /-- What each slot did in this rotation: 1 issued, 2 memory, 3 message (R182). On an L-core entry 0 is the class of the
  cycle and entry 1 the number of ready contexts. -/
  rot     : Tab Nat := []
  /-- The same for the rotation before (R395). -/
  prev    : Tab Nat := []
  /-- Rotations, or cycles of an L-core, that the loss counters have taken in (R271). -/
  seen    : Nat := 0
  deriving DecidableEq, Repr

/-- A TLB entry (R430). -/
structure TlbEnt where
  asid : Nat
  vbase : Nat
  size : Nat
  pa   : Nat
  attr : Nat
  r    : Bool
  w    : Bool
  x    : Bool
  u    : Bool
  a    : Bool
  deriving DecidableEq, Repr

/-- A core: a D-core, an L-core or an Eave core, by its place (R212). -/
structure CoreSt where
  /-- The keeper has stopped for good (R237). -/
  dead    : Bool := false
  /-- System registers, by index; unlisted ones read as their reset value. -/
  sys     : Tab DWord := []
  sram    : Tab Byte := []
  /-- Poisoned 32-byte sectors of the SRAM (R335). -/
  sramBad : List Nat := []
  spawnQ  : List SpawnRec := []
  exitQ   : List ExitRec := []
  /-- Contexts held at a full exit queue, in order (R200). -/
  exitWait : List (Nat × Word) := []
  /-- Buffers recorded for the classes of an L-core (R216): virtual base to physical base. -/
  mbuf    : Tab (Nat × Nat) := []
  sendQ   : List SendEnt := []
  spill   : List SpillEnt := []
  journal : List JEntry := []
  jNext   : Nat := 0
  bezel   : Bezel := {}
  fmts    : Tab FmtCtx := []
  slice   : List QEnt := []
  copy    : List QEnt := []
  cc      : Tab DWord := []
  lines   : List CLine := []
  /-- Code words held in the fetch path (R211): by physical address, the word plus 1. -/
  code    : Tab Nat := []
  /-- The micro TLB of a D-core or an L-core (R430). -/
  tlb     : List TlbEnt := []
  /-- The free counter when each pending interrupt source was set, by its bit of IPEND (R243, R248). -/
  irqAt   : Tab Nat := []
  /-- One more than the cycle whose turn is over. -/
  served  : Nat := 0
  /-- The context of an L-core that issued last (R191). -/
  last    : Nat := 0
  /-- Corrected errors in this window, for a D-core's SRAM or for an Eave core and its channel (R467). -/
  soft    : Nat := 0
  /-- An Eave core that has been retired (R468). -/
  retired : Bool := false
  deriving DecidableEq, Repr

/-! ## Trusses, bays, dies, packages -/

/-- A Truss or Gable. -/
structure Truss where
  sys    : Tab DWord := []
  cc     : Tab DWord := []
  matrix : List QEnt := []
  gather : List QEnt := []
  copy   : List QEnt := []
  /-- Lines of the shared cache (R412). -/
  lines  : List CLine := []
  /-- The Truss code buffer, as a core's fetch path, and the Truss TLB (R373, R430). -/
  code   : Tab Nat := []
  tlb    : List TlbEnt := []
  /-- Lines that courses touched last, with the course number, and the ring of victim tags, oldest first: a line number and
  a course number, or a tag that has been invalidated (R391). -/
  stash  : List (Nat × Nat) := []
  victims : List (Option (Nat × Nat)) := []
  /-- The spare core has taken a retired core's number (R468). -/
  spare  : Bool := false
  deriving DecidableEq, Repr

/-- A walk-cache entry: ASID, level and address prefix, with the table it points to (R430). -/
structure WalkEnt where
  asid  : Nat
  level : Nat
  pre   : Nat
  table : Nat
  deriving DecidableEq, Repr

/-- A pending migration decision (R401, R405). -/
structure MigPend where
  ctx    : Nat
  target : Nat
  host   : Bool
  deriving DecidableEq, Repr

/-- A bay. -/
structure Bay where
  sys  : Tab DWord := []
  tlb  : List TlbEnt := []
  walk : List WalkEnt := []
  pend : List MigPend := []
  deriving DecidableEq, Repr

/-- A queued or live launch (R364-R375). -/
structure Launch where
  id     : Nat
  msg    : Msg
  /-- The engine that received it, and the TTB of its keeper slot (R375, R423). -/
  engine : Nat
  ttb    : DWord
  kern   : Kernel
  /-- Words 0-7 of the parameter block (R372). -/
  b      : List DWord
  prio   : Nat
  cor    : Bool
  /-- The form that placement uses: 0 any, 1 K, 2 W (R368). -/
  form   : Nat
  nbund  : Nat
  cpb    : Nat
  bays   : Nat
  /-- The lowest bundle that is not placed (R370). -/
  next   : Nat := 0
  /-- Courses that have not ended, placed or not, and those that ended badly (R375). -/
  left   : Nat
  bad    : Nat := 0
  deriving DecidableEq, Repr

/-- A node of a graph in the Purlin (R380, R381). -/
structure GNode where
  /-- Predecessors that have not completed. -/
  need  : Nat
  /-- 0 not dispatched, 2 dispatched, 3 completed. -/
  state : Nat
  /-- L(n). -/
  long  : Nat
  succ  : List Nat
  bytes : List Byte
  /-- The node went to the host proxy, which dispatches it (R382). -/
  host  : Bool := false
  deriving DecidableEq, Repr

/-- A graph slot of a Purlin (R379, R381). -/
structure GSlot where
  used  : Bool := false
  gen   : Nat := 0
  prio  : Nat := 0
  seq   : Nat := 0
  nodes : List GNode := []
  done  : Nat := 0
  dctl  : Nat := 0
  cookie : Nat := 0
  task  : BitVec 24 := 0
  txr   : Bool := false
  /-- The node that failed the graph (R383). -/
  failed : Option Nat := none
  deriving DecidableEq, Repr

/-- What a contribution says of the result (R354). -/
structure RedSpec where
  all   : Bool
  off   : Nat
  cc    : Nat
  src   : Nat
  deriving DecidableEq, Repr

/-- A contribution that a router holds. -/
structure RedPart where
  j     : Nat
  bytes : List Byte
  spec  : RedSpec
  deriving DecidableEq, Repr

/-- A reduction in progress on a die (R354). -/
structure Reduction where
  id    : Nat
  desc  : DWord
  tag   : Nat
  task  : BitVec 24
  /-- The participants that have issued, and the contributions that the routers hold. -/
  joined : List Nat
  parts : List RedPart
  /-- Contributions taken into the sum, the sum, what participant 0 says, and the flags of the steps. -/
  step  : Nat := 0
  acc   : List Byte := []
  head  : Option RedSpec := none
  flags : Nat := 0
  bad   : Bool := false
  deriving DecidableEq, Repr

/-- A merge sequence of a home word (R334). -/
structure MergeSeq where
  pa    : Nat
  next  : Nat
  count : Nat
  held  : List Partial
  deriving DecidableEq, Repr

/-- A die. -/
structure Die where
  sys     : Tab DWord := []
  launches : List Launch := []
  lseq    : Nat := 0
  graphs  : Tab GSlot := []
  gseq    : Nat := 0
  reds    : List Reduction := []
  rseq    : Nat := 0
  merges  : List MergeSeq := []
  deadTags : List (BitVec 24) := []
  /-- Corrected errors in this window of the L2 ways: slice, way and count (R467). -/
  ways    : List (Nat × Nat × Nat) := []
  /-- L2 ways that the homes have disabled: slice and way (R468). -/
  waysOff : List (Nat × Nat) := []
  /-- The host buffer that the management processor set for the trace drain (R469). -/
  drain   : Option Nat := none
  deriving DecidableEq, Repr

/-- A link of a package (R476). -/
structure Link where
  /-- SEQ of the next flit to send, and of the next flit that the receiver accepts. -/
  seq    : Nat := 0
  recv   : Nat := 0
  /-- Flits sent and not acknowledged, oldest first. -/
  frames : List Flit := []
  /-- The receiver drops flits until the sender replays. -/
  dropping : Bool := false
  failed : Bool := false
  /-- Credits that the other side has returned, and units that have left, by virtual channel (R476, R477). -/
  credits : Tab Nat := []
  sent    : Tab Nat := []
  /-- Credits to return to the other side, by virtual channel, and whether a flit that carries units is to be acknowledged. -/
  back   : Tab Nat := []
  owed   : Bool := false
  /-- Corrected errors in this window (R467). -/
  soft   : Nat := 0
  deriving DecidableEq, Repr

/-- A unit on its way through the fabric (R476 to R478): the number of its journey, the event that it is, where it comes
from and goes to, and the package that it has reached, with the link that it came in by; `out` is the link of that package
that a flit carries it over now. -/
structure Journey where
  id    : Nat
  unit  : Ev
  src   : Nat
  dst   : Nat
  place : Nat
  came  : Option Nat := none
  out   : Option Nat := none
  deriving DecidableEq, Repr

/-- A signed attestation report (R471, R472): the leaf index, the report with the signed identity of the device, and the
signature. -/
structure Attest where
  index    : Nat
  report   : List Byte
  identity : List Byte × List Byte
  sig      : List Byte
  deriving DecidableEq, Repr

/-- A package. -/
structure Pkg where
  /-- The package register block, by offset (R485). -/
  regs    : Tab DWord := []
  links   : Tab Link := []
  /-- Tags that a kill has named (R257). -/
  deadTags : List (BitVec 24) := []
  /-- The number of the next kill or clear request of this package, and the requests that it has met: the package that
  issued each, and its number (R256). -/
  killSeq : Nat := 0
  met     : List (Nat × Nat) := []
  /-- The keeper images that stage 4 has loaded (R470). -/
  images  : List KeeperImage := []
  /-- The firmware images have been checked (R471). -/
  checked : Bool := false
  /-- Every core has been stopped by a trip of a sensor (R466). -/
  stopped : Bool := false
  /-- Fuses blown and the attestation counter (R472). -/
  fuses   : Nat := 0
  counter : Nat := 0
  /-- Outcomes of attestations, oldest first: the signed report, or none where it was refused as exhausted (R472). -/
  attest  : List (Option Attest) := []
  /-- RAS events towards the management processor or the host, oldest first: a node id or die, and 29 for a keeper that
  stopped, 466 for a trip, 468 where no spare was free (R237, R466, R468); and the MSI-X vectors raised (R486). -/
  ras     : List (Nat × Nat) := []
  msix    : List Nat := []
  /-- What the reads of the host have returned, oldest first (R484). -/
  reads   : List (List Byte) := []
  /-- The power budget in watts (R466, log 46). -/
  budget  : Nat := 4200
  /-- The time at which CYC was zeroed (R470). -/
  cyc0    : Nat := 0
  deriving DecidableEq, Repr

/-! ## The machine -/

/-- A value that a store replaced: the aligned 8-byte word by number, the free counter when it was replaced, the value, and
the strand or strands of a context that stored, none for another agent (R420). -/
structure OldWord where
  word  : Nat
  since : Nat
  value : DWord
  by_   : Option (Nat × List Nat) := none
  deriving DecidableEq, Repr

/-- A TFENCE that is complete: the issuer's translation unit, the scope, the free counter then, and the strands that
executed it (R420, R435). -/
structure XlFence where
  unit  : Nat
  scope : Scope
  since : Nat
  ctx   : Nat := 0
  lanes : List Nat := []
  deriving DecidableEq, Repr

/-- A holder of a coherent line (R410, R411). -/
inductive Holder where
  | truss (t : Nat)
  | lcore (k : Nat)
  | pkg (p : Nat)
  deriving DecidableEq, Repr

/-- A line of a home's directory with one of its holders (R410). -/
structure Holding where
  line   : Nat
  holder : Holder
  excl   : Bool
  deriving DecidableEq, Repr

/-- Who issues the instruction that runs: the context and the lanes that follow its pc. -/
structure Issuer where
  ctx   : Nat := 0
  lanes : List Nat := []
  /-- The instruction has completed (and does not wait, trap or issue again). -/
  done  : Bool := false
  /-- Its issue has been counted in the interval that it ended (R265). -/
  counted : Bool := false
  deriving DecidableEq, Repr

/-- The state of the device. -/
structure State where
  /-- Physical memory (R474), in canonical form; an unlisted byte reads 0 (log 1). -/
  mem    : List Host.Cell := []
  /-- Poisoned 32-byte sectors, by number, rising (R165). -/
  bad    : List Nat := []
  /-- Values that stores have replaced, oldest first: a walk may still read one (R420). -/
  olds   : List OldWord := []
  /-- The TFENCEs that are complete. -/
  fences : List XlFence := []
  /-- The directories of the homes (R410). -/
  dir    : List Holding := []
  ctxs   : Tab Ctx := []
  nextCtx : Nat := 1
  cores  : Tab CoreSt := []
  trusses : Tab Truss := []
  bays   : Tab Bay := []
  dies   : Tab Die := []
  pkgs   : Tab Pkg := []
  /-- Events that must be taken next, in order. -/
  due    : List Ev := []
  /-- Events on their way; each is taken at a time that is not fixed (R507). -/
  flight : List Ev := []
  /-- The units that have left their packages over a link, and the number of the next journey (R476, R478). -/
  journeys : List Journey := []
  nextJourney : Nat := 1
  /-- The data of the event that is taken. -/
  ev     : Option Ev := none
  /-- The issuer of the instruction that runs. -/
  cur    : Issuer := {}
  /-- Time in ticks of 1/16 ns: a D-core cycle is 8 ticks, an L-core cycle 5 (R180, R190). -/
  now    : Nat := 0
  /-- The model's own counter for free values (log 8). -/
  free   : Nat := 0
  deriving DecidableEq, Repr

/-- Why the machine stops. -/
inductive Fault where
  /-- An event's step was run without the event's data; no step of the device does so. Safe. -/
  | noEvent
  /-- An access to a physical address that no package has (R474); no step does so. Safe. -/
  | noMemory (pa : Nat)
  deriving DecidableEq, Repr

/-- Why an instruction has no meaning. -/
inductive Refusal where
  /-- Raised by an arm of exec that has no meaning yet. Safe. -/
  | notModelled (mnemonic : String)
  deriving DecidableEq, Repr

/-- The package register block right after reset: BOOTSTAT holds stage 1 (R470, R485). Every other register of every
unit holds the reset value of its table. -/
def State.reset : State := { }

end Sys2Proof.Machine
end

