-- ==== Sys2Proof/Machine/Access.lean ====
section
/-! DEFINITION. Reading and writing the parts of the state: units by key, contexts, lanes and registers. -/

namespace Sys2Proof.Machine

open Sys2Proof

/-- The outcome of a step. -/
abbrev Out := Host.Outcome State Fault Refusal

/-- A free choice of this step, by purpose. -/
def choice (s : State) (purpose : Nat) : Nat := Config.choice s.free purpose

/-! ## Units by key -/

/-- The kind of a core, from its place (R212). -/
def coreKind (key : Nat) : CoreKind :=
  if 11 < key / 1024 % 16 then .eave else if key / 64 % 16 = 8 then .lcore else .dcore

/-- The node id of a core (R212). -/
def nodeOf (key : Nat) : Nat :=
  key * 256 + (match coreKind key with | .dcore => 0 | .lcore => 32 | .eave => 64)

def trussOf (core : Nat) : Nat := core / 64
def bayOf (core : Nat) : Nat := core / 1024
def dieOf (core : Nat) : Nat := core / 16384
def pkgOf (core : Nat) : Nat := core / 65536

/-- The bay whose translation unit serves a core (R421, R455). -/
def xlBayOf (core : Nat) : Nat :=
  match coreKind core with
  | .eave => dieOf core * 16 + (if core / 1024 % 16 = 14 then 5 else 0)
  | _ => bayOf core

/-- The number of slots or contexts of a core (R180, R190, R455). -/
def slotCount : CoreKind → Nat
  | .dcore => 16
  | .lcore => 4
  | .eave => 8

def getCore (s : State) (k : Nat) : CoreSt := tget {} s.cores k
def setCore (s : State) (k : Nat) (c : CoreSt) : State := { s with cores := tset {} s.cores k c }
def modCore (s : State) (k : Nat) (f : CoreSt → CoreSt) : State := setCore s k (f (getCore s k))
def getTruss (s : State) (k : Nat) : Truss := tget {} s.trusses k
def setTruss (s : State) (k : Nat) (c : Truss) : State := { s with trusses := tset {} s.trusses k c }
def modTruss (s : State) (k : Nat) (f : Truss → Truss) : State := setTruss s k (f (getTruss s k))
def getBay (s : State) (k : Nat) : Bay := tget {} s.bays k
def modBay (s : State) (k : Nat) (f : Bay → Bay) : State := { s with bays := tset {} s.bays k (f (getBay s k)) }
def getDie (s : State) (k : Nat) : Die := tget {} s.dies k
def modDie (s : State) (k : Nat) (f : Die → Die) : State := { s with dies := tset {} s.dies k (f (getDie s k)) }
def getPkg (s : State) (k : Nat) : Pkg := tget {} s.pkgs k
def modPkg (s : State) (k : Nat) (f : Pkg → Pkg) : State := { s with pkgs := tset {} s.pkgs k (f (getPkg s k)) }

/-- FEATOFF: bits 11 to 127 are offered as 0 (R473). -/
def featOff : QWord := Config.featOff &&& 0x7FF
/-- The reset value of a package register (R485): BOOTSTAT shows stage 1, FEATOFF the bits that the device offers. -/
def pkgReset (off : Nat) : DWord :=
  match off with
  | 0x00 => 1
  | 0x10 => featOff.extractLsb' 0 64
  | 0x18 => featOff.extractLsb' 64 64
  | _ => 0
/-- A register of the package register block. -/
def pkgReg (s : State) (pkg off : Nat) : DWord := tget (pkgReset off) (getPkg s pkg).regs off
/-- Writes a register of the package register block. -/
def setPkgReg (s : State) (pkg off : Nat) (v : DWord) : State :=
  modPkg s pkg fun p => { p with regs := tset (pkgReset off) p.regs off v }

/-- PKGID (R485), the package number that stands in the node ids of a package. -/
def pkgId (s : State) (pkg : Nat) : Nat := ((pkgReg s pkg 0x08).extractLsb' 0 8).toNat
/-- The node id of an engine, with the PKGID of its package (R212, R485). -/
def nodeId (s : State) (key : Nat) : Nat := pkgId s (pkgOf key) * 2 ^ 24 + nodeOf key % 2 ^ 24
/-- The engine that a node id names in a package: one whose package field is the package's own PKGID is its own (R478, log
104). -/
def keyNamed (s : State) (own n : Nat) : Nat :=
  if n / 2 ^ 24 % 256 = pkgId s own then own * 65536 + n / 256 % 65536 else n / 256

/-- CYC of a core (R189, R190). -/
def cycOf (s : State) (k : Nat) : Nat :=
  (s.now - (getPkg s (k / 65536)).cyc0) / (match coreKind k with | .lcore => 5 | _ => 8)

/-- Adds events that must be taken next. -/
def pushDue (s : State) (l : List Ev) : State := { s with due := s.due ++ l }
/-- Adds events on their way. -/
def pushFlight (s : State) (l : List Ev) : State := { s with flight := s.flight ++ l }

/-! ## Contexts and lanes -/

def getCtx (s : State) (c : Nat) : Ctx := tget {} s.ctxs c
def setCtx (s : State) (c : Nat) (x : Ctx) : State := { s with ctxs := tset {} s.ctxs c x }
def modCtx (s : State) (c : Nat) (f : Ctx → Ctx) : State := setCtx s c (f (getCtx s c))

/-- A list with the element at a place changed. -/
def setAt {α : Type} : List α → Nat → (α → α) → List α
  | [], _, _ => []
  | a :: t, 0, f => f a :: t
  | a :: t, n + 1, f => a :: setAt t n f

/-- The element at a place. -/
def getAt {α : Type} (d : α) : List α → Nat → α
  | [], _ => d
  | a :: _, 0 => a
  | _ :: t, n + 1 => getAt d t n

def getLane (x : Ctx) (l : Nat) : Lane := getAt {} x.lanes l
def modLane (x : Ctx) (l : Nat) (f : Lane → Lane) : Ctx := { x with lanes := setAt x.lanes l f }
def modAllLanes (x : Ctx) (f : Lane → Lane) : Ctx := { x with lanes := x.lanes.map f }

/-- Changes each lane of a list. -/
def modLanes (x : Ctx) (ls : List Nat) (f : Nat → Lane → Lane) : Ctx :=
  ls.foldl (fun x l => modLane x l (f l)) x

/-- The issuing context. -/
def curCtx (s : State) : Ctx := getCtx s s.cur.ctx
/-- A lane of the issuing context. -/
def curLane (s : State) (l : Nat) : Lane := getLane (curCtx s) l
/-- The issuing lanes that do not annul the instruction (R107). -/
def execLanes (s : State) : List Nat := s.cur.lanes.filter fun l => (curLane s l).annul == 0
/-- The lowest of them. -/
def execHead (s : State) : Nat := (execLanes s).headD 0
/-- Changes a lane of the issuing context. -/
def modCurLane (s : State) (l : Nat) (f : Lane → Lane) : State := modCtx s s.cur.ctx fun x => modLane x l f
/-- Changes every issuing lane that does not annul the instruction. -/
def modExec (s : State) (f : Nat → Lane → Lane) : State :=
  let ls := execLanes s
  modCtx s s.cur.ctx fun x => modLanes x ls f

/-- The core of a lane (R285). -/
def laneCore (x : Ctx) (l : Nat) : Nat :=
  match x.kind with
  | .course => x.core + l
  | _ => x.core

/-- The core of a lane of the issuing context. -/
def curCore (s : State) (l : Nat) : Nat := laneCore (curCtx s) l

/-- The form of a context (R10). -/
def ctxForm (x : Ctx) : Form := kindForm (coreKind x.core)

/-- A strand that belongs to no course. -/
def isStrand (x : Ctx) : Bool := x.kind == .strand
/-- The keeper of its core (R181, R190). -/
def isKeeper (x : Ctx) : Bool := x.kind == .strand && x.slot == some 0

/-- The lanes of a context. -/
def allLanes (x : Ctx) : List Nat := List.range x.lanes.length
/-- LM (R285). -/
def liveLanes (x : Ctx) : List Nat := (allLanes x).filter fun l => (getLane x l).live
/-- ACT (R285). -/
def actLanes (x : Ctx) : List Nat := (allLanes x).filter fun l => (getLane x l).live && (getLane x l).actv

/-- The mask of a list of lanes. -/
def maskOf (ls : List Nat) : Word := ls.foldl (fun m l => m ||| ((1 : Word) <<< l)) 0
/-- Whether a lane stands in a mask. -/
def inMask (m : Word) (l : Nat) : Bool := m.getLsbD l

/-- Writes a field that is uniform in a course that is not split: every lane takes the value of the lowest executing
lane. In a split course, and in a strand, each executing lane writes its own (R9, R286). -/
def putUniform {α : Type} (s : State) (val : Nat → α) (put : Lane → α → Lane) : State :=
  let x := curCtx s
  match execLanes s with
  | [] => s
  | h :: t =>
    if x.split || isStrand x then setCtx s s.cur.ctx (modLanes x (h :: t) fun l a => put a (val l))
    else setCtx s s.cur.ctx (modAllLanes x fun a => put a (val h))

/-! ## Registers -/

def laneReg (a : Lane) (r : Nat) : Word := tget 0 a.regs r
def setLaneReg (r : Nat) (v : Word) (a : Lane) : Lane := { a with regs := tset 0 a.regs r v }
/-- A pair: the even register holds bits 31:0 (R12). -/
def lanePair (a : Lane) (r : Nat) : DWord := laneReg a (r + 1) ++ laneReg a r
def setLanePair (r : Nat) (v : DWord) (a : Lane) : Lane :=
  setLaneReg (r + 1) (v.extractLsb' 32 32) (setLaneReg r (v.extractLsb' 0 32) a)
/-- A quad (R25). -/
def laneQuad (a : Lane) (r : Nat) : QWord := lanePair a (r + 2) ++ lanePair a r
def setLaneQuad (r : Nat) (v : QWord) (a : Lane) : Lane :=
  setLanePair (r + 2) (v.extractLsb' 64 64) (setLanePair r (v.extractLsb' 0 64) a)
def laneB (a : Lane) (n : Nat) : DWord := tget 0 a.b n
def setLaneB (n : Nat) (v : DWord) (a : Lane) : Lane := { a with b := tset 0 a.b n v }

/-! ## STATUS (R13) -/

/-- The bits of STATUS that are not reserved. -/
def statusFields : DWord := 0xFFFFFFFF00FF03FF
def stPriv (st : DWord) : Bool := st.getLsbD 9
def stTxr (st : DWord) : Bool := st.getLsbD 7
def stRM (st : DWord) : BitVec 2 := st.extractLsb' 0 2
def stLfsr (st : DWord) : Word := st.extractLsb' 32 32
def stHdc (st : DWord) : Nat := (st.extractLsb' 16 8).toNat
def stSetPriv (st : DWord) : DWord := st ||| 0x200
def stSetLfsr (st : DWord) (v : Word) : DWord := v ++ st.extractLsb' 0 32
def stSetHdc (st : DWord) (n : Nat) : DWord :=
  st.extractLsb' 24 40 ++ BitVec.ofNat 8 n ++ st.extractLsb' 0 16

/-- One step of the stochastic-rounding generator (R15). -/
def lfsrStep (v : Word) : Word := if v.getLsbD 0 then (v >>> 1) ^^^ 0x80200003 else v >>> 1

/-- STATUS at the start of a context: LFSR seed, PRIV, FORM, TXR and RM (R13, R15, R17). -/
def startStatus (seed : Word) (priv : Bool) (form : Form) (txr : Bool) (rm : BitVec 2) : DWord :=
  (if seed = 0 then 1 else seed)
    ++ ((0 : BitVec 22) ++ BitVec.ofBool priv ++ BitVec.ofBool (form == .w) ++ BitVec.ofBool txr ++ (0 : BitVec 5) ++ rm)

/-- The seed of R15: node id, slot or course number, and the lane of a Gable course. -/
def seedOf (node n lane : Nat) : Word :=
  BitVec.ofNat 32 node ^^^ BitVec.ofNat 32 (n * 0x01010101) ^^^ BitVec.ofNat 32 (lane * 0x10000)

/-- PRIV of the issuing context: that of its lowest issuing lane. -/
def curPriv (s : State) : Bool := stPriv (curLane s (s.cur.lanes.headD 0)).status

end Sys2Proof.Machine
end

