-- ==== Sys2Proof/Machine/Memory.lean ====
section
/-! DEFINITION. Physical memory, poison, the local SRAM of the cores and the `loc` space (R6, R142, R165, R185, R311 to
R313, R474). -/

namespace Sys2Proof.Machine

open Sys2Proof

/-! ## Bytes and numbers (R6) -/

/-- The number that bytes hold, the lowest address first. -/
def leNat : List Byte → Nat
  | [] => 0
  | b :: t => b.toNat + 256 * leNat t

/-- The low n bytes of a number, the lowest address first. -/
def leBytes : Nat → Nat → List Byte
  | 0, _ => []
  | n + 1, v => BitVec.ofNat 8 v :: leBytes n (v / 256)

/-! ## Physical memory -/

/-- The line size in bytes. -/
def lineBytes : Nat := 128

/-- What an unlisted byte reads as (log 1). -/
def unlistedByte : Byte := 0

/-- The canonical form of memory. -/
abbrev Memory.wf (m : List Host.Cell) : Prop := twf unlistedByte m = true

/-- One byte of physical memory. -/
def memByte (s : State) (pa : Nat) : Byte := tget unlistedByte s.mem pa

/-- n bytes of physical memory. -/
def memBytes (s : State) : Nat → Nat → List Byte
  | _, 0 => []
  | pa, n + 1 => memByte s pa :: memBytes s (pa + 1) n

/-- Bytes placed in a memory. -/
def putBytes (m : List Host.Cell) : Nat → List Byte → List Host.Cell
  | _, [] => m
  | pa, b :: t => putBytes (tset unlistedByte m pa b) (pa + 1) t

/-- A number of n bytes read from physical memory. -/
def memNat (s : State) (pa n : Nat) : Nat := leNat (memBytes s pa n)

/-- Inserts into a rising list of numbers. -/
def addNum (l : List Nat) (n : Nat) : List Nat :=
  match l with
  | [] => [n]
  | k :: t => if n < k then n :: k :: t else if k = n then k :: t else k :: addNum t n

/-- Every sector from a to b. -/
def numsFrom (a : Nat) : Nat → List Nat
  | 0 => []
  | n + 1 => a :: numsFrom (a + 1) n

/-- The 32-byte sectors that n bytes touch. -/
def sectorsOf (a n : Nat) : List Nat := if n = 0 then [] else numsFrom (a / 32) ((a + n - 1) / 32 - a / 32 + 1)

/-- Whether n bytes touch a poisoned sector (R165). -/
def memBad (s : State) (pa n : Nat) : Bool := (sectorsOf pa n).any fun k => s.bad.contains k

/-- Poisons the sector of an address (R458). -/
def poisonSector (s : State) (pa : Nat) : State := { s with bad := addNum s.bad (pa / 32) }

/-- Clears the poison of a sector that is written whole by an engine (R460). -/
def cleanSector (s : State) (pa : Nat) : State := { s with bad := s.bad.filter fun k => k != pa / 32 }

/-- The lanes that watch a line in SPIN (R207), as the events that wake them. -/
def spinWakes (s : State) (line : Nat) : List Ev :=
  s.ctxs.flatMap fun e =>
    (List.range e.2.lanes.length).filterMap fun l =>
      match (getLane e.2 l).wait with
      | .spin ls => if ls.contains line then some (.spinWake e.1 l line) else none
      | _ => none

/-- The lines that n bytes touch. -/
def linesOf (a n : Nat) : List Nat :=
  if n = 0 then [] else numsFrom (a / lineBytes) ((a + n - 1) / lineBytes - a / lineBytes + 1)

/-- The strands whose store is performed now: a context with its lanes; none for another agent (R420, log 130). -/
def storers (s : State) : Option (Nat × List Nat) :=
  match s.ev with
  | none => some (s.cur.ctx, s.cur.lanes)
  | some (.relaxedStorePerform p) => some (p.ctx, [p.acc.lane])
  | some (.storeQueuePerform q) => some (q.ctx, [q.lane])
  | some (.relaxedLoadReturn a) => some (a.ctx, a.lanes.map (·.lane))
  | some (.fabricRequestArrival r) => some (r.acc.ctx, r.acc.lanes.map (·.lane))
  | some (.journalEntryPerform core id) =>
    ((getCore s core).journal.find? fun e => e.id == id).map fun e => (e.ctx, [e.lane])
  | some _ => none

/-- The 8-byte words that a write of n bytes replaces, with what they hold (R420). -/
def oldWords (s : State) (pa n : Nat) : List OldWord :=
  if n = 0 then []
  else (numsFrom (pa / 8) ((pa + n - 1) / 8 - pa / 8 + 1)).map fun w =>
    { word := w, since := s.free, value := BitVec.ofNat 64 (memNat s (8 * w) 8), by_ := storers s }

/-- A holder's copy of a line is invalidated: the stash of a Truss loses it (R410). -/
def dropHolding (s : State) (h : Holding) : State :=
  match h.holder with
  | .truss t => modTruss s t fun e => { e with stash := e.stash.filter fun k => k.1 != h.line }
  | .lcore _ | .pkg _ => s

/-- The recalls that go to the packages that hold lines: units that leave at once (R482, log 118). -/
def recallUnits (hs : List Holding) : List Ev :=
  hs.filterMap fun h => match h.holder with
    | .pkg p => some (.coherence h.line p)
    | .truss _ | .lcore _ => none

/-- A home recalls its lines from every holder but those through which the writer holds them (R410, R411, R482). -/
def recallLines (s : State) (writer : List Holder) (lines : List Nat) : State :=
  let gone (e : Holding) : Bool := lines.contains e.line && !writer.contains e.holder
  match s.dir.filter gone with
  | [] => s
  | hs => hs.foldl dropHolding { s with dir := s.dir.filter fun e => !gone e, due := s.due ++ recallUnits hs }

/-- A write of a holder, or of another agent: the other holders lose the line (R410), the bytes change, and watches on
their lines end (R207). -/
def storeBy (s : State) (writer : List Holder) (pa : Nat) (bs : List Byte) : State :=
  let s1 := recallLines s writer (linesOf pa bs.length)
  let s2 := { s with mem := putBytes s.mem pa bs, olds := s.olds ++ oldWords s pa bs.length, dir := s1.dir, trusses := s1.trusses,
                      due := s1.due }
  pushDue s2 ((linesOf pa bs.length).flatMap (spinWakes s))

/-- A write at a home by an agent that holds no line. -/
def storeHome (s : State) (pa : Nat) (bs : List Byte) : State := storeBy s [] pa bs

/-! ## The physical address map (R474) -/

inductive Target where
  | hbm | host | window | regs | nothing
  deriving DecidableEq, Repr

/-- The target of a physical address. -/
def targetOf (pa : Nat) : Target :=
  let o := pa % 2 ^ 44
  if o < 0xC000000000 then .hbm
  else if o < 0xC0000000000 then .nothing
  else if o < 0xF0000000000 then .host
  else if o < 0xF0000400000 then .window
  else if o < 0xF0000410000 then .regs
  else .nothing

/-- The package of a physical address. -/
def paPkg (pa : Nat) : Nat := pa / 2 ^ 44

/-- An address is one of another package's memory: a host range counts as the issuer's own package (R147, R475, log 147). -/
def farFrom (pkg pa : Nat) : Bool := paPkg pa != pkg && targetOf pa != .host

/-! ## Local SRAM -/

/-- The size of a core's SRAM (R185, R252, R455). -/
def sramSize (core : Nat) : Nat :=
  match coreKind core with
  | .dcore => 131072
  | .lcore => 8192
  | .eave => 65536

def sramByte (s : State) (core off : Nat) : Byte := tget 0 (getCore s core).sram off
def sramBytes (s : State) (core : Nat) : Nat → Nat → List Byte
  | _, 0 => []
  | off, n + 1 => sramByte s core off :: sramBytes s core (off + 1) n
def sramPut (s : State) (core off : Nat) (b : Byte) : State :=
  modCore s core fun c => { c with sram := tset 0 c.sram off b }
def sramIsBad (s : State) (core off : Nat) : Bool := (getCore s core).sramBad.contains (off / 32)
def sramPoison (s : State) (core off : Nat) : State :=
  modCore s core fun c => { c with sramBad := addNum c.sramBad (off / 32) }
def sramClean (s : State) (core off : Nat) : State :=
  modCore s core fun c => { c with sramBad := c.sramBad.filter fun k => k != off / 32 }

/-- LCARVE at reset: ACC 4, CACHE 4, STASH 8, SCR 8, WS 8 (R185). -/
def lcarveReset : DWord := 0x04108208

/-- LCARVE of a core. -/
def lcarve (s : State) (core : Nat) : DWord := tget lcarveReset (getCore s core).sys 0x102

def lcWs (v : DWord) : Nat := (v.extractLsb' 0 6).toNat
def lcScr (v : DWord) : Nat := (v.extractLsb' 6 6).toNat
def lcStash (v : DWord) : Nat := (v.extractLsb' 12 6).toNat
def lcCache (v : DWord) : Nat := (v.extractLsb' 18 6).toNat
def lcAcc (v : DWord) : Nat := (v.extractLsb' 24 6).toNat

/-- The start of a core's scratch region in its SRAM, and its size (R142, R185, R455). -/
def scratchBase (s : State) (core : Nat) : Nat :=
  match coreKind core with
  | .dcore => lcWs (lcarve s core) * 4096
  | .lcore => 0
  | .eave => 8192
def scratchSize (s : State) (core : Nat) : Nat :=
  match coreKind core with
  | .dcore => lcScr (lcarve s core) * 4096
  | .lcore => 0
  | .eave => 57344

/-- The start and size of a core's accumulator region (R185, R313). -/
def accBase (s : State) (core : Nat) : Nat :=
  let v := lcarve s core
  (lcWs v + lcScr v + lcStash v + lcCache v) * 4096
def accSize (s : State) (core : Nat) : Nat := lcAcc (lcarve s core) * 4096

/-- The replay log of a core is enabled (R281). -/
def replayOn (s : State) (core : Nat) : Bool := (tget 0 (getCore s core).sys 0x15D).getLsbD 31

/-- U of R311: the scratch that every core of a Truss offers to courses. -/
def trussScratch (s : State) (truss : Nat) : Nat :=
  (List.range 32).foldl (fun m c =>
    let k := truss * 64 + c
    Nat.min m (scratchSize s k - (if replayOn s k then 16384 else 0))) 131072

/-- The accumulator bytes that every core of a Truss offers to courses (R313). -/
def trussAcc (s : State) (truss : Nat) : Nat :=
  (List.range 32).foldl (fun m c => Nat.min m (accSize s (truss * 64 + c))) 131072

/-- The core of a Truss and the offset in its region that a Truss-local address names (R311). -/
def trussLocal (a : Nat) : Nat × Nat := (a / 64 % 32, a / 2048 * 64 + a % 64)

/-- The Truss-local address of offset o of core c (R312). -/
def trussAddr (c o : Nat) : Nat := o / 64 * 2048 + c * 64 + o % 64

/-- A space that lies in SRAM, as seen by a context. -/
inductive Space where
  /-- `loc` of a split strand on a core (R142). -/
  | scratch (core : Nat)
  /-- `loc` of the courses of a Truss (R311). -/
  | local (truss : Nat)
  /-- The accumulator space of a split strand, and of the courses of a Truss (R313). -/
  | accCore (core : Nat)
  | accTruss (truss : Nat)
  deriving DecidableEq, Repr

/-- The size of a space. -/
def spaceSize (s : State) : Space → Nat
  | .scratch c => scratchSize s c
  | .local t => 32 * trussScratch s t
  | .accCore c => accSize s c
  | .accTruss t => 32 * trussAcc s t

/-- The core and SRAM offset of an address of a space. -/
def spaceAt (s : State) (sp : Space) (a : Nat) : Nat × Nat :=
  match sp with
  | .scratch c => (c, scratchBase s c + a)
  | .local t =>
    let (c, o) := trussLocal a
    (t * 64 + c, scratchBase s (t * 64 + c) + o)
  | .accCore c => (c, accBase s c + a)
  | .accTruss t =>
    let (c, o) := trussLocal a
    (t * 64 + c, accBase s (t * 64 + c) + o)

def spaceByte (s : State) (sp : Space) (a : Nat) : Byte :=
  let (c, o) := spaceAt s sp a
  sramByte s c o
def spaceBytes (s : State) (sp : Space) : Nat → Nat → List Byte
  | _, 0 => []
  | a, n + 1 => spaceByte s sp a :: spaceBytes s sp (a + 1) n
def spaceNat (s : State) (sp : Space) (a n : Nat) : Nat := leNat (spaceBytes s sp a n)
def spaceStore (s : State) (sp : Space) : Nat → List Byte → State
  | _, [] => s
  | a, b :: t =>
    let (c, o) := spaceAt s sp a
    spaceStore (sramPut s c o b) sp (a + 1) t
/-- Whether n bytes of a space touch a poisoned sector. -/
def spaceBad (s : State) (sp : Space) : Nat → Nat → Bool
  | _, 0 => false
  | a, n + 1 =>
    let (c, o) := spaceAt s sp a
    sramIsBad s c o || spaceBad s sp (a + 1) n

/-- The `loc` space of a context's lane (R142); a lane of a split course keeps the Truss-local space (log 5). -/
def locSpace (x : Ctx) (l : Nat) : Space :=
  match x.kind with
  | .course => .local (trussOf x.core)
  | _ => .scratch (laneCore x l)

/-- The accumulator space of a context (R313). -/
def accSpace (x : Ctx) : Space :=
  match x.kind with
  | .course => .accTruss (trussOf x.core)
  | _ => .accCore x.core

end Sys2Proof.Machine
end

