-- ==== Sys2Proof/Machine/Mesh.lean ====
section
/-! DEFINITION. Sending: the engines of a die and a package, causal stamps, and the messages that the device itself
sends (R212, R218, R255, R262). -/

namespace Sys2Proof.Machine

open Sys2Proof

/-- The engine of the host proxy of a package, and of the Purlin of a die (R212). -/
def hostProxyKey (pkg : Nat) : Nat := pkg * 65536 + 11 * 1024
def purlinKey (die : Nat) : Nat := die * 16384 + 15 * 1024

/-- The kind of a receive engine (R212). -/
inductive EngineKind where
  | core (k : CoreKind)
  | purlin
  | hostProxy
  | none
  deriving DecidableEq, Repr

/-- The engine that bits 31:8 of a node id name. -/
def engineKind (key : Nat) : EngineKind :=
  let core := key % 64
  let site := key / 64 % 16
  let bay := key / 1024 % 16
  let die := key / 16384 % 4
  if bay < 10 then
    if site < 8 then (if core < 32 then .core .dcore else .none)
    else if site = 8 then (if core < 8 then .core .lcore else .none) else .none
  else if bay = 11 then (if die = 0 ∧ site = 0 ∧ core = 0 then .hostProxy else .none)
  else if 12 ≤ bay ∧ bay ≤ 14 then (if site = 0 ∧ core < 32 then .core .eave else .none)
  else if bay = 15 then (if site = 0 ∧ core = 0 then .purlin else .none)
  else .none

/-- A node id is valid (R212). -/
def validNode (n : Nat) : Bool :=
  let kind := n / 32 % 8
  n % 32 == 0 && match engineKind (n / 256) with
    | .core .dcore => kind == 0 || kind == 3
    | .core .lcore => kind == 1
    | .core .eave => kind == 2
    | .purlin => kind == 4
    | .hostProxy => kind == 5
    | .none => false

/-- The later of two stamps (R262). -/
def laterStamp (a b : Word) : Word :=
  let d := (a - b).toNat
  if 1 ≤ d ∧ d ≤ 2 ^ 31 - 1 then a else b

/-- CSTAMP of an engine. -/
def cstamp (s : State) (core : Nat) : Word := (tget 0 (getCore s core).sys 0x155).setWidth 32
def setCstamp (s : State) (core : Nat) (v : Word) : State :=
  modCore s core fun c => { c with sys := tset 0 c.sys 0x155 (v.setWidth 64) }

/-- The engine enters a unit into its send queue: CSTAMP advances, and the unit carries it (R262). -/
def stampSend (s : State) (core : Nat) : State × Word :=
  let v := cstamp s core + 1
  (setCstamp s core v, v)

/-- The engine takes in a unit (R262). -/
def stampTake (s : State) (core : Nat) (stamp : Word) : State := setCstamp s core (laterStamp (cstamp s core) stamp + 1)

/-- The 16 header bytes of a message (R218). -/
def headerBytes (s : State) (m : Msg) : List Byte :=
  leBytes 4 (nodeId s m.dst / 256 * 256 + m.cls % 8 * 32 + (if m.rel then 16 else 0) + (if m.fsens then 8 else 0)
      + (if m.txr then 4 else 0))
    ++ leBytes 4 (nodeId s m.src / 256 * 256 + m.flow / 256 % 256)
    ++ leBytes 4 (m.task.toNat * 256 + m.flow % 256)
    ++ leBytes 4 m.stamp.toNat

/-- A list of exactly n bytes: cut, or filled with zeros. -/
def padBytes (n : Nat) (l : List Byte) : List Byte := (l ++ List.replicate n 0).take n

/-- A message enters its engine's send queue, with the engine's stamp (R222, R262); the device's own messages do not wait
for room (log 72). -/
def enterSend (s : State) (m : Msg) : State :=
  let (s1, stamp) := stampSend s m.src
  let m := { m with stamp }
  pushFlight (modCore s1 m.src fun c => { c with sendQ := c.sendQ ++ [{ msg := m }] }) [.messageArrival m]

/-- A class-0 message that the device sends from an engine to a node, with tag 0 (R255). -/
def postNote (s : State) (src dst flow : Nat) (payload : List Byte) : State :=
  enterSend s { dst, cls := 0, rel := false, fsens := false, txr := false, src, flow, task := 0, stamp := 0,
                payload := padBytes 48 payload }

end Sys2Proof.Machine
end

