-- ==== Sys2Proof/Machine/Remote.lean ====
section
/-! DEFINITION. Other packages: the route table, the import table and the reasons of a refusal (R246, R474, R478 to
R481). -/

namespace Sys2Proof.Machine

open Sys2Proof

/-- What an access is for (R428). -/
inductive AccKind where
  | read | write | atomic | fetch
  deriving DecidableEq, Repr

/-- The byte of FROUTE for a destination package (R478, R485). -/
def froute (s : State) (pkg dst : Nat) : Byte :=
  (pkgReg s pkg (0x100 + dst / 8 * 8)).extractLsb' (dst % 8 * 8) 8
/-- A unit for a package can leave (R478). -/
def routeUp (s : State) (src dst : Nat) : Bool := src == dst || (froute s src dst).getLsbD 7

/-- An import entry covers n bytes at an offset and admits a source package (R480, R485). -/
def fimpCovers (lo hi : DWord) (src off n : Nat) : Bool :=
  let size := (hi.extractLsb' 0 6).toNat
  let base := (lo.extractLsb' 12 32).toNat * 4096
  lo.getLsbD 0 && 12 ≤ size && size ≤ 44 && base % 2 ^ size == 0 && base ≤ off && off + n ≤ base + 2 ^ size
    && (lo.getLsbD 4 || (hi.extractLsb' 8 8).toNat == src)

/-- An import entry grants a kind of access (R480). -/
def fimpGrants (lo : DWord) (k : AccKind) : Bool :=
  match k with
  | .read | .fetch => lo.getLsbD 1
  | .write => lo.getLsbD 2
  | .atomic => lo.getLsbD 1 && lo.getLsbD 2 && lo.getLsbD 3

/-- Why the import table of a package refuses a request: 0 it does not, 1 no entry covers it, 2 a permission is missing
(R480). -/
def importReason (s : State) (src pa n : Nat) (k : AccKind) : Nat :=
  let pkg := paPkg pa
  let off := pa % 2 ^ 44
  let rows := (List.range 64).map fun i => (pkgReg s pkg (0x1000 + 16 * i), pkgReg s pkg (0x1008 + 16 * i))
  match rows.filter fun r => fimpCovers r.1 r.2 src off n with
  | [] => 1
  | rs => if rs.any fun r => fimpGrants r.1 k then 0 else 2

/-- The kind of access of an operation (R428). -/
def opKind : MemOp → AccKind
  | .load _ | .spin _ | .sector => .read
  | .store _ => .write
  | _ => .atomic

/-- The check that a package makes of a fabric request on entry (R480): 0 where it passes, else a reason of R246. A host
range takes part in no request (R475). -/
def entryReason (s : State) (src : Nat) (task : BitVec 24) (pa n : Nat) (k : AccKind) : Nat :=
  if (getPkg s (paPkg pa)).deadTags.contains task then 6
  else
    match targetOf pa with
    | .window | .host => 0
    | .nothing | .regs => 1
    | .hbm => importReason s src pa n k

/-- Why a request that is made and answered in one step is refused: the package cannot be reached, or refuses it. -/
def remoteReason (s : State) (src : Nat) (task : BitVec 24) (pa n : Nat) (k : AccKind) : Nat :=
  if !routeUp s src (paPkg pa) then 5 else entryReason s src task pa n k

/-- An access that a package makes at an address passes: its own, or one that the other package lets in (R480). -/
def accPasses (s : State) (pkg : Nat) (task : BitVec 24) (pa n : Nat) (k : AccKind) : Bool :=
  !farFrom pkg pa || remoteReason s pkg task pa n k == 0

end Sys2Proof.Machine
end

