-- ==== Sys2Proof/Machine/Translate.lean ====
section
/-! DEFINITION. Address translation (R420 to R430): the walk, the TLBs of a core, a Truss and a bay, the walk cache, and
the checks of permission and attribute. -/

namespace Sys2Proof.Machine

open Sys2Proof

/-- log2 of a page size (R421). -/
def pageLog (size : Nat) : Nat := getAt 12 [12, 14, 16, 18, 20, 21, 22, 24, 26, 28, 29, 30, 32, 34, 36, 38] size

/-- Bits 63:57 equal bit 56 (R10, R141). -/
def canonical (va : DWord) : Bool := va.extractLsb' 56 8 == 0 || va.extractLsb' 56 8 == 0xFF

/-- The pc that a sum gives: bits 63:57 equal bit 56 (R10). -/
def canonPc (va : DWord) : DWord := (va.extractLsb' 0 57).signExtend 64

/-- An address as the pc of a form holds it: its low bits are 0 too (R10, log 75). -/
def pcBits (f : Form) (va : DWord) : DWord := canonPc va &&& (match f with | .k => ~~~1#64 | .w => ~~~3#64)

/-- A translation that failed: the vector and the reason. -/
structure Fail where
  vector : Nat
  reason : Nat
  deriving DecidableEq, Repr

/-- The index of a walk at a level (R424). -/
def walkIndex (va : DWord) (level : Nat) : Nat := (va.extractLsb' (12 + 9 * level) 9).toNat

/-- A leaf entry is legal at its level (R424, R426, R427). -/
def leafOk (e : DWord) (level : Nat) : Bool :=
  let size := (e.extractLsb' 2 4).toNat
  let range := match level with
    | 0 => size ≤ 4
    | 1 => 5 ≤ size && size ≤ 10
    | 2 => 11 ≤ size
    | _ => false
  range && (e.extractLsb' 52 3).toNat < 6 && !(e.getLsbD 7 && !e.getLsbD 6)
    && (e.extractLsb' 12 40).toNat * 4096 % 2 ^ pageLog size == 0

/-- One entry of a walk (R427): the page, the next table, or why the walk failed. -/
def walkEntry (e : DWord) (asid level : Nat) (va : DWord) : Except Nat (Sum Nat TlbEnt) :=
  if !e.getLsbD 0 then .error 1
  else if e.extractLsb' 55 9 != 0 || e.getLsbD 11 then .error 3
  else if e.getLsbD 1 then
    if leafOk e level then
      let size := (e.extractLsb' 2 4).toNat
      let p := 2 ^ pageLog size
      .ok (.inr { asid, vbase := va.toNat / p * p, size, pa := (e.extractLsb' 12 40).toNat * 4096,
                  attr := (e.extractLsb' 52 3).toNat, r := e.getLsbD 6, w := e.getLsbD 7, x := e.getLsbD 8,
                  u := e.getLsbD 9, a := e.getLsbD 10 })
    else .error 3
  else if level = 0 || e.extractLsb' 52 3 != 0 || e.extractLsb' 2 9 != 0 then .error 3
  else .ok (.inl ((e.extractLsb' 12 40).toNat * 4096))

/-- The pointer that a walk cache holds for an address at a level: the table to read at the level below (R430). -/
def walkCached (b : Bay) (asid level : Nat) (va : DWord) : Option Nat :=
  (b.walk.find? fun w => w.asid == asid && w.level == level && w.pre == va.toNat / 2 ^ (12 + 9 * level)).map (·.table)

/-- A translation unit lies in the reach of a scope, seen from the unit of the issuer (R435). -/
def xlInScope (own : Nat) (sc : Scope) (bay : Nat) : Bool :=
  match sc with
  | .none | .strand | .core | .truss | .bay => bay == own
  | .die => bay / 16 == own / 16
  | .pkg => bay / 64 == own / 64
  | .sys => true

/-- A TFENCE that covers a translation unit was executed, after a store had replaced a value, by the strands that stored;
by any strand where another agent stored (R420, log 130). -/
def fencedOld (s : State) (bay : Nat) (o : OldWord) : Bool :=
  s.fences.any fun f => xlInScope f.unit f.scope bay && decide (o.since < f.since)
    && (match o.by_ with
      | none => true
      | some (c, ls) => f.ctx == c && ls.all fun l => f.lanes.contains l)

/-- A table entry as a walk reads it: the value in memory, or one that a store replaced and that no TFENCE of its strand
covers (R420, R437). -/
def tableEntry (s : State) (bay : Nat) (va : DWord) (level pa : Nat) : DWord :=
  let fresh : DWord := BitVec.ofNat 64 (memNat s pa 8)
  match s.olds.filter fun o => o.word == pa / 8 && !fencedOld s bay o with
  | [] => fresh
  | os => getAt fresh (fresh :: os.map (·.value)) (choice s (1000 + 8 * (va.toNat / 4096) + level) % (os.length + 1))

/-- A walk from a table at a level, `fuel` levels deep: the page with the pointers that were read, or the reason of the
failure (R427); an entry that another package refuses meets a table read error (R480, log 149). Where a walk cache holds another pointer than the entry that is read, either may be used (R420). -/
def walkFrom (s : State) (bay : Nat) (asid : Nat) (va : DWord) : Nat → Nat → Except Nat (TlbEnt × List WalkEnt)
  | 0, _ => .error 3
  | fuel + 1, table =>
    let level := fuel
    let at_ := table + 8 * walkIndex va level
    let fresh : Except Nat (Sum Nat TlbEnt) :=
      if memBad s at_ 8 || !accPasses s (bay / 64) 0 at_ 8 .read then .error 4 else walkEntry (tableEntry s bay va level at_) asid level va
    let used := match walkCached (getBay s bay) asid level va with
      | none => fresh
      | some t =>
        let same := match fresh with
          | .ok (.inl u) => u == t
          | _ => false
        if same then fresh else if choice s (16 + level) % 2 = 0 then .ok (.inl t) else fresh
    match used with
    | .error r => .error r
    | .ok (.inr p) => .ok (p, [])
    | .ok (.inl t) =>
      match walkFrom s bay asid va fuel t with
      | .error r => .error r
      | .ok (p, ws) => .ok (p, { asid, level, pre := va.toNat / 2 ^ (12 + 9 * level), table := t } :: ws)

/-- A walk from TTB (R427). -/
def walk (s : State) (bay : Nat) (ttb va : DWord) : Except Nat (TlbEnt × List WalkEnt) :=
  walkFrom s bay (ttb.extractLsb' 52 12).toNat va 5 ((ttb.extractLsb' 12 40).toNat * 4096)

/-- The entries of a TLB that hold an address (R430). -/
def tlbHits (tlb : List TlbEnt) (asid : Nat) (va : DWord) : List TlbEnt :=
  tlb.filter fun e => e.asid == asid && e.vbase == va.toNat / 2 ^ pageLog e.size * 2 ^ pageLog e.size

/-- The page of an address, from TLB entries or a walk of a bay. An entry that differs from the walk may still be used or
may have been replaced, and any of several overlapping entries may be used (R430, log 10). -/
def findIn (s : State) (tlb : List TlbEnt) (bay : Nat) (ttb va : DWord) : Except Nat (TlbEnt × List WalkEnt) :=
  if !canonical va then .error 2
  else
    let hits := tlbHits tlb (ttb.extractLsb' 52 12).toNat va
    let w := walk s bay ttb va
    match hits with
    | [] => w
    | h :: t =>
      match w with
      | .ok (p, ws) =>
        if (h :: t).all (· == p) then w
        else
          let k := choice s 24 % ((h :: t).length + 1)
          if k = 0 then .ok (p, ws) else .ok (getAt h (h :: t) (k - 1), [])
      | .error r =>
        let k := choice s 24 % ((h :: t).length + 1)
        if k = 0 then .error r else .ok (getAt h (h :: t) (k - 1), [])

/-- The Truss TLB that serves a core: none for an L-core or an Eave core (R430). -/
def trussTlb (s : State) (core : Nat) : List TlbEnt :=
  match coreKind core with
  | .dcore => (getTruss s (trussOf core)).tlb
  | _ => []

/-- The TLB entries that serve a core: micro, Truss and bay TLB (R430). -/
def coreTlbs (s : State) (core : Nat) : List TlbEnt :=
  (getCore s core).tlb ++ trussTlb s core ++ (getBay s (xlBayOf core)).tlb

/-- The page of an address for a core (R427, R430). -/
def findPage (s : State) (core : Nat) (ttb va : DWord) : Except Nat (TlbEnt × List WalkEnt) :=
  findIn s (coreTlbs s core) (xlBayOf core) ttb va

/-- A list takes one more entry; where it is full, which entry it replaces is free (R430). -/
def addEntry {α : Type} [BEq α] (s : State) (cap : Nat) (l : List α) (e : α) : List α :=
  if l.contains e then l
  else if l.length < cap then l ++ [e]
  else l.eraseIdx (choice s 25 % cap) ++ [e]

/-- A bay keeps a page in its TLB, and pointers in its walk cache (R430). -/
def keepBay (s : State) (bay : Nat) (p : TlbEnt) (ws : List WalkEnt) : State :=
  let b := getBay s bay
  let news := ws.filter fun w => !b.walk.contains w
  if b.tlb.contains p && news.isEmpty then s
  else modBay s bay fun b =>
    let kept := b.walk.filter fun w => !news.any fun n => n.asid == w.asid && n.level == w.level && n.pre == w.pre
    { b with tlb := addEntry s 4096 b.tlb p, walk := news.foldl (addEntry s 256) kept }

/-- A translation fills every level that it passed through: those before the one that held it (R430). -/
def keepPage (s : State) (core : Nat) (p : TlbEnt) (ws : List WalkEnt) : State :=
  if (getCore s core).tlb.contains p then s
  else
    let s1 := if coreKind core = .eave then s
              else modCore s core fun c => { c with tlb := addEntry s 16 c.tlb p }
    if (trussTlb s core).contains p then s1
    else
      let s2 := if coreKind core = .dcore then
          modTruss s1 (trussOf core) fun t => { t with tlb := addEntry s 512 t.tlb p } else s1
      keepBay s2 (xlBayOf core) p ws

/-- The result of a translation stays, whatever check of the access fails after it (R430). -/
def keepWalk (z s : State) (core : Nat) (ttb va : DWord) : State :=
  match findPage s core ttb va with
  | .ok (p, ws) => keepPage z core p ws
  | .error _ => z

/-- The physical address of an address on a page (R426). -/
def pagePa (p : TlbEnt) (va : DWord) : Nat := p.pa + va.toNat % 2 ^ pageLog p.size

/-- The permission check of R428: the U failure is reported first. -/
def permFail (p : TlbEnt) (k : AccKind) (priv : Bool) : Option Fail :=
  let v := match k with | .fetch => 4 | _ => 11
  if !priv && !p.u then some { vector := v, reason := match k with | .fetch => 6 | _ => 4 }
  else
    match k with
    | .read => if p.r then none else some { vector := v, reason := 1 }
    | .write => if p.w then none else some { vector := v, reason := 2 }
    | .atomic => if p.r && p.w && p.a then none else some { vector := v, reason := 3 }
    | .fetch => if p.x then none else some { vector := v, reason := 5 }

/-- The attribute check of R429 and R475 for an access from a package: `device` says that the access is one that a device page
accepts (R164), `rmw` that it is an atomic or SPIN. -/
def attrFail (pkg : Nat) (p : TlbEnt) (pa : Nat) (device rmw : Bool) : Option Fail :=
  if p.attr = 5 ∧ !device then some { vector := 12, reason := 1 }
  else if rmw ∧ 2 ≤ p.attr ∧ p.attr ≤ 4 then some { vector := 12, reason := 2 }
  else
    match targetOf pa with
    | .regs | .nothing => if paPkg pa = pkg then some { vector := 12, reason := 3 } else none
    | .host => if (p.attr ≠ 0 ∧ p.attr ≠ 5) ∨ rmw then some { vector := 12, reason := 3 } else none
    | .window | .hbm => none

/-- A fetch may read the page only from the HBM of a package (R77, R429). -/
def fetchFail (p : TlbEnt) (pa : Nat) : Option Fail :=
  if p.attr = 5 ∨ targetOf pa ≠ .hbm then some { vector := 4, reason := 7 } else none

/-- A translation for a core, with the permission check of R428. -/
def translate (s : State) (core : Nat) (ttb va : DWord) (k : AccKind) (priv : Bool) :
    Except Fail (TlbEnt × List WalkEnt × Nat) :=
  match findPage s core ttb va with
  | .error r => .error { vector := match k with | .fetch => 4 | _ => 10, reason := r }
  | .ok (p, ws) =>
    match permFail p k priv with
    | some f => .error f
    | none => .ok (p, ws, pagePa p va)

end Sys2Proof.Machine
end

