-- ==== Sys2Proof/Machine/Cache.lean ====
section
/-! DEFINITION. The caches that are not coherent: cache portions, the shared cache of a Truss and the cacheable part of an
L1 (R188, R409, R411, R412), and the holders of coherent lines (R410). A line may leave its cache at any time; whether it
has is a free choice (log 26, log 28). -/

namespace Sys2Proof.Machine

open Sys2Proof

/-- Where the lines of a page may be held. -/
inductive CacheAt where
  | nowhere
  | core (k : Nat)
  | truss (t : Nat)
  deriving DecidableEq, Repr

/-- TCSTAT.SHARED of a Truss (R287). -/
def trussShared (s : State) (t : Nat) : Bool := (tget 0 (getTruss s t).sys 0x191).getLsbD 0

/-- The cache that a core uses for an address on a page of an attribute: none for the memory of another package (R409,
R411). -/
def cacheAt (s : State) (core attr pa : Nat) : CacheAt :=
  if paPkg pa ≠ pkgOf core then .nowhere
  else
    match coreKind core with
    | .eave => .nowhere
    | .lcore => if 2 ≤ attr ∧ attr ≤ 4 then .core core else .nowhere
    | .dcore =>
      if lcCache (lcarve s core) = 0 then .nowhere
      else if trussShared s (trussOf core) then (if 2 ≤ attr ∧ attr ≤ 4 then .truss (trussOf core) else .nowhere)
      else if attr = 2 ∨ attr = 3 then .core core else .nowhere

/-- The lines of a cache. -/
def cacheLines (s : State) : CacheAt → List CLine
  | .nowhere => []
  | .core k => (getCore s k).lines
  | .truss t => (getTruss s t).lines

/-- The sum of a figure over the cores of a Truss. -/
def sumCores (t : Nat) (f : Nat → Nat) : Nat := (List.range 32).foldl (fun n c => n + f (t * 64 + c)) 0

/-- The lines that a cache has room for (R1, R185, R287). -/
def cacheCap (s : State) : CacheAt → Nat
  | .nowhere => 0
  | .core k => match coreKind k with
    | .lcore => 512
    | _ => 32 * lcCache (lcarve s k)
  | .truss t => 32 * sumCores t fun k => lcCache (lcarve s k)

/-- A cache with its lines replaced. -/
def setCacheLines (s : State) (c : CacheAt) (ls : List CLine) : State :=
  match c with
  | .nowhere => s
  | .core k => modCore s k fun e => { e with lines := ls }
  | .truss t => modTruss s t fun e => { e with lines := ls }

/-- The line of a cache that holds an address. -/
def cacheFind (s : State) (c : CacheAt) (pa : Nat) : Option CLine :=
  (cacheLines s c).find? fun l => l.line == pa / lineBytes

/-- The poisoned sectors of a line, 0 to 3. -/
def badSectors (s : State) (line : Nat) : List Nat := (List.range 4).filter fun k => s.bad.contains (4 * line + k)

/-- A line as memory holds it, with the marks of its poisoned sectors (R165). -/
def freshLine (s : State) (pa : Nat) (owner : Option Nat) : CLine :=
  { line := pa / lineBytes, data := memBytes s (pa / lineBytes * lineBytes) lineBytes,
    dirty := List.replicate lineBytes false, owner, bad := badSectors s (pa / lineBytes) }

/-- The line holds what memory holds. -/
def lineSame (s : State) (l : CLine) : Bool :=
  l.dirty.all (· == false) && l.data == memBytes s (l.line * lineBytes) lineBytes && l.bad == badSectors s l.line

/-- The bytes of a line with the dirty ones over what memory holds. -/
def mergeDirty : List Byte → List Bool → List Byte → List Byte
  | d :: ds, true :: fs, _ :: ms => d :: mergeDirty ds fs ms
  | _ :: ds, false :: fs, m :: ms => m :: mergeDirty ds fs ms
  | _, _, ms => ms

/-- Writes back a line's dirty bytes, as plain stores (R412). -/
def writeBack (s : State) (l : CLine) : State :=
  if l.dirty.all (· == false) then s
  else storeHome s (l.line * lineBytes) (mergeDirty l.data l.dirty (memBytes s (l.line * lineBytes) lineBytes))

/-- A line leaves its cache, written back if it is dirty. -/
def dropLine (s : State) (c : CacheAt) (l : CLine) : State :=
  setCacheLines (writeBack s l) c ((cacheLines s c).filter fun k => k.line != l.line)

/-- Every line of a cache is written back and leaves it. -/
def flushCache (s : State) (c : CacheAt) : State := (cacheLines s c).foldl (fun z l => dropLine z c l) s

/-- Every dirty line of a cache is written back and stays. -/
def cleanCache (s : State) (c : CacheAt) : State :=
  let s1 := (cacheLines s c).foldl writeBack s
  setCacheLines s1 c ((cacheLines s1 c).map fun l => { l with dirty := l.dirty.map fun _ => false })

/-- The number of a course; none for another context. -/
def courseTag (s : State) (ctx : Nat) : Option Nat :=
  if (getCtx s ctx).kind = .course then some (getCtx s ctx).num else none

/-- The Truss writes the oldest of its 8,192 victim tags for a line that a course touched last, with the number that the
course had then (R391). -/
def tagVictim (s : State) (t line : Nat) (num : Option Nat) : State :=
  match num with
  | none => s
  | some c => modTruss s t fun e =>
      let v := e.victims ++ [some (line, c)]
      { e with victims := v.drop (v.length - 8192) }

/-- A line is evicted from its cache; no other member of the core's group takes it (R188, log 131). -/
def evictLine (s : State) (c : CacheAt) (l : CLine) : State :=
  match c with
  | .truss t => tagVictim (dropLine s c l) t l.line l.owner
  | _ => dropLine s c l

/-! ## Coherent lines (R410, R411) -/

/-- The holder that a core's coherent lines lie in: the stash of its Truss, or its L1. -/
def holderOf (core : Nat) : Option Holder :=
  match coreKind core with
  | .dcore => some (.truss (trussOf core))
  | .lcore => some (.lcore core)
  | .eave => none

/-- Shared-coherent lines may be held in another package: feature bit 1 is granted (R473, R482). -/
def linksCoherent (s : State) (pkg : Nat) : Bool := (tget 0 (getPkg s pkg).regs 0x30).getLsbD 1

/-- A line that the stash or the coherent L1 may hold for a core (R409, R411, R475). -/
def stashHolds (s : State) (core attr pa : Nat) : Bool :=
  targetOf pa == .hbm
    && (if paPkg pa = pkgOf core then attr ≤ 1 || (attr ≤ 4 && cacheAt s core attr pa == .nowhere)
        else attr == 1 && linksCoherent s (pkgOf core) && linksCoherent s (paPkg pa))

/-- The coherent lines that a holder has room for (R1, R185). -/
def holdCap (s : State) : Holder → Option Nat
  | .truss t => some (32 * sumCores t fun k => lcStash (lcarve s k))
  | .lcore k => some (512 - (getCore s k).lines.length)
  | .pkg _ => none

/-- A holder lies in a package, or is that package. -/
def inPkg (p : Nat) : Holder → Bool
  | .truss t => t / 1024 == p
  | .lcore k => pkgOf k == p
  | .pkg q => q == p

/-- A coherent line leaves its holder: a package's with those of the holders in it (R411). A stash writes a victim tag for a
line that a course touched last (R391). -/
def evictHolding (s : State) (h : Holder) (line : Nat) : State :=
  let s1 := { s with dir := s.dir.filter fun e => !(e.line == line && e.holder == h) }
  match h with
  | .truss t =>
    let last := ((getTruss s t).stash.find? fun e => e.1 == line).map (·.2)
    tagVictim (modTruss s1 t fun e => { e with stash := e.stash.filter fun k => k.1 != line }) t line last
  | .lcore _ => s1
  | .pkg p =>
    let gone (e : Holding) : Bool := e.line == line && inPkg p e.holder
    (s1.dir.filter gone).foldl dropHolding { s1 with dir := s1.dir.filter fun e => !gone e }

/-- The lines of a holder. -/
def heldLines (s : State) (h : Holder) : List Nat := (s.dir.filter fun e => e.holder == h).map (·.line)

/-- A holder makes room for one more line; which line leaves a full one is free. -/
def holdRoom (s : State) (h : Holder) : State :=
  match holdCap s h with
  | none => s
  | some n =>
    match heldLines s h with
    | [] => s
    | l :: ls => if (l :: ls).length < n then s else evictHolding s h (getAt l (l :: ls) (choice s 36 % (l :: ls).length))

/-- An L1 whose cacheable lines and coherent lines leave no room gives up a coherent line; which one is free (R1). -/
def shareRoom (s : State) (c : CacheAt) : State :=
  match c with
  | .core k =>
    match coreKind k, heldLines s (.lcore k) with
    | .lcore, l :: ls =>
      if (l :: ls).length + (cacheLines s c).length < cacheCap s c then s
      else evictHolding s (.lcore k) (getAt l (l :: ls) (choice s 36 % (l :: ls).length))
    | _, _ => s
  | _ => s

/-- A line enters a cache; where the cache is full, which line it replaces is free. -/
def insertLine (s : State) (c : CacheAt) (l : CLine) : State :=
  let ls := (cacheLines s c).filter fun k => k.line != l.line
  if ls.length < cacheCap s c then
    setCacheLines (if ls.length < (cacheLines s c).length then s else shareRoom s c) c (l :: ls)
  else
    let v := getAt l ls (choice s 37 % ls.length)
    let s1 := evictLine s c v
    setCacheLines s1 c (l :: ls.filter fun k => k.line != v.line)

/-- A line may leave its cache while no access meets it: whether one does, and which, is free (R412). -/
def ageCache (s : State) (c : CacheAt) : State :=
  match cacheLines s c with
  | [] => s
  | l :: ls =>
    match choice s 38 % (ls.length + 2) with
    | 0 => s
    | k + 1 => evictLine s c (getAt l (l :: ls) k)

/-- The line that an access meets: none where it has left the cache. -/
def cacheMeet (s : State) (c : CacheAt) (pa : Nat) : State × Option CLine :=
  match cacheFind s c pa with
  | none => (s, none)
  | some l =>
    if lineSame s l then (s, some l)
    else if choice s 32 % 2 = 0 then (evictLine s c l, none) else (s, some l)

/-- The cores of a VGROUP that is formed around a core (R188). -/
def groupCores (s : State) (core : Nat) : List Nat :=
  let v := tget 0 (getCore s core).sys 0x103
  let n := 2 ^ (v.extractLsb' 1 2).toNat
  let g := (List.range n).map fun c => trussOf core * 64 + (v.extractLsb' 3 5).toNat + c
  if v.getLsbD 0 && g.contains core && !trussShared s (trussOf core)
      && g.all (fun k => tget 0 (getCore s k).sys 0x103 == v) then g else []

/-- A constant line that a member of the core's group holds (R188). -/
def groupLine (s : State) (core attr pa : Nat) : Option CLine :=
  if attr = 2 ∧ coreKind core = .dcore then
    match (groupCores s core).filterMap fun k => cacheFind s (.core k) pa with
    | [] => none
    | l :: ls => if (l :: ls).all (lineSame s) then none else
        if choice s 33 % 2 = 0 then none else some (getAt l (l :: ls) (choice s 34 % (l :: ls).length))
  else none

/-- n bytes of a line from an address. -/
def lineBytesAt (l : CLine) (pa n : Nat) : List Byte := (l.data.drop (pa % lineBytes)).take n

/-- A read of n bytes within one line: the bytes, and whether they came from a cached copy. -/
def cacheRead (s : State) (core attr ctx pa n : Nat) : State × List Byte × Bool :=
  match cacheAt s core attr pa with
  | .nowhere => (s, memBytes s pa n, false)
  | c =>
    match cacheMeet s c pa with
    | (s1, some l) => (s1, lineBytesAt l pa n, true)
    | (s1, none) =>
      match groupLine s1 core attr pa with
      | some l => (insertLine s1 c l, lineBytesAt l pa n, true)
      | none => (insertLine s1 c (freshLine s1 pa (courseTag s1 ctx)), memBytes s1 pa n, false)

/-- The byte that a plain load of a core would read (R412). -/
def peekByte (s : State) (core attr ctx pa : Nat) : Byte :=
  if targetOf pa = .window then 0 else (cacheRead s core attr ctx pa 1).2.1.headD 0

/-- A list with bytes placed from a position on. -/
def placeAt {α : Type} (l : List α) (p : Nat) (vs : List α) : List α := l.take p ++ vs ++ l.drop (p + vs.length)

/-! ## Filling and ageing coherent lines -/

/-- A coherent line may leave its holder at any time: whether one does, and which, is free (log 28). -/
def ageHolder (s : State) (h : Holder) : State :=
  match heldLines s h with
  | [] => s
  | l :: ls =>
    match choice s 35 % (ls.length + 2) with
    | 0 => s
    | k + 1 => evictHolding s h (getAt l (l :: ls) k)

/-- A course touched a line of the stash last; a strand that touches it ends that (R391). -/
def touchStash (s : State) (h : Holder) (line ctx : Nat) : State :=
  match h with
  | .truss t => modTruss s t fun e =>
      let rest := e.stash.filter fun k => k.1 != line
      { e with stash := match courseTag s ctx with
        | some n => (line, n) :: rest
        | none => rest }
  | .lcore _ | .pkg _ => s

/-- The holders that a core's access lists: its own and, for a line of another package, that package at the home. -/
def holdersFor (core pa : Nat) : List Holder :=
  match holderOf core with
  | none => []
  | some h => if paPkg pa = pkgOf core then [h] else [h, .pkg (pkgOf core)]

/-- An access of a core fills a coherent line: shared for a read, exclusive for a write (R410). -/
def holdLine (s : State) (core ctx attr pa : Nat) (excl : Bool) : State :=
  match holderOf core with
  | none => s
  | some h =>
    let line := pa / lineBytes
    if !stashHolds s core attr pa || holdCap s h == some 0 then s
    else
      let had := (holdersFor core pa).all fun k => s.dir.any fun e => e.line == line && e.holder == k && (e.excl || !excl)
      let s1 := if had then s
        else
          let z := holdRoom s h
          let rest := z.dir.filter fun e => !(e.line == line && (holdersFor core pa).contains e.holder)
          { z with dir := (rest.map fun e => if e.line = line then { e with excl := false } else e)
                            ++ (holdersFor core pa).map fun k => { line, holder := k, excl } }
      touchStash s1 h line ctx

/-! ## Writes and poison -/

/-- A write of bytes within one line (R410, R412). -/
def cacheWrite (s : State) (core attr ctx pa : Nat) (bs : List Byte) : State :=
  match cacheAt s core attr pa with
  | .nowhere => holdLine (storeBy s (holdersFor core pa) pa bs) core ctx attr pa true
  | c =>
    if attr = 2 then
      setCacheLines (storeHome s pa bs) c ((cacheLines s c).filter fun l => l.line != pa / lineBytes)
    else
      let (s1, o) := cacheMeet s c pa
      let l := o.getD (freshLine s1 pa (courseTag s1 ctx))
      insertLine s1 c { l with data := placeAt l.data (pa % lineBytes) bs,
                               dirty := placeAt l.dirty (pa % lineBytes) (bs.map fun _ => true) }

/-- A line carries the mark of a poisoned sector that n bytes touch. -/
def lineBad (l : CLine) (pa n : Nat) : Bool := (sectorsOf pa n).any fun k => l.bad.contains (k % 4)

/-- A read would meet a poisoned sector, at the home or in the copy that is held (R165). -/
def readBad (s : State) (core attr pa n : Nat) : Bool :=
  let c := cacheAt s core attr pa
  let missed := match c with
    | .nowhere => memBad s pa n
    | _ => match groupLine s core attr pa with
      | some l => lineBad l pa n
      | none => memBad s pa n
  match cacheFind s c pa with
  | some l => if lineSame s l || choice s 32 % 2 != 0 then lineBad l pa n else missed
  | none => missed

end Sys2Proof.Machine
end

