-- ==== Sys2Proof/Machine/Perform.lean ====
section
/-! DEFINITION. What one lane's access does where it is performed: loads, stores, atomics, reductions and the configured
update functions (R148, R158 to R162, R165, R225, R348 to R350). -/

namespace Sys2Proof.Machine

open Sys2Proof

/-! ## Homes -/

/-- GRAN of HMAP; it is the same on every die (R345). -/
def hmapGran (s : State) (pkg : Nat) : Nat := (tget 3 (getDie s (pkg * 4)).sys 0x1B0).toNat % 8

/-- The channel number of a physical address (R346). -/
def homeChannel (s : State) (pa : Nat) : Nat := pa % 2 ^ 44 / 2 ^ (8 + hmapGran s (paPkg pa)) % 384
/-- The die that holds the home of an address (R346). -/
def homeDie (s : State) (pa : Nat) : Nat := paPkg pa * 4 + homeChannel s pa / 96
/-- The bay and row of the home slice (R346). -/
def homeSlice (pa : Nat) : Nat × Nat :=
  let k := pa % 2 ^ 44 / 128 % 80
  (k / 8, k % 8)

/-- A function word of the home's die (R348). -/
def afnWord (s : State) (pa : Nat) (f : Nat) : DWord := tget 0 (getDie s (homeDie s pa)).sys (0x1C0 + f)

/-- The bits of a size bit. -/
def wBits : Width → Nat
  | .w32 => 32
  | .w64 => 64

/-- The function is configured for the size (R350). -/
def afnOk (word : DWord) (w : Width) : Bool := word.getLsbD 31 && word.getLsbD 30 == (w == .w64)

/-! ## New values -/

/-- The float format of a size bit. -/
def wFmt : Width → Fmt
  | .w32 => fp32
  | .w64 => fp64

/-- A sum at a home (R162). -/
def homeFadd (w : Width) (a b : Nat) : Nat :=
  (fAdd (wFmt w) { mode := .rne } (fDecode (wFmt w) a) (fDecode (wFmt w) b)).bits

/-- The signed reading of a w-bit number. -/
def asInt (w : Nat) (a : Nat) : Int := if a < 2 ^ (w - 1) then a else (a : Int) - 2 ^ w

/-- The new value of ATOM and RED (R159). -/
def atomNew (op : AtomOp) (w : Width) (old v : Nat) : Nat :=
  let n := wBits w
  match op with
  | .add => (old + v) % 2 ^ n
  | .and => Nat.land old v
  | .or => Nat.lor old v
  | .xor => Nat.xor old v
  | .min => if asInt n v < asInt n old then v else old
  | .max => if asInt n old < asInt n v then v else old
  | .minn => Nat.min old v
  | .maxn => Nat.max old v
  | .xchg => v
  | .fadd => homeFadd w old v

/-- The lowest bit of `old` that is 0, set (R349). -/
def setLow (old : Nat) (n : Nat) : Nat → Nat
  | 0 => old
  | k + 1 => if old / 2 ^ (n - (k + 1)) % 2 = 0 then old + 2 ^ (n - (k + 1)) else setLow old n k

/-- Each 16-bit field of one plus that of the other, at most 0xFFFF (R349). -/
def packAdd (a b : Nat) : Nat → Nat
  | 0 => 0
  | k + 1 => Nat.min (a % 65536 + b % 65536) 65535 + 65536 * packAdd (a / 65536) (b / 65536) k

/-- The new value of AFN (R349). -/
def afnNew (word : DWord) (w : Width) (old v : Nat) : Nat :=
  let n := wBits w
  let k := (word.extractLsb' 32 32).toNat
  match (word.extractLsb' 0 4).toNat with
  | 0 => Nat.min (old + v) k
  | 1 => if v ≤ old then old - v else old
  | 2 => (old + v) % k
  | 3 => Nat.lor (Nat.land old (2 ^ n - 1 - k)) (Nat.land v k)
  | 4 => setLow old n n
  | 5 => if old = v then (old + 1) % 2 ^ n else old
  | 6 => (fMinMax (wFmt w) true old v).bits
  | 7 => (fMinMax (wFmt w) false old v).bits
  | _ => packAdd old v (n / 16)

/-! ## Performing one lane -/

/-- The bytes that an operation covers. -/
def opBytes : MemOp → Nat
  | .load sz | .store sz => isizeBytes sz
  | .atom _ w | .red _ w | .cas w | .afn _ w | .spin w => wBits w / 8
  | .sector => 32

/-- One more discarded write or notice in MDROP of an engine (R214; bit 31 by log 71). -/
def countDrop (s : State) (core : Nat) : State :=
  modCore s core fun c =>
    let v := (tget 0 c.sys 0x118).toNat
    let n := v % 2 ^ 31
    let w : Nat := if n = 0x7FFFFFFF then 0xFFFFFFFF else v / 2 ^ 31 * 2 ^ 31 + n + 1
    { c with sys := tset 0 c.sys 0x118 (BitVec.ofNat 64 w) }

/-- The engine of a message window (R225). -/
def windowEngine (pa : Nat) : Nat := paPkg pa * 65536 + pa % 2 ^ 22 / 64

/-- The bytes of a load: a window reads as 0 (R225). A coherent line that the load misses is filled (R410). -/
def readAt (s : State) (core ctx : Nat) (acc : LaneAcc) (n : Nat) : State × Nat :=
  if targetOf acc.pa = .window then (s, 0)
  else
    let (s1, bs, _) := cacheRead s core acc.attr ctx acc.pa n
    (if cacheAt s core acc.attr acc.pa = .nowhere then holdLine s1 core ctx acc.attr acc.pa false else s1, leNat bs)

/-- Stores a number of n bytes: a write to a window is discarded and counted (R225). -/
def writeAt (s : State) (core ctx : Nat) (acc : LaneAcc) (n v : Nat) : State :=
  if targetOf acc.pa = .window then countDrop s (windowEngine acc.pa)
  else cacheWrite s core acc.attr ctx acc.pa (leBytes n v)

/-- The bytes that a home reads for an update, a SPIN or a sector: a window reads as 0 (R158, R225). -/
def homeRead (s : State) (acc : LaneAcc) (n : Nat) : Nat := if targetOf acc.pa = .window then 0 else memNat s acc.pa n

/-- An update that a home performs: the holders lose the line first (R158, R410). It answers the old value. -/
def homeUpdate (s : State) (acc : LaneAcc) (n : Nat) (new : Nat → Option Nat) : State × Nat :=
  let old := homeRead s acc n
  let s1 := recallLines s [] [acc.pa / lineBytes]
  match new old with
  | none => (s1, old)
  | some v =>
    (if targetOf acc.pa = .window then countDrop s1 (windowEngine acc.pa) else storeHome s1 acc.pa (leBytes n v), old)

/-- Performs one lane's access; answers the value that was read. A reduction to a poisoned sector is discarded (R165). -/
def performLane (s : State) (core ctx : Nat) (op : MemOp) (acc : LaneAcc) : State × Nat :=
  let n := opBytes op
  let v := acc.data.toNat
  match op with
  | .load _ => readAt s core ctx acc n
  | .spin _ | .sector => (s, homeRead s acc n)
  | .store _ => (writeAt s core ctx acc n (v % 2 ^ (8 * n)), 0)
  | .atom f w => homeUpdate s acc n fun old => some (atomNew f w old (v % 2 ^ wBits w))
  | .red f w =>
    if memBad s acc.pa n then (s, 0)
    else ((homeUpdate s acc n fun old => some (atomNew f w old (v % 2 ^ wBits w))).1, 0)
  | .cas w =>
    homeUpdate s acc n fun old => if old = v % 2 ^ wBits w then some (v / 2 ^ wBits w % 2 ^ wBits w) else none
  | .afn _ w => homeUpdate s acc n fun old => some (afnNew acc.word w old (v % 2 ^ wBits w))

/-- The function words of an AFN, as its home's check reads them (R161, R350). -/
def accWords (s : State) (op : MemOp) (accs : List LaneAcc) : List LaneAcc :=
  match op with
  | .afn f _ => accs.map fun a => { a with word := afnWord s a.pa f.toNat }
  | _ => accs

/-- Performs the lanes of an access in increasing lane order (R158), with the values read. -/
def performLanes (s : State) (core : Nat → Nat) (ctx : Nat) (op : MemOp) : List LaneAcc → State × List (Nat × Nat)
  | [] => (s, [])
  | a :: t =>
    let (s1, v) := performLane s (core a.lane) ctx op a
    let (s2, vs) := performLanes s1 core ctx op t
    (s2, (a.lane, v) :: vs)

/-! ## Results in registers -/

/-- A loaded value, extended (R148). -/
def extendLoad (sz : ISize) (v : Nat) : Nat :=
  match sz with
  | .s8 => ((BitVec.ofNat 8 v).signExtend 32).toNat
  | .s16 => ((BitVec.ofNat 16 v).signExtend 32).toNat
  | _ => v

/-- Writes the value that an operation read to its destination (R148, R159 to R161). -/
def landValue (op : MemOp) (x : Reg) (v : Nat) (a : Lane) : Lane :=
  match op with
  | .load sz =>
    match sz with
    | .w128 => setLaneQuad x.toNat (BitVec.ofNat 128 v) a
    | .w64 => setLanePair x.toNat (BitVec.ofNat 64 v) a
    | _ => setLaneReg x.toNat (BitVec.ofNat 32 (extendLoad sz v)) a
  | .atom _ w | .cas w | .afn _ w =>
    match w with
    | .w32 => setLaneReg x.toNat (BitVec.ofNat 32 v) a
    | .w64 => setLanePair x.toNat (BitVec.ofNat 64 v) a
  | .store _ | .red _ _ | .spin _ | .sector => a

/-- The registers that an operation writes (R140). -/
def landRegs (op : MemOp) (x : Reg) : List Nat :=
  let n := match op with
    | .load .w128 => 4
    | .load .w64 => 2
    | .load _ => 1
    | .atom _ w | .cas w | .afn _ w => (match w with | .w32 => 1 | .w64 => 2)
    | _ => 0
  (List.range n).map (x.toNat + ·)

/-- The data operand of an operation in a lane (R140). -/
def opData (op : MemOp) (x : Reg) (a : Lane) : QWord :=
  match op with
  | .store .w128 | .cas .w64 => laneQuad a x.toNat
  | .store .w64 | .atom _ .w64 | .red _ .w64 | .afn _ .w64 | .spin .w64 | .cas .w32 =>
    (lanePair a x.toNat).setWidth 128
  | .load _ | .sector => 0
  | _ => (laneReg a x.toNat).setWidth 128

end Sys2Proof.Machine
end

