-- ==== Sys2Proof/Machine/Regs.lean ====
section
/-! DEFINITION. System registers as stored values: where each lies and its value at reset (R16, R189, R214, R239, R248,
R250 to R252, R260, R287, R345, R357, R365, R392, R404, R433, R466, R467, R469). -/

namespace Sys2Proof.Machine

open Sys2Proof

/-- A core register as it is stored. -/
def coreReg (s : State) (core idx : Nat) : DWord :=
  if idx = 0x102 then lcarve s core else tget 0 (getCore s core).sys idx
/-- Stores a core register. -/
def setCoreReg (s : State) (core idx : Nat) (v : DWord) : State :=
  modCore s core fun c => { c with sys := tset (if idx = 0x102 then lcarveReset else 0) c.sys idx v }

/-- The value of a Truss register at reset: TDIV and LEASE_OC (R287, R392). -/
def trussReset (idx : Nat) : DWord :=
  if idx = 0x190 then 0x8002 else if idx = 0x193 then 0x401000 else 0
def trussReg (s : State) (truss idx : Nat) : DWord := tget (trussReset idx) (getTruss s truss).sys idx
def setTrussReg (s : State) (truss idx : Nat) (v : DWord) : State :=
  modTruss s truss fun c => { c with sys := tset (trussReset idx) c.sys idx v }

/-- Bay registers (R404, R466). -/
def bayReg (s : State) (bay idx : Nat) : DWord := tget 0 (getBay s bay).sys idx
def setBayReg (s : State) (bay idx : Nat) (v : DWord) : State :=
  modBay s bay fun c => { c with sys := tset 0 c.sys idx v }

/-- The value of a die register at reset: HMAP, RASCTL and TRREG (R345, R467, R469). -/
def dieReset (idx : Nat) : DWord :=
  if idx = 0x1B0 then 3 else if idx = 0x1F1 ∨ idx = 0x1F2 then 16 else 0
def dieReg (s : State) (die idx : Nat) : DWord := tget (dieReset idx) (getDie s die).sys idx
def setDieReg (s : State) (die idx : Nat) (v : DWord) : State :=
  modDie s die fun c => { c with sys := tset (dieReset idx) c.sys idx v }

/-- A field of a register. -/
def fld (v : DWord) (lo n : Nat) : Nat := (v.extractLsb' lo n).toNat
/-- A register with a field replaced. -/
def setFld (v : DWord) (lo n x : Nat) : DWord :=
  let m : DWord := BitVec.ofNat 64 ((2 ^ n - 1) * 2 ^ lo)
  (v &&& ~~~m) ||| (BitVec.ofNat 64 (x % 2 ^ n * 2 ^ lo))

/-- One more in a 31-bit counter with a saturation bit: TRDROP, PDROP, MDROP (R214, R260, R365). -/
def countSat (v : DWord) : DWord :=
  let n := fld v 0 31
  if n = 0x7FFFFFFF then setFld v 31 1 1 else setFld v 0 31 (n + 1)

/-! ## Contexts by place -/

/-- The number of cores that a context occupies from its own. -/
def ctxWidth (x : Ctx) : Nat := match x.kind with | .course => x.lanes.length | _ => 1

/-- A context occupies a core. -/
def onCore (x : Ctx) (core : Nat) : Bool := x.core ≤ core && core < x.core + ctxWidth x

/-- The context bound to a slot of a core. -/
def boundAt (s : State) (core slot : Nat) : Option Nat :=
  (s.ctxs.find? fun e => e.2.alive && e.2.slot == some slot && onCore e.2 core).map (·.1)

/-- The contexts bound to a core, with their slots. -/
def boundOn (s : State) (core : Nat) : List (Nat × Ctx) :=
  s.ctxs.filter fun e => e.2.alive && e.2.slot.isSome && onCore e.2 core

/-- The live resident course of a Truss or Gable with a number (R374). -/
def courseNum (s : State) (truss num : Nat) : Option Nat :=
  (s.ctxs.find? fun e =>
    e.2.alive && !e.2.pending && !isStrand e.2 && trussOf e.2.core == truss && e.2.num == num).map (·.1)

/-- The lane of a context that a core holds. -/
def laneOn (x : Ctx) (core : Nat) : Nat := match x.kind with | .course => core - x.core | _ => 0

/-- The core that writes a context's records and runs its keeper requests: its lowest core (R266, R278). -/
def headCore (x : Ctx) (lane : Nat) : Nat := if x.split then laneCore x lane else x.core

/-- The width of R302 and R500: a pair counts twice its lanes. -/
def logicalWidth (x : Ctx) : Nat :=
  if isStrand x then 1 else if x.mate.isSome || x.half then 2 * x.lanes.length else x.lanes.length

end Sys2Proof.Machine
end

