-- ==== Sys2Proof/Machine/Lease.lean ====
section
/-! DEFINITION. The measure of a lease: touch filters, victim tags and the estimate (R389 to R392). -/

namespace Sys2Proof.Machine

open Sys2Proof

/-- The filter bit of a virtual address (R389). -/
def touchBit (va : DWord) : Nat :=
  (va.extractLsb' 7 11 ^^^ va.extractLsb' 18 11 ^^^ va.extractLsb' 29 11 ^^^ va.extractLsb' 40 11
    ^^^ (va.extractLsb' 51 6).setWidth 11).toNat

/-- scaled(p): the floor of 2048 ln (2048 / (2048 - p)), from the series of artanh after whole halvings (R389, log 24). -/
def scaled (p : Nat) : Nat :=
  if 2048 ≤ p then 16384
  else
    let k := (2048 / (2048 - p)).log2
    let q := (2048 - p) * 2 ^ k
    let z := (2048 - q) * 2 ^ fixBits / (2048 + q)
    let ln := k * fixLn2 + 2 * fixAtanhSum (z * z / 2 ^ fixBits) 110 1 z
    2048 * ln / 2 ^ fixBits

/-- A course's lane finds its line in a tag of its own course number: one lost-locality event, and the tag goes (R391). -/
def findVictim (s : State) (ctx t line : Nat) : State :=
  let tag := some (line, (getCtx s ctx).num)
  if (getTruss s t).victims.contains tag then
    let s1 := modTruss s t fun e => { e with victims := setAt e.victims (e.victims.idxOf tag) fun _ => none }
    modCtx s1 ctx fun x => { x with lease := { x.lease with lostLoc := x.lease.lostLoc + 1, h := x.lease.h + 1 } }
  else s

/-- A line of the Truss-shared cache was touched by a context: the number of its course goes with it (R391). -/
def ownLine (s : State) (core line ctx : Nat) : State :=
  if (getTruss s (trussOf core)).lines.any fun l => l.line == line then
    modTruss s (trussOf core) fun e =>
      { e with lines := e.lines.map fun l => if l.line = line then { l with owner := courseTag s ctx } else l }
  else s

/-- A global access of a lane counts for its course (R389, R391), and it is the last that touched its line of the
Truss-shared cache. -/
def touch (s : State) (ctx core : Nat) (va : DWord) (pa : Nat) : State :=
  let line := pa / lineBytes
  match (getCtx s ctx).kind with
  | .course =>
    let s1 := modCtx s ctx fun x => { x with lease := { x.lease with filter := addNum x.lease.filter (touchBit va) } }
    ownLine (findVictim s1 ctx (trussOf core) line) core line ctx
  | .strand => if coreKind core = .dcore then ownLine s core line ctx else s
  | .gable => s

/-- The estimate at a deactivation (R390), in 20 bits. -/
def leaseEnd (l : LeaseRec) : LeaseRec :=
  let est := Nat.min ((l.est + scaled l.filter.length) / 2 + l.h) (2 ^ 20 - 1)
  if l.decl then { l with h := 0 } else { l with est, lines := est, h := 0 }

/-- TLCAP of a Truss (R392). -/
def trussCap (s : State) (t : Nat) : Nat :=
  let v := lcarve s (t * 64)
  1024 * (lcStash v + if trussShared s t then lcCache v else 0)

/-- The courses of a Truss that are active. -/
def activeCourses (s : State) (t : Nat) : List (Nat × Ctx) :=
  s.ctxs.filter fun e => e.2.alive && e.2.kind == .course && trussOf e.2.core == t && e.2.slot.isSome
/-- TLSUM (R392). -/
def trussSum (s : State) (t : Nat) : Nat := (activeCourses s t).foldl (fun n e => n + e.2.lease.lines) 0
/-- The admission limit (R392). -/
def admitLimit (s : State) (t : Nat) : Nat := trussCap s t * (8 + fld (trussReg s t 0x193) 0 3) / 8

end Sys2Proof.Machine
end

