-- ==== Sys2Proof/Machine/Trace.lean ====
section
/-! DEFINITION. Trace records, the bezel selection, stops and the replay log (R264 to R283). -/

namespace Sys2Proof.Machine

open Sys2Proof

/-! ## Sinks (R267 to R269, R469, R486) -/

/-- Bytes placed in a ring of physical memory. -/
def ringPut (s : State) (base size off : Nat) : List Byte → State
  | [] => s
  | b :: t => ringPut (storeHome s (base + off % size) [b]) base size (off + 1) t

/-- A ring with n more bytes does not reach its reader. -/
def ringFits (size head tail n : Nat) : Bool := (head + size - tail % size) % size + n < size

/-- A record goes to the die's trace region; none where it would reach TRTAIL (R469). -/
def dieSink (s : State) (die : Nat) (rec : List Byte) : Option State :=
  let r := dieReg s die 0x1F2
  let size := 2 ^ fld r 0 5
  let head := fld (dieReg s die 0x1F3) 0 32
  if ringFits size head (fld (dieReg s die 0x1F4) 0 32) rec.length then
    let s1 := ringPut s (fld r 16 36 * 65536) size head rec
    some (setDieReg s1 die 0x1F3 (BitVec.ofNat 64 ((head + rec.length) % size)))
  else none

/-- The physical address of a host physical address in the host range of a package (R474). -/
def hostPa (pkg hpa : Nat) : Nat := pkg * 2 ^ 44 + 0xC0000000000 + hpa

/-- A record goes to the host's trace stream; none where the host takes none, or it would reach HTTAIL (R486). -/
def hostSink (s : State) (pkg : Nat) (rec : List Byte) : Option State :=
  let ctl := pkgReg s pkg 0x60
  let size := 2 ^ fld ctl 0 5
  let head := fld (pkgReg s pkg 0x64) 0 32
  if ctl.getLsbD 31 && ringFits size head (fld (pkgReg s pkg 0x68) 0 32) rec.length then
    let s1 := ringPut s (hostPa pkg (pkgReg s pkg 0x58).toNat) size head rec
    some (setPkgReg s1 pkg 0x64 (BitVec.ofNat 64 ((head + rec.length) % size)))
  else none

/-! ## Records (R264, R265) -/

def traceOn (s : State) (core : Nat) : Bool := (coreReg s core 0x153).getLsbD 31

/-- The 16 header bytes of a record. -/
def recHeader (s : State) (core type len : Nat) (lost : Bool) (x : Ctx) : List Byte :=
  let crs := !isStrand x
  leBytes 4 (type * 2 ^ 28 + len % 64 * 2 ^ 22 + (if lost then 2 ^ 21 else 0) + (if crs then 2 ^ 20 else 0)
      + (if crs then x.num % 1024 * 2 ^ 10 else 0) + x.slot.getD 0 % 16 * 64 + (if ctxForm x == .w then 32 else 0))
    ++ leBytes 4 (nodeId s core) ++ leBytes 4 (cstamp s core).toNat ++ leBytes 4 (cycOf s core)

/-- A core writes a record about a context: its sink takes it, or it is dropped and counted (R268). -/
def writeRecord (s : State) (core type : Nat) (x : Ctx) (body : List Byte) : State :=
  if !traceOn s core then s
  else
    let c := getCore s core
    let body := body ++ List.replicate ((16 - body.length % 16) % 16) 0
    let rec_ := recHeader s core type (body.length / 16 + 1) c.bezel.lost x ++ body
    let sink := if fld (coreReg s core 0x153) 29 2 = 0 then dieSink s (dieOf core) rec_ else hostSink s (pkgOf core) rec_
    match sink with
    | some s1 => modCore s1 core fun c => { c with bezel := { c.bezel with lost := false } }
    | none => modCore (setCoreReg s core 0x154 (countSat (coreReg s core 0x154))) core fun c =>
        { c with bezel := { c.bezel with lost := true } }

/-- The interval counters of a slot: instructions, lease at its start, rotations issued, on memory, on message. -/
def slotCounts (s : State) (core slot : Nat) : List Nat := tget [0, 0, 0, 0, 0] (getCore s core).bezel.counts slot
def setSlotCounts (s : State) (core slot : Nat) (l : List Nat) : State :=
  modCore s core fun c => { c with bezel := { c.bezel with counts := tset [0, 0, 0, 0, 0] c.bezel.counts slot l } }
/-- One more in a counter of a slot. -/
def countSlot (s : State) (core slot k : Nat) : State :=
  setSlotCounts s core slot (setAt (slotCounts s core slot) k (· + 1))

/-- The instruction that a context issues now ends its interval: its rotation is classed issued before the summary, and
the instruction is counted where it is complete (R265). -/
def countLast (s : State) (ctx : Nat) : State :=
  let x := getCtx s ctx
  match x.slot with
  | none => s
  | some k =>
    if s.ev.isSome || s.cur.ctx != ctx || s.cur.lanes.isEmpty || s.cur.counted then s
    else
      let s1 := if headCore x (s.cur.lanes.headD 0) = x.core then countSlot s x.core k 2 else s
      let s2 := if s.cur.done then countSlot s1 x.core k 0 else s1
      { s2 with cur := { s2.cur with counted := true } }

/-- A summary record, with the counts of its interval (R265, R271): the lost-locality events and the lease refusals are
reported and then cleared. -/
def writeSummary (s : State) (ctx end_ : Nat) (n : List Nat) : State :=
  let x := getCtx s ctx
  if traceOn s x.core then
    let s1 := writeRecord s x.core 3 x
      (leBytes 4 (getAt 0 n 0) ++ leBytes 4 (if isStrand x then 0 else getAt 0 n 1)
        ++ leBytes 4 (if isStrand x then 0 else x.lease.lostLoc) ++ leBytes 4 (if isStrand x then 0 else x.lease.refusals)
        ++ leBytes 4 (getAt 0 n 2) ++ leBytes 4 (getAt 0 n 3) ++ leBytes 4 (getAt 0 n 4) ++ leBytes 4 end_)
    modCtx s1 ctx fun y => { y with lease := { y.lease with lostLoc := 0, refusals := 0 } }
  else s

/-- A context's interval ends (R266): the summary record, unless its slot is the selected one or slot 0, and new counters. -/
def summary (s : State) (ctx end_ : Nat) : State :=
  let x := getCtx s ctx
  let core := x.core
  match x.slot with
  | none => s
  | some slot =>
    let n := slotCounts s core slot
    let fresh := setSlotCounts s core slot [0, if isStrand x then 0 else x.lease.lines, 0, 0, 0]
    let fresh := modCore fresh core fun c => { c with bezel := { c.bezel with since := tset 0 c.bezel.since slot 0 } }
    if slot = 0 ∨ (getCore s core).bezel.selected = some slot then fresh else writeSummary fresh ctx end_ n

/-! ## Selecting the detailed slot (R270) -/

/-- A context meets every enabled condition of a core's comparators. -/
def bezelMatch (s : State) (core : Nat) (ctx : Nat) (x : Ctx) : Bool :=
  let z := coreReg s core 0x150
  let crs := coreReg s core 0x151
  let bnd := coreReg s core 0x152
  let k := coreReg s core (0x110 + fld z 24 3)
  (z.getLsbD 29 || z.getLsbD 28 || z.getLsbD 27)
    && (!z.getLsbD 29 || (!isStrand x && !x.split && Nat.land (Nat.xor x.num (fld crs 0 10)) (fld crs 16 10) == 0))
    && (!z.getLsbD 28 || (x.task.toNat == fld bnd 0 24 && x.bundle == fld bnd 32 32))
    && (!z.getLsbD 27 || (k.getLsbD 30 && (if k.getLsbD 26 then !isStrand x && x.num == fld k 16 10
          else some (fld k 16 4) == x.slot && boundAt s core (fld k 16 4) == some ctx)))

/-- The cores on which a selection of a context counts. -/
def selectCores (x : Ctx) (core : Nat) : List Nat :=
  if x.kind == .course && !x.split then (List.range x.lanes.length).map (x.core + ·) else [core]

/-- The slot that a core's comparators would select. -/
def bezelPick (s : State) (core : Nat) : Option Nat :=
  let z := coreReg s core 0x150
  if !z.getLsbD 31 then none
  else if z.getLsbD 30 then
    let slot := fld z 16 4
    match boundAt s core slot with
    | none => if (getCore s core).bezel.selected.isNone then some slot else none
    | some c =>
      if (selectCores (getCtx s c) core).all fun k => (getCore s k).bezel.selected.isNone then some slot else none
  else (List.range 16).find? fun slot =>
    match boundAt s core slot with
    | none => false
    | some c =>
      let x := getCtx s c
      bezelMatch s core c x && (selectCores x core).all fun k => (getCore s k).bezel.selected.isNone

/-- Selects or ends the selection of a slot. -/
def setSelected (s : State) (core : Nat) (v : Option Nat) : State :=
  modCore s core fun c => { c with bezel := { c.bezel with selected := v } }

/-- A context leaves its slot on its cores: a selection of it ends there, and the core selects again. -/
def dropSelection (s : State) (x : Ctx) : State :=
  (List.range (ctxWidth x)).foldl (fun z k =>
    if (getCore z (x.core + k)).bezel.selected = x.slot then setSelected z (x.core + k) none else z) s

/-! ## Stops (R278) -/

/-- IPEND bit DBG on the keeper that debugs a context. -/
def debugCore (x : Ctx) (lane : Nat) : Nat :=
  match x.kind with
  | .course => trussOf x.core * 64
  | _ => laneCore x lane

/-- Sets a bit of IPEND; a source that is pending already keeps its age (R243, R248). -/
def raiseIpend (s : State) (core bit : Nat) : State :=
  let s1 := if (coreReg s core 0x141).getLsbD bit then s
            else modCore s core fun c => { c with irqAt := tset 0 c.irqAt bit s.free }
  setCoreReg s1 core 0x141 (setFld (coreReg s core 0x141) bit 1 1)

/-- STOPPED of DBGSTAT follows lanes of a context, on their cores (R279). -/
def markStopped (s : State) (x : Ctx) (lanes : List Nat) (on : Bool) : State :=
  match x.slot with
  | none => s
  | some k => (lanes.map (laneCore x)).dedup.foldl (fun z e =>
      setCoreReg z e 0x157 (setFld (coreReg z e 0x157) k 1 (if on then 1 else 0))) s

/-- The stopped lanes of a context. -/
def stoppedLanes (x : Ctx) : List Nat := (allLanes x).filter fun l => (getLane x l).stopped

/-- The lanes that stop with a lane: all of a course that is not split. -/
def stopGroup (x : Ctx) (lanes : List Nat) : List Nat := if x.split || isStrand x then lanes else allLanes x

/-- Steps 3 and 4 of a stop (R278): DBGSTAT, the stop record, and the keeper's IPEND. -/
def finishStop (s : State) (ctx : Nat) (lanes : List Nat) (cause : Nat) (mask : Word) : State :=
  let x := getCtx s ctx
  let lane := lanes.headD 0
  let slot := x.slot.getD 0
  let s2 := ((stopGroup x lanes).map (laneCore x)).dedup.foldl (fun z k =>
    let d := coreReg z k 0x157
    setCoreReg z k 0x157 (setFld (setFld (setFld d slot 1 1) 16 4 slot) 20 4 cause)) s
  let s3 := writeRecord s2 x.core 5 x
    (leBytes 8 (getLane x lane).pc.toNat ++ leBytes 4 mask.toNat ++ leBytes 4 cause)
  let s4 := if isStrand x then summary s3 ctx 7 else s3
  raiseIpend s4 (debugCore x lane) 3

/-- Lanes have queue entries in flight (R23). -/
def lanesBusy (x : Ctx) (lanes : List Nat) : Bool :=
  lanes.any fun l => (getLane x l).queues.any fun q => q.2.inflight != 0

/-- Lanes of a context stop with a cause; `mask` is what the record shows. The stop is complete once their queues have
nothing in flight (R278). -/
def stopLanes (s : State) (ctx : Nat) (lanes : List Nat) (cause : Nat) (mask : Word) : State :=
  let x := getCtx s ctx
  let ls := stopGroup x lanes
  let s1 := modCtx s ctx fun y => modLanes y ls fun _ a =>
    { a with stopped := true, stepping := false, haltReq := false }
  if lanesBusy x ls then modCtx s1 ctx fun y => { y with stopping := y.stopping ++ [(lanes, cause, mask)] }
  else finishStop s1 ctx lanes cause mask

/-- Stops that waited for queue entries are complete once their lanes have none in flight. -/
def settleStops (s : State) (ctx : Nat) : State :=
  let x := getCtx s ctx
  let open_ (e : List Nat × Nat × Word) : Bool := lanesBusy x (stopGroup x e.1)
  match x.stopping.filter fun e => !open_ e with
  | [] => s
  | es => es.foldl (fun z e => finishStop z ctx e.1 e.2.1 e.2.2) (setCtx s ctx { x with stopping := x.stopping.filter open_ })

/-- The lanes whose stop is complete. -/
def settledLanes (x : Ctx) : List Nat := (stoppedLanes x).filter fun l => !x.stopping.any fun e => (stopGroup x e.1).contains l

/-- The issuing context stops at its instruction. -/
def stopCtx (s : State) (cause : Nat) (mask : Word) : State := stopLanes s s.cur.ctx s.cur.lanes cause mask

/-! ## The replay log (R281 to R283) -/

/-- The log of a core takes inputs: EN = 1, MODE = 0, OVF = 0. -/
def logOn (s : State) (core : Nat) : Bool :=
  let v := coreReg s core 0x15D
  v.getLsbD 31 && !v.getLsbD 27 && !v.getLsbD 30

/-- The SRAM offset of the log (R281). -/
def logBase (s : State) (core : Nat) : Nat := scratchBase s core + scratchSize s core - 16384

/-- Bytes placed in the log of a core from an offset on. -/
def logPut (s : State) (core off : Nat) : List Byte → State
  | [] => s
  | b :: t => logPut (sramPut s core (logBase s core + off % 16384) b) core (off + 1) t

/-- One input of a slot makes an entry (R282, R283). -/
def logInput (s : State) (core kind slot lane cls icnt : Nat) (pc : DWord) (data : List Byte) : State :=
  if !logOn s core then s
  else
    let data := data ++ List.replicate ((16 - data.length % 16) % 16) 0
    let units := data.length / 16 + 1
    let head := fld (coreReg s core 0x15E) 0 14
    if ringFits 16384 head (fld (coreReg s core 0x15F) 0 14) (16 * units) then
      let e := leBytes 4 (kind * 2 ^ 28 + slot % 16 * 2 ^ 24 + units * 2 ^ 18 + lane % 32 * 2 ^ 13 + cls % 8 * 1024)
        ++ leBytes 4 icnt ++ leBytes 4 (cstamp s core).toNat ++ leBytes 4 pc.toNat ++ data
      setCoreReg (logPut s core head e) core 0x15E (BitVec.ofNat 64 ((head + 16 * units) % 16384))
    else setCoreReg s core 0x15D (setFld (coreReg s core 0x15D) 30 1 1)

/-- An input of a lane of a context, for its instruction at `pc`; the keeper's are not logged. -/
def logLane (s : State) (ctx : Nat) (pc : DWord) (kind lane : Nat) (data : List Byte) : State :=
  let x := getCtx s ctx
  if isKeeper x then s
  else logInput s (laneCore x lane) kind (x.slot.getD 0) lane 0 (getLane x lane).replay pc data

/-- LD data from a page that is not strand-private is an input while LDATA = 1 (R282). -/
def ldLogged (s : State) (core attr : Nat) : Bool := (coreReg s core 0x15D).getLsbD 29 && attr != 3
/-- The same for the data of a queue load, while QDATA = 1. -/
def ldqLogged (s : State) (core attr : Nat) : Bool := (coreReg s core 0x15D).getLsbD 28 && attr != 3

/-- The old values of atomics, and the data of LD where it is logged (R282). -/
def logAccess (s : State) (ctx : Nat) (pc : DWord) (op : MemOp) (accs : List LaneAcc) (vals : List (Nat × Nat)) : State :=
  let one (z : State) (v : Nat × Nat) : State :=
    match op with
    | .atom _ _ | .cas _ | .afn _ _ => logLane z ctx pc 2 v.1 (leBytes 8 v.2)
    | .load sz =>
      if accs.any fun a => a.lane == v.1 && ldLogged z (laneCore (getCtx z ctx) v.1) a.attr then
        logLane z ctx pc 3 v.1 (leBytes (match sz with | .w128 => 32 | _ => isizeBytes sz) v.2)
      else z
    | _ => z
  vals.foldl one s

/-! ## Re-execution from a log (R284) -/

/-- A context is re-executed: MODE = 1 on its core, and its slot is SLOT. -/
def replays (s : State) (x : Ctx) : Bool :=
  let v := coreReg s x.core 0x15D
  isStrand x && !isKeeper x && v.getLsbD 31 && v.getLsbD 27 && x.slot == some (fld v 16 4)

/-- The issuing context is re-executed: its effects on other agents are left out. -/
def muted (s : State) : Bool := replays s (curCtx s)

/-- An entry of a log; `next` is the offset after it. -/
structure LogEnt where
  kind : Nat
  slot : Nat
  next : Nat
  cls  : Nat
  icnt : Nat
  pc   : Nat
  data : List Byte
  deriving DecidableEq, Repr

/-- The first entry of a slot from an offset on; none where the log is exhausted: a header with LEN 0, or the end of the
region (log 30). -/
def logFrom (s : State) (core slot : Nat) : Nat → Nat → Option LogEnt
  | 0, _ => none
  | fuel + 1, off =>
    if 16384 ≤ off then none
    else
      let at_ := logBase s core + off
      let w0 := leNat (sramBytes s core at_ 4)
      let units := w0 / 2 ^ 18 % 64
      if units = 0 ∨ 16384 < off + 16 * units then none
      else if w0 / 2 ^ 24 % 16 ≠ slot then logFrom s core slot fuel (off + 16 * units)
      else some { kind := w0 / 2 ^ 28, slot, next := off + 16 * units, cls := w0 / 1024 % 8,
                  icnt := leNat (sramBytes s core (at_ + 4) 4), pc := leNat (sramBytes s core (at_ + 12) 4),
                  data := sramBytes s core (at_ + 16) (16 * (units - 1)) }

/-- The next entry at RPTAIL of the slot that is re-executed. -/
def logEntry (s : State) (core : Nat) : Option LogEnt :=
  logFrom s core (fld (coreReg s core 0x15D) 16 4) 1024 (fld (coreReg s core 0x15F) 0 32)

/-- RPTAIL moves past an entry. -/
def logSkip (s : State) (core : Nat) (e : LogEnt) : State := setCoreReg s core 0x15F (BitVec.ofNat 64 (e.next % 16384))

/-- The issuing lane's instruction takes its input of a kind from the log: the data, or none where the entry does not
match. -/
def replayTake (s : State) (kind : Nat) : Option (State × List Byte) :=
  let core := (curCtx s).core
  match logEntry s core with
  | some e =>
    let pc := (curLane s (s.cur.lanes.headD 0)).pc
    if e.kind = kind ∧ e.pc = pc.toNat % 2 ^ 32 then some (logSkip s core e, e.data) else none
  | none => none

/-- The re-executed context stops: 8 where the log differs, 9 where it ends. -/
def replayStop (s : State) : Out :=
  .next (stopCtx s (if (logEntry s (curCtx s).core).isNone then 9 else 8) 1)

end Sys2Proof.Machine
end

