-- ==== Sys2Proof/Machine/Ops.lean ====
section
/-! DEFINITION. The operations that the meanings share: completing an instruction, control transfers, the split of a
course, taking a trap, and the return from it (R107 to R114, R234 to R243, R290 to R294). -/

namespace Sys2Proof.Machine

open Sys2Proof

/-! ## Completing -/

/-- The extra rotations of R183 on a D-core or Eave core. -/
def holdRot : Instr → Nat
  | .mul .w64 _ | .mulh .w64 _ | .mulhn .w64 _ | .mulw .w64 _ => 1
  | .div w _ | .divn w _ | .rem w _ | .remn w _ => match w with | .w32 => 2 | .w64 => 4
  | .fadd .f64 _ | .fsub .f64 _ | .fmul .f64 _ | .fma .f64 _ | .fnma .f64 _ | .fmin .f64 _ | .fmax .f64 _ => 1
  | .cvt a b _ => if a = .f64 ∨ b = .f64 then 1 else 0
  | .cvti n t _ | .cvtf n t _ => if n = .w64 ∨ t = .f64 then 1 else 0
  | .fdiv t _ | .fsqrt t _ | .frcp t _ | .frsq t _ =>
    match t with | .f64 => 3 | .f16x2 | .bf16x2 => 2 | _ => 1
  | .fexp2 t _ | .flog2 t _ | .fsin t _ | .fcos t _ => match t with | .f16x2 | .bf16x2 => 2 | _ => 1
  | _ => 0

/-- The address of the instruction that the issuer runs. -/
def curPc (s : State) : DWord := (curLane s (s.cur.lanes.headD 0)).pc
/-- The address of the next instruction in fall-through order (R50). -/
def nextPc (i : Instr) (s : State) : DWord := canonPc (curPc s + BitVec.ofNat 64 (instrLen i))
/-- The address of the word that a class-J offset counts from (R53, R66): the base word. -/
def baseAddr (i : Instr) (s : State) : DWord :=
  curPc s + BitVec.ofNat 64 (match i.opnds.form with | .k => instrLen i - 2 | .w => 0)
/-- The bytes of one unit of a class-J offset (R66). -/
def jUnit (f : Form) : DWord := match f with | .k => 2 | .w => 4
/-- The target of a class-J instruction (R53, R66). -/
def jTarget (i : Instr) (s : State) : DWord := baseAddr i s + jUnit i.opnds.form * i.opnds.imm

/-- One annul count less in a lane that annuls the instruction (R107). -/
def stepAnnul (a : Lane) : Lane := { a with annul := a.annul - 1 }

/-- The lanes whose copy of the pc moves with the issuer: every lane of a course that is not split, else the issuing
lanes. -/
def pcLanes (s : State) : List Nat :=
  let x := curCtx s
  if x.split || isStrand x then s.cur.lanes else allLanes x

/-- The issuer's pc moves to `pc`, and its annulled lanes count down. -/
def moveTo (s : State) (pc : DWord) : State :=
  let ls := s.cur.lanes
  let ps := pcLanes s
  modCtx s s.cur.ctx fun x =>
    modLanes (modLanes x ls fun _ a => stepAnnul a) ps fun _ a => { a with pc, wait := .none }

/-- The instruction is complete: the issuer goes on at the next instruction, and holds its slot for the rotations of
R183. -/
def complete (i : Instr) (s : State) : State :=
  let s1 := moveTo s (nextPc i s)
  let h := if coreKind (curCtx s).core = .lcore then 0 else holdRot i
  let s2 := if h = 0 then s1 else modCtx s1 s.cur.ctx fun x => modLanes x s.cur.lanes fun _ a => { a with hold := h }
  { s2 with cur := { s2.cur with done := true } }

/-- The instruction waits: its lanes carry the wait, and it has not completed. -/
def waitAt (s : State) (w : Wait) : State :=
  modCtx s s.cur.ctx fun x => modLanes x s.cur.lanes fun _ a => { a with wait := w }

/-- The instruction waits in the lanes that execute it; those that annul it go past it. -/
def waitExec (i : Instr) (s : State) (w : Wait) : State :=
  let pc := nextPc i s
  modCtx s s.cur.ctx fun x => modLanes x s.cur.lanes fun _ a =>
    if a.annul = 0 then { a with wait := w } else { stepAnnul a with pc }

/-- The instruction cannot complete yet and issues again. -/
def retry (s : State) : Out := .next (waitAt s .retry)

/-! ## Splitting a course (R293, R294) -/

/-- The highest mark-stack entry whose MASK holds a lane, with its index; the stack has its top first. -/
def markOf (ms : List Mark) (l : Nat) : Option (Nat × Mark) :=
  match ms with
  | [] => none
  | m :: t => if inMask m.mask l then some (t.length, m) else markOf t l

/-- Where a lane that is not active starts its split run (R294). -/
def splitLane (ms : List Mark) (trapRule : Bool) (l : Nat) (a : Lane) : Lane :=
  let a := { a with status := stSetHdc a.status 0 }
  if !a.live then a
  else if a.actv then { a with depth := if trapRule then 0 else ms.length }
  else
    match markOf ms l with
    | none => { a with actv := true }
    | some (e, m) =>
      { a with actv := true, depth := e + 1, pc := if inMask m.dmask l then m.dpc else m.rj, wait := .none }

/-- The course splits (R293): `next` is the fall-through successor of the faulting instruction, for cause 3. -/
def splitCourse (s : State) (c : Nat) (cause : Nat) (isTransfer : Bool) (next : DWord) : State :=
  modCtx s c fun x =>
    let trapRule := x.marks.isEmpty && cause == 3 && !isTransfer
    let x' := { x with lanes := x.lanes.mapIdx fun l a => splitLane x.marks trapRule l a }
    match x.marks.reverse with
    | e0 :: _ =>
      { x' with split := true, cause, srj := e0.rj, rd := 1, rjv := true, marks := [{ e0 with dmask := 0, dpc := 0 }] }
    | [] =>
      if trapRule then { x' with split := true, cause, srj := next, rd := 0, rjv := true }
      else { x' with split := true, cause, rjv := false, rd := 0 }

/-- An instruction that is a control transfer (R110, R293). -/
def isTransfer : Instr → Bool
  | .br _ | .brW _ | .jmp _ | .call _ | .calli _ | .ret _ | .yldCc _ => true
  | _ => false

/-! ## Activity of courses (R393) -/

/-- The Truss cycle (R180). -/
def trussCycle (s : State) (truss : Nat) : Nat := cycOf s (truss * 64)

/-- A context's queues have an entry in flight (R23). -/
def queuesBusy (x : Ctx) : Bool := x.lanes.any fun a => a.queues.any fun q => q.2.inflight != 0

/-- A resident course becomes ready, which is an opportunity (R393, R394). -/
def becomeReady (s : State) (c : Nat) : State :=
  let x := getCtx s c
  match x.kind with
  | .course =>
    if x.slot.isSome then s
    else pushDue (setCtx s c { x with readyAt := trussCycle s (trussOf x.core), skip := 0 })
      [.courseActivation (trussOf x.core)]
  | _ => s

/-- Engine entries of a pre-empted context that have not started are deferred; at its resume they count again
(R336, R337, log 29). -/
def deferEntries (s : State) (c : Nat) (on : Bool) : State :=
  let mark (l : List QEnt) : List QEnt := l.map fun e => if e.ctx = c ∧ e.started = false then { e with parked := on } else e
  let x := getCtx s c
  let cores := (List.range (ctxWidth x)).map (x.core + ·)
  let s1 := modTruss s (trussOf x.core) fun t => { t with matrix := mark t.matrix, gather := mark t.gather }
  cores.foldl (fun z k => modCore z k fun e => { e with slice := mark e.slice }) s1

/-- The core whose PRECTL asked for a context (R250). -/
def preCore (x : Ctx) : Nat := match x.kind with | .course => trussOf x.core * 64 | _ => x.core

/-- A pre-emption request ends (R250): DONE, and NONE where it found no context. -/
def preDone (s : State) (core : Nat) (none : Bool) : State :=
  setCoreReg s core 0x144 (setFld (setFld (setFld (coreReg s core 0x144) 31 1 0) 30 1 1) 29 1 (if none then 1 else 0))

/-- A SPIN in progress ends (R207). -/
def endSpin (a : Lane) : Lane := match a.wait with | .spin _ => { a with wait := .woken 0 } | _ => a

/-- A course waits in SPIN. -/
def spinning (x : Ctx) : Bool := x.lanes.any fun a => match a.wait with | .spin _ => true | _ => false

/-- The ready time of a course is now, and no activation has passed it over since (R393, R395). -/
def startWait (s : State) (x : Ctx) (now : Bool) : Ctx :=
  if now then { x with readyAt := trussCycle s (trussOf x.core), skip := 0 } else x

/-- A pre-emption ends the wait of a lane whose instruction runs again after the resume: a SPIN completes (R207), and a QUIT
that holds at a full exit queue has not taken effect (R254). -/
def leaveWait (a : Lane) : Lane := match a.wait with | .quit _ => { a with wait := .none } | _ => endSpin a

/-- One half of a pair has reached a deactivation point: the other leaves its slot at its own next boundary, split or not
(R500). -/
def tellMate (s : State) (x : Ctx) (end_ : Nat) : State :=
  match x.mate with
  | some m =>
    let y := getCtx s m
    if end_ ≠ 3 ∧ y.alive = true ∧ y.slot.isSome = true ∧ y.displace = 0 ∧ y.leaving = 0 then setCtx s m { y with displace := end_ } else s
  | none => s

/-- A context leaves its slot, with the END of its summary: 1 deactivation, 2 displacement, 3 pre-emption (R23, R250,
R266, R390, R393). The other half of a pair follows at its next boundary (R500). On an L-core its registers stay in place,
and a deactivated course keeps its context. -/
def leaveSlot (s : State) (c end_ : Nat) : State :=
  let x := getCtx s c
  let s1 := markStopped (summary (countLast s c) c end_) x (stoppedLanes x) false
  let s2 := tellMate (dropSelection s1 (getCtx s1 c)) x end_
  let y := { getCtx s2 c with leaving := 0, preempt := false, displace := 0 }
  if end_ = 3 then
    let y := { modAllLanes y fun a => { leaveWait a with inst := none } with held := true }
    let y := if x.kind == .gable then y else { y with slot := none, last := y.slot, left := y.slot, rebound := [] }
    let s3 := deferEntries (setCtx s2 c y) c true
    let s3 := modCore s3 (preCore x) fun k => { k with exitWait := k.exitWait.filter fun e => e.1 != c }
    let s4 := if x.kind == .course then pushDue s3 [.courseActivation (trussOf x.core)] else s3
    if (x.mate.map fun m => (getCtx s4 m).preempt) = some true then s4 else preDone s4 (preCore x) false
  else
    match x.kind with
    | .course =>
      let s3 := setCtx s2 c (startWait s2 { y with slot := none, last := y.slot, lease := leaseEnd y.lease } (y.split || !spinning y))
      pushDue s3 [.courseActivation (trussOf x.core)]
    | _ => setCtx s2 c y

/-- A context starts to leave its slot: it is gone once its queues have nothing in flight (R23). The ready time of a
course that spins is the cycle at which its SPIN began to wait (R393). -/
def startLeave (s : State) (c end_ : Nat) : State :=
  let x := getCtx s c
  let s1 := if x.kind == .course && spinning x && end_ == 1 then setCtx s c (startWait s x true) else s
  if queuesBusy x then modCtx (tellMate s1 x end_) c fun y => { y with leaving := end_ } else leaveSlot s1 c end_

/-- A context starts to leave its slot, unless it is a split course that deactivates, or a strand that is not pre-empted. -/
def deactivate (s : State) (c end_ : Nat) : State :=
  let x := getCtx s c
  if (x.split && end_ == 1) || (isStrand x && end_ != 3) then s else startLeave s c end_

/-- After a queue entry has settled, a stop may be complete, and a leaving context may go; one that REAP ends waits for it
(R202, R278). -/
def settleLeave (s0 : State) (c : Nat) : State :=
  let s := settleStops s0 c
  let x := getCtx s c
  if x.leaving != 0 && x.leaving != 5 && !queuesBusy x then leaveSlot s c x.leaving else s

/-! ## Host-assisted page faults (R433) -/

/-- What a faulting access was for: 1 read, 2 write, 3 atomic, 4 fetch. -/
def faultKind (i : Instr) (t : TrapInfo) : Nat :=
  if t.vector = 4 then 4
  else
    match i with
    | .atom _ _ _ | .red _ _ _ | .cas _ _ | .afn _ _ _ => 3
    | .st _ _ | .stq _ _ | .fput _ | .mstc _ _ => 2
    | _ => 1

/-- XLCTL.PFHA of the die of a core (R433). -/
def hostAssist (s : State) (core : Nat) : Bool := (tget 0 (getDie s (dieOf core)).sys 0x1F0).getLsbD 0

/-- The fault is parked instead of entered. -/
def parks (s : State) (core : Nat) (status : DWord) (t : TrapInfo) : Bool :=
  (t.vector == 10 || t.vector == 4) && t.reason == 1 && !stPriv status && hostAssist s core

/-- The word that names a context: bit 31 and a course number, or a slot (R205, R433). -/
def targetWord (x : Ctx) : Nat :=
  match x.kind with
  | .course => 2 ^ 31 + x.num * 65536
  | _ => x.slot.getD 0

/-- Parks lanes of a context and tells the host. -/
def parkLanes (i : Instr) (s : State) (c : Nat) (lanes : List Nat) (t : TrapInfo) (tpc : DWord) : State :=
  let x := getCtx s c
  let whole := !x.split && !isStrand x
  let s1 := modCtx s c fun y =>
    modLanes y (if whole then allLanes y else lanes) fun _ a => { a with wait := .parked t }
  let send (z : State) (l : Nat) : State :=
    let core := if whole then x.core else laneCore x l
    postNote z core (hostProxyKey (pkgOf core)) 4
      (leBytes 4 (nodeId s core) ++ leBytes 4 (targetWord x + (if x.kind == .course then x.slot.getD 0 else 0))
        ++ leBytes 8 t.addr.toNat ++ leBytes 8 tpc.toNat
        ++ leBytes 4 (if whole then t.mask.toNat else 2 ^ l)
        ++ leBytes 4 (x.task.toNat + faultKind i t * 2 ^ 24)
        ++ leBytes 8 (getLane x l).ttb.toNat)
  if whole then deactivate (send s1 (lanes.headD 0)) c 1 else lanes.foldl send s1

/-! ## Traps (R234 to R243) -/

/-- TCAUSE (R240). -/
def tcauseOf (t : TrapInfo) (noeq : Bool) (form : Form) : DWord :=
  t.info ++ ((0 : BitVec 13) ++ BitVec.ofBool noeq ++ BitVec.ofBool t.async ++ BitVec.ofBool (form == .w)
    ++ BitVec.ofNat 8 t.reason ++ BitVec.ofNat 8 t.vector)

/-- TEQ: the last point, and the instructions since it (R239). -/
def teqOf (a : Lane) : DWord :=
  BitVec.ofNat 32 (Nat.min a.icnt 0xFFFFFFFF) ++ BitVec.ofNat 32 (a.point % 4096)

/-- TVEC of the core that a lane takes its traps on. -/
def tvecOf (s : State) (core : Nat) : DWord := tget 0 (getCore s core).sys 0x140

/-- Trap entry in one lane (R236). -/
def enterLane (form : Form) (tvec : DWord) (t : TrapInfo) (tpc epc : DWord) (a : Lane) : Lane :=
  { a with tcause := tcauseOf t a.noeq form, tpc, teq := teqOf a, txpc := if a.noeq then 0 else a.pointOther,
           taddr := t.addr, tmask := t.mask, epc, estatus := a.status, status := stSetPriv a.status,
           pc := canonPc (tvec + BitVec.ofNat 64 (64 * t.vector)), inHandler := true, annulSaved := a.annul, annul := 0,
           wait := .none, hold := 0, passBp := a.passBp && t.async }

/-- Trap entry of a context as a whole: every lane of a course that is not split, else the named lanes (R236, R238); at the TVEC of
the lowest core of a fused course (log 139). -/
def enterTrap (s : State) (c : Nat) (lanes : List Nat) (t : TrapInfo) (tpc epc : DWord) : State :=
  modCtx s c fun x =>
    let form := ctxForm x
    if x.split || isStrand x then
      modLanes x lanes fun l a => enterLane form (tvecOf s (laneCore x l)) { t with mask := maskOf lanes } tpc epc a
    else
      let e := (List.range x.lanes.length).map fun l =>
        let a := getLane x l
        let b := enterLane form (tvecOf s x.core) t tpc epc a
        if a.actv && a.live then b else { b with status := a.status, estatus := a.estatus }
      { x with lanes := e }

/-- The kill request that a package issues for a tag (R256). -/
def killOf (s : State) (pkg : Nat) (tag : BitVec 24) (clear : Bool) : KillReq :=
  { pkg, origin := pkg, seq := (getPkg s pkg).killSeq, tag, clear }

/-- A RAS event of a unit reaches the management processor, and sets IPEND.RAS where the unit is a core (R248, R467). -/
def rasEvent (s : State) (pkg node code : Nat) (core : Option Nat) : State :=
  let s1 := modPkg s pkg fun p => { p with ras := p.ras ++ [(node, code)] }
  match core with
  | some k => raiseIpend s1 k 2
  | none => s1

/-- A trap raised in a handler (R237): the keeper stops for good with a RAS event; any other context's task is killed,
and the notice goes to the context's parent. A kill of tag 0 is ignored (R256), and the instruction issues again (log 57). -/
def doubleFault (s : State) (c : Nat) (lane : Nat) (t : TrapInfo) (tpc : DWord) : State :=
  let x := getCtx s c
  let k := laneCore x lane
  let a := getLane x lane
  if isKeeper x then
    rasEvent (modCore s k fun e => { e with dead := true }) (pkgOf k) (nodeId s k) 29 (some k)
  else if x.task = 0 then s
  else
    let n : Notice :=
      { core := k, dst := x.parentNode, task := x.task, vector := 29, reason := t.reason, second := t.vector,
        async := t.async, form := ctxForm x == .w, noeq := a.noeq, tpc, txpc := if a.noeq then 0 else a.pointOther,
        teq := teqOf a, taddr := t.addr, tmask := t.mask }
    let r := { killOf s (pkgOf k) x.task false with note := some n }
    pushDue (modPkg s (pkgOf k) fun p => { p with killSeq := p.killSeq + 1 }) [.killRequestArrival r]

/-- TRAP, SYSC and BRK return to the next instruction (R236). -/
def softVector (v : Nat) : Bool := v == 24 || v == 25 || v == 26

/-- An exact trap of the issuing instruction (R236 to R238): in a course it is entered whole when it names every active
lane that does not annul the instruction; otherwise the course splits and the named lanes enter. -/
def trap (i : Instr) (s : State) (t : TrapInfo) : Out :=
  let c := s.cur.ctx
  let x := curCtx s
  let named := s.cur.lanes.filter fun l => inMask t.mask l
  let exec := execLanes s
  let tpc := curPc s
  let epc := if softVector t.vector then nextPc i s else tpc
  let lane := named.headD (s.cur.lanes.headD 0)
  if (getLane x lane).inHandler then .next (doubleFault s c lane t tpc)
  else
    let s1 := if !x.split && !isStrand x && !exec.all (fun l => inMask t.mask l)
      then splitCourse s c 3 (isTransfer i) (nextPc i s)
      else if softVector t.vector then modCtx s c fun y => modLanes y s.cur.lanes fun _ => stepAnnul else s
    .next (if parks s (laneCore x lane) (getLane x lane).status t then parkLanes i s1 c named t tpc
      else enterTrap s1 c named t tpc epc)

/-- A trap that names every active lane: the illegal-instruction trap and the fetch fault (R75, R77, R108). -/
def trapAll (s : State) (t : TrapInfo) : State :=
  let c := s.cur.ctx
  let tpc := curPc s
  let lane := s.cur.lanes.headD 0
  let t := { t with mask := maskOf s.cur.lanes }
  if (curLane s lane).inHandler then doubleFault s c lane t tpc
  else if parks s (curCore s lane) (curLane s lane).status t then parkLanes (.nop { form := .k }) s c s.cur.lanes t tpc
  else enterTrap s c s.cur.lanes t tpc tpc

/-- A trap that lanes of a context take at their own pc. -/
def trapAt (s : State) (c : Nat) (lanes : List Nat) (t : TrapInfo) : State :=
  lanes.foldl (fun z l =>
    let x := getCtx z c
    let a := getLane x l
    let t := { t with mask := 1 <<< l }
    if a.inHandler then doubleFault z c l t a.pc else enterTrap z c [l] t a.pc a.pc) s

/-- A trap that a whole course that is not split, or a strand, takes at its pc. -/
def trapWhole (s : State) (c : Nat) (t : TrapInfo) : State :=
  let x := getCtx s c
  let ls := actLanes x
  let a := getLane x (ls.headD 0)
  let t := { t with mask := maskOf ls }
  if a.inHandler then doubleFault s c (ls.headD 0) t a.pc else enterTrap s c ls t a.pc a.pc

/-- An exact trap that names every executing lane. -/
def trapExec (i : Instr) (s : State) (vector reason : Nat) (info : Word := 0) (addr : DWord := 0) : Out :=
  trap i s { vector, reason, info, addr, mask := maskOf (execLanes s) }

/-- The privilege trap (vector 2). -/
def privTrap (i : Instr) (s : State) : Out := trapExec i s 2 0

/-- A lane's check that failed, with its address. -/
structure LaneFail where
  lane : Nat
  fail : Fail
  addr : DWord
  info : Word := 0
  deriving DecidableEq, Repr

/-- The lowest vector among failures. -/
def lowVector (l : List LaneFail) : Nat := l.foldl (fun m f => Nat.min m f.fail.vector) 255

/-- Raises the failures of several lanes as one trap (R149, R235): the lowest vector, the lanes that fail with it, and the
address and reason of the lowest of them. -/
def raiseFails (i : Instr) (s : State) (l : List LaneFail) : Out :=
  let v := lowVector l
  match l.filter fun f => f.fail.vector == v with
  | [] => .next s
  | f :: t => trap i s { vector := v, reason := f.fail.reason, info := f.info, addr := f.addr,
                         mask := maskOf ((f :: t).map (·.lane)) }

/-- A target that breaks R10 in a form (R113). -/
def badTarget (f : Form) (t : DWord) : Bool :=
  !canonical t || (match f with | .k => t.getLsbD 0 | .w => t.extractLsb' 0 2 != 0)

/-! ## Control transfer (R113, R114, R291) -/

/-- The distinct addresses of a list of lanes, in the order of their lowest lanes. -/
def groupPcs (ls : List (Nat × DWord)) : List (DWord × List Nat) :=
  ls.foldl (fun acc e =>
    if acc.any fun g => g.1 == e.2 then acc.map fun g => if g.1 == e.2 then (g.1, g.2 ++ [e.1]) else g
    else acc ++ [(e.2, [e.1])]) []

/-- The lanes' next pcs are taken, with what each writes there: one pc for all, two under the top mark, or none where the
course must split first (R291). `next` is where the lanes go that annul the transfer. -/
def landTransfer (s : State) (next : DWord) (tgt : Nat → DWord) (link : Nat → Lane → Lane) : Option State :=
  let x := curCtx s
  let exec := execLanes s
  let dest (l : Nat) : DWord := if exec.contains l then tgt l else next
  let s1 := modCtx s s.cur.ctx fun y => modLanes (modLanes y exec link) s.cur.lanes fun _ a => stepAnnul a
  if x.split || isStrand x then
    some (modCtx s1 s.cur.ctx fun y => modLanes y s.cur.lanes fun l a => { a with pc := dest l, wait := .none })
  else
    match groupPcs (s.cur.lanes.map fun l => (l, dest l)) with
    | [] => some s1
    | [(p, _)] => some (modCtx s1 s.cur.ctx fun y => modAllLanes y fun a => { a with pc := p, wait := .none })
    | [(p1, _), (p2, l2)] =>
      match x.marks with
      | m :: ms =>
        if m.dmask = 0 then
          some (modCtx s1 s.cur.ctx fun y =>
            let y := modAllLanes y fun a => { a with pc := p1, wait := .none }
            let y := modLanes y l2 fun _ a => { a with actv := false }
            { y with marks := { m with dmask := maskOf l2, dpc := p2 } :: ms })
        else none
      | [] => none
    | _ => none

/-- A control transfer: `tgt` is the target of each lane that executes it and `link` what it writes there. A transfer of
a course that gives several next pcs uses the top mark, or splits the course (R291). -/
def transfer (i : Instr) (s : State) (tgt : Nat → DWord) (link : Nat → Lane → Lane) : Out :=
  match (execLanes s).filter fun l => badTarget (ctxForm (curCtx s)) (tgt l) with
  | b :: bs => trap i s { vector := 3, addr := tgt b, mask := maskOf (b :: bs) }
  | [] =>
    match landTransfer s (nextPc i s) tgt link with
    | some z => .next { z with cur := { z.cur with done := true } }
    | none => .next (splitCourse s s.cur.ctx 1 true (nextPc i s))

/-! ## Return from a trap (R243) -/

/-- STATUS as ERET takes it from ESTATUS: reserved bits read 0, FORM stays the strand's, and HDC is 0 where the lane is a
strand of its own (R7, R10, R13, R14, R243). -/
def statusBack (own : Bool) (old saved : DWord) : DWord :=
  saved.extractLsb' 32 32 ++ (0 : Byte) ++ (if own then 0 else saved.extractLsb' 16 8) ++ (0 : BitVec 6)
    ++ saved.extractLsb' 9 1 ++ old.extractLsb' 8 1 ++ saved.extractLsb' 0 8

/-- ERET in the issuing lanes: STATUS comes back, the context leaves the handler at EPC, and annul counts come back. -/
def eret (i : Instr) (s : State) : Out :=
  let x := curCtx s
  let h := execHead s
  let a := getLane x h
  if !curPriv s || !a.inHandler then privTrap i s
  else if badTarget (ctxForm x) a.epc then trapExec i s 3 0 0 a.epc
  else
    let back (a : Lane) : Lane :=
      { a with inHandler := false, pc := a.epc, annul := a.annulSaved, annulSaved := 0, wait := .none,
               status := if a.actv && a.live then statusBack (x.split || isStrand x) a.status a.estatus else a.status }
    let s1 := modCtx s s.cur.ctx fun y => if y.split || isStrand y then modLanes y s.cur.lanes fun _ => back
                                          else modAllLanes y back
    .next { s1 with cur := { s1.cur with done := true } }

end Sys2Proof.Machine
end

