-- ==== Sys2Proof/Machine/Fetch.lean ====
section
/-! DEFINITION. Fetching an instruction's words, and decoding them (R77, R211). -/

namespace Sys2Proof.Machine

open Sys2Proof

/-- Bytes of one code word of a kind of core. -/
def unitBytes (kind : CoreKind) : Nat := match kindForm kind with | .k => 2 | .w => 4

/-- The cores whose cache portions the fetch of a core looks up: its own first, then the members of its VGROUP, or in shared
mode the D-cores of its Truss (R188, R309). -/
def fetchCores (s : State) (core : Nat) : List Nat :=
  let others : List Nat := match coreKind core with
    | .dcore =>
      if trussShared s (trussOf core) then (s.cores.map (·.1)).filter fun k => coreKind k == .dcore && trussOf k == trussOf core
      else groupCores s core
    | _ => []
  core :: others.filter (· != core)

/-- The words that the fetch paths of a core hold for an address, each plus 1: those of the cache portions and of the Truss
code buffer (R188, R211, R373). -/
def heldWords (s : State) (core pa : Nat) : List Nat :=
  let paths := ((fetchCores s core).map fun k => (getCore s k).code)
    ++ (match coreKind core with | .dcore => [(getTruss s (trussOf core)).code] | _ => [])
  (paths.map fun c => tget 0 c pa).filter (· != 0)

/-- Fetches the k-th word of an instruction: a word that a fetch path still holds may stand in for memory's; another package
may refuse the read (R480, log 149). -/
def fetchWord (s : State) (core : Nat) (ttb : DWord) (priv : Bool) (va : DWord) (n k : Nat) :
    Except TrapInfo (State × List Byte) :=
  match translate s core ttb va .fetch priv with
  | .error f => .error { vector := 4, reason := f.reason, addr := va }
  | .ok (p, ws, pa) =>
    match fetchFail p pa with
    | some f => .error { vector := 4, reason := f.reason, addr := va }
    | none =>
      let fresh := memNat s pa n
      let bad := memBad s pa n
      let old := (heldWords s core pa).filter fun h => h != fresh + 1 || bad
      match if old = [] then 0 else choice s (40 + k) % (old.length + 1) with
      | j + 1 => .ok (s, leBytes n (getAt 0 old j - 1))
      | 0 =>
        if bad then .error { vector := 4, reason := 8, addr := va }
        else if !accPasses s (pkgOf core) 0 pa n .fetch then
          .error { vector := 15, reason := remoteReason s (pkgOf core) 0 pa n .fetch, addr := va }
        else
          let s1 := keepPage s core p ws
          .ok (modCore s1 core fun c => { c with code := tset 0 c.code pa (fresh + 1) }, leBytes n fresh)

/-- The address of the word that follows n bytes of an instruction (R10, R77). -/
def wordAt (pc : DWord) (n : Nat) : DWord := canonPc (pc + BitVec.ofNat 64 n)

/-- Fetches and decodes from pc, word by word; `fuel` words at most. The state is that of the fetches made. -/
def fetchInstr (kind : CoreKind) (need core : Nat) (ttb : DWord) (priv : Bool) (pc : DWord) :
    Nat → State → List Byte → State × Except TrapInfo Instr
  | 0, s, _ => (s, .error { vector := 1, reason := 3 })
  | fuel + 1, s, bs =>
    match fetchWord s core ttb priv (wordAt pc bs.length) (unitBytes kind) (bs.length / unitBytes kind) with
    | .error t => (keepWalk s s core ttb (wordAt pc bs.length), .error t)
    | .ok (s1, w) =>
      match decodeNeed kind need (bs ++ w) with
      | .ok i => (s1, .ok i)
      | .error .truncated => fetchInstr kind need core ttb priv pc fuel s1 (bs ++ w)
      | .error e => (s1, .error { vector := 1, reason := decodeErrReason e })

/-- Fetches the issuer's next instruction. -/
def fetchCur (s : State) : State × Except TrapInfo Instr :=
  let x := curCtx s
  let l := s.cur.lanes.headD 0
  let a := getLane x l
  fetchInstr (coreKind x.core) x.need (headCore x l) a.ttb (stPriv a.status) a.pc 6 s []

/-- The instruction that a lane of a context is about to issue, with the address after it; none where the fetch fails. -/
def peekInstr (s : State) (c lane : Nat) : Option (Instr × DWord) :=
  let x := getCtx s c
  let a := getLane x lane
  match (fetchInstr (coreKind x.core) x.need (headCore x lane) a.ttb (stPriv a.status) a.pc 6 s []).2 with
  | .ok i => some (i, wordAt a.pc (instrLen i))
  | .error _ => none

end Sys2Proof.Machine
end

