-- ==== Sys2Proof/Machine/Operands.lean ====
section
/-! DEFINITION. Operand forms: register operands by their use, queue operands (R150 to R155), the modes of an address
(R95, R142), and running one operation in each lane that executes an instruction. -/

namespace Sys2Proof.Machine

open Sys2Proof

/-! ## Registers by use -/

/-- The value of a register or a pair (R12, R65). -/
def readUse (u : RegUse) (r : Reg) (a : Lane) : DWord :=
  match u with
  | .p => lanePair a r.toNat
  | .b => laneB a r.toNat
  | _ => (laneReg a r.toNat).setWidth 64

/-- Writes a register or a pair. -/
def writeUse (u : RegUse) (r : Reg) (v : DWord) (a : Lane) : Lane :=
  match u with
  | .p => setLanePair r.toNat v a
  | .b => setLaneB r.toNat v a
  | _ => setLaneReg r.toNat (v.setWidth 32) a

/-- The register field of s1 and of s2 in classes A and AX (R65). -/
def s1Reg (o : Opnds) : Reg := if o.two then o.x else o.y
def s2Reg (o : Opnds) : Reg := if o.two then o.y else o.z

/-! ## Queues (R150 to R155) -/

/-- Free entries of a queue (R150). -/
def qFree (q : Queue) : Nat := 8 - q.fill - q.inflight
def laneQ (a : Lane) (n : Nat) : Queue := tget {} a.queues n
def setLaneQ (n : Nat) (q : Queue) (a : Lane) : Lane := { a with queues := tset {} a.queues n q }
/-- The entry at the consumer pointer. -/
def qHead (q : Queue) : QEntry := tget {} q.ents q.cons
/-- The consumer pointer moves on by k entries, which are emptied. -/
def qDrop (q : Queue) : Nat → Queue
  | 0 => q
  | k + 1 => qDrop { q with ents := tset {} q.ents q.cons {}, cons := (q.cons + 1) % 8, fill := q.fill - 1 } k
/-- An entry written at the producer pointer. -/
def qPush (q : Queue) (e : QEntry) : Queue :=
  { q with ents := tset {} q.ents q.prod e, prod := (q.prod + 1) % 8, fill := q.fill + 1 }
/-- The filled entries from a pointer on, of n. -/
def qRun (q : Queue) (p : Nat) : Nat → Nat
  | 0 => 0
  | n + 1 => if (tget {} q.ents p).filled then 1 + qRun q ((p + 1) % 8) n else 0
/-- A load queue's fill after an entry has filled (R150). -/
def qSettle (q : Queue) : Queue :=
  let n := q.fill + q.inflight
  let f := qRun q q.cons n
  { q with fill := f, inflight := n - f }

/-- What a queue operand asks for in a lane: go on, wait, or fault. -/
inductive Gate where
  | go
  | wait
  | fail (fs : List LaneFail)
  deriving DecidableEq, Repr

/-- The need of a consumer: k filled entries (R154). -/
def needFill (q : Queue) (k : Nat) : Option (Option Nat) :=
  if k ≤ q.fill then none else if k ≤ q.fill + q.inflight then some none else some (some 1)
/-- The need of a producer: k free entries (R154). -/
def needFree (q : Queue) (k : Nat) : Option (Option Nat) :=
  if k ≤ qFree q then none else if k ≤ qFree q + q.inflight then some none else some (some 2)

/-- The queue condition of a lane: none met, `some none` waits, `some (some r)` a queue-order fault with its reason, and
the number of the queue. -/
def gateOf (conds : List (Nat × Nat × Option (Option Nat))) : Gate :=
  match conds.filterMap fun c => match c.2.2 with
      | some (some r) => some { lane := c.1, fail := { vector := 6, reason := r }, addr := 0,
                                info := BitVec.ofNat 32 c.2.1 : LaneFail }
      | _ => none with
  | f :: fs => .fail (f :: fs)
  | [] => if conds.any fun c => c.2.2 == some none then .wait else .go

/-- The queue operands of a lane (R153): queue number and need. -/
def operandConds (o : Opnds) (l : Nat) (a : Lane) : List (Nat × Nat × Option (Option Nat)) :=
  (if o.zq then [(l, o.z.toNat, needFill (laneQ a o.z.toNat) (o.wait.toNat + 1))] else [])
    ++ (if o.xq then [(l, 2 + o.x.toNat, needFree (laneQ a (2 + o.x.toNat)) 1)] else [])

/-- The queue-entry fault of a consumer operand (R155). -/
def entryFails (o : Opnds) (l : Nat) (a : Lane) : List LaneFail :=
  let e := qHead (laneQ a o.z.toNat)
  if o.zq && e.cause != 0 then
    [{ lane := l, fail := { vector := 7, reason := e.cause.toNat }, addr := 0,
       info := BitVec.ofNat 32 o.z.toNat }]
  else []

/-- The queue conditions of an instruction's operands in the lanes that execute it: order faults first, then the wait,
then entry faults (R153 to R155). -/
def queueGate (o : Opnds) (s : State) : Gate :=
  if !o.zq && !o.xq then .go
  else
    let ls := execLanes s
    match gateOf (ls.flatMap fun l => operandConds o l (curLane s l)) with
    | .go =>
      match ls.flatMap fun l => entryFails o l (curLane s l) with
      | [] => .go
      | f :: fs => .fail (f :: fs)
    | g => g

/-- A consumer operand moves its queue on. -/
def consume (o : Opnds) (a : Lane) : Lane :=
  if o.zq then setLaneQ o.z.toNat (qDrop (laneQ a o.z.toNat) 1) a else a

/-! ## Operand values and results -/

/-- The values of an instruction's operands in a lane: x as a source, s1 and s2. -/
structure Vals where
  x  : DWord
  s1 : DWord
  s2 : DWord
  deriving DecidableEq, Repr

/-- The operands of a class A or AX instruction (R65), a queue head in the place of s2. -/
def valsOf (i : Instr) (a : Lane) : Vals :=
  let o := i.opnds
  let g := i.sig
  { x := readUse g.x o.x a, s1 := readUse g.s1 (s1Reg o) a,
    s2 := if o.zq then (qHead (laneQ a o.z.toNat)).data.setWidth 64 else readUse g.s2 (s2Reg o) a }

/-- The result goes to x or to a store queue (R65). -/
def putX (i : Instr) (v : DWord) (a : Lane) : Lane :=
  let o := i.opnds
  if o.xq then setLaneQ (2 + o.x.toNat) (qPush (laneQ a (2 + o.x.toNat)) { data := v.setWidth 32, filled := true }) a
  else writeUse i.sig.x o.x v a

/-- An instruction that its queue operands hold back or stop, and that acts as `run` once they let it (R153 to R155). -/
def gated (i : Instr) (s : State) (run : Out) : Out :=
  match queueGate i.opnds s with
  | .wait => retry s
  | .fail fs => raiseFails i s fs
  | .go => run

/-- The queue operand of each lane that executes the instruction moves on (R153). -/
def takeQueues (i : Instr) (s : State) : State := modExec s fun _ a => consume i.opnds a

/-- An instruction that waits for its queue operands and then acts in each lane that executes it; it is complete. -/
def runLanes (i : Instr) (s : State) (f : Nat → Lane → Vals → Lane) : Out :=
  match queueGate i.opnds s with
  | .wait => retry s
  | .fail fs => raiseFails i s fs
  | .go =>
    .next (modCtx (complete i s) s.cur.ctx fun x =>
      modLanes x (execLanes s) fun l a => f l (consume i.opnds a) (valsOf i a))

/-- An instruction whose result is a function of its operands. -/
def runVal (i : Instr) (s : State) (f : Vals → DWord) : Out :=
  runLanes i s fun _ a v => putX i (f v) a

/-- The immediate's low 32 bits. -/
def imm32 (o : Opnds) : Word := o.imm.setWidth 32

/-- An operation of one width: 32-bit values are taken from the low half of the operands. -/
def atWidth (w : Width) (f : (n : Nat) → BitVec n → BitVec n → BitVec n) (a b : DWord) : DWord :=
  match w with
  | .w32 => (f 32 (a.setWidth 32) (b.setWidth 32)).setWidth 64
  | .w64 => f 64 a b

/-! ## Addresses (R95, R141, R142) -/

/-- The address of a class-M operand in a lane (R95). -/
def memAddr (o : Opnds) (a : Lane) : DWord :=
  let d := o.desc
  let base := laneB a d.base.toNat
  match d.mode.toNat with
  | 0 =>
    let y := laneReg a o.y.toNat
    base + (if d.ext then y.signExtend 64 else y.setWidth 64) * (1 <<< d.scale.toNat) + o.imm
  | 1 => base + o.imm
  | _ => lanePair a o.y.toNat + o.imm

/-- The address of a `loc` operand in a lane (R142). -/
def locAddr (o : Opnds) (a : Lane) : Word :=
  let d := o.desc
  match d.mode.toNat with
  | 0 => laneReg a o.y.toNat * (1 <<< d.scale.toNat) + imm32 o
  | _ => imm32 o

end Sys2Proof.Machine
end

