-- ==== Sys2Proof/Machine/Flight.lean ====
section
/-! DEFINITION. Accesses on their way: relaxed loads, stores and reductions, queue entries and the posted-store journal
(R144 to R153, R244 to R247). An event on its way carries what it needs; each performs when it is taken. -/

namespace Sys2Proof.Machine

open Sys2Proof

/-- The function from a lane of a context to its core. -/
def coresOf (s : State) (ctx : Nat) (l : Nat) : Nat := laneCore (getCtx s ctx) l

/-- Values read land in the destination registers of their lanes. -/
def landAll (s : State) (ctx : Nat) (op : MemOp) (x : Reg) (vals : List (Nat × Nat)) : State :=
  modCtx s ctx fun y => vals.foldl (fun z v => modLane z v.1 (landValue op x v.2)) y

/-- The lanes of a context that wait for an access of theirs no longer wait. -/
def releaseAccess (s : State) (ctx : Nat) (lanes : List Nat) : State :=
  modCtx s ctx fun y => modLanes y lanes fun _ a => if a.wait = .access then { a with wait := .none } else a

/-- The answer of an access reaches the lanes that wait for it: their instruction issues again and ends (R145, R147). -/
def grantAccess (s : State) (a : RemoteAns) : State :=
  modCtx s a.acc.ctx fun x =>
    modLanes x (allLanes x) fun l b =>
      if b.wait = .access ∧ (!x.split || a.acc.lanes.any fun k => k.lane == l) = true
      then { b with wait := .granted a } else b

/-! ## The checks that a home makes (R161, R165, R166) -/

/-- The operation reads poison as a trap (R165). -/
def opPoison : MemOp → Bool
  | .load _ | .atom _ _ | .cas _ | .afn _ _ => true
  | _ => false

/-- The checks of priorities 8 and 9 of one lane at its home. -/
def homeFail (s : State) (core : Nat) (op : MemOp) (acc : LaneAcc) : Option Fail :=
  match op with
  | .afn f w =>
    if !afnOk (afnWord s acc.pa f.toNat) w then some { vector := 13, reason := 0 }
    else if memBad s acc.pa (opBytes op) then some { vector := 14, reason := 0 } else none
  | _ => if opPoison op ∧ readBad s core acc.attr acc.pa (opBytes op) = true then some { vector := 14, reason := 0 }
         else none

/-- The lanes of an access that their homes refuse, with the vector and the reason. -/
def homeRefusals (s : State) (core : Nat → Nat) (op : MemOp) (accs : List LaneAcc) : List (Nat × Nat × Nat) :=
  accs.filterMap fun a => (homeFail s (core a.lane) op a).map fun f => (a.lane, f.vector, f.reason)

/-! ## Relaxed loads and atomics (R145) -/

/-- The value that a relaxed load returns to a lane of an L-core reaches the registers that no later instruction has
written since (R193). -/
def landTicket (s : State) (a : Access) (vals : List (Nat × Nat)) : State :=
  modCtx s a.ctx fun y =>
    let own (l r : Nat) : Bool := y.score.any fun e => e.1 == r && e.2.1 == a.ticket && e.2.2.contains l
    let one (z : Ctx) (v : Nat × Nat) : Ctx := modLane z v.1 fun b =>
      let full := landValue a.op a.x v.2 b
      ((landRegs a.op a.x).filter (own v.1)).foldl (fun c r => setLaneReg r (laneReg full r) c) b
    { vals.foldl one y with score := y.score.filter fun e => e.2.1 != a.ticket }

/-- A relaxed load or atomic is performed, unless the homes of another package have done so (R145, R147). On an L-core the
context has gone on, and the checks of its homes were made at issue: no sector of it is poisoned since (`settleSector`, log
59). Elsewhere they are made now, and the instruction ends when it issues again. -/
def relaxedReturn (s : State) (a : Access) : State :=
  if coreKind (getCtx s a.ctx).core = .lcore then
    match a.vals with
    | some vals => landTicket s a vals
    | none =>
      let (s1, vals) := performLanes s (coresOf s a.ctx) a.ctx a.op a.lanes
      landTicket s1 a vals
  else
    match homeRefusals s (coresOf s a.ctx) a.op a.lanes with
    | f :: fs => grantAccess s { acc := a, own := false, refused := f :: fs, vals := [] }
    | [] =>
      let (s1, vals) := performLanes s (coresOf s a.ctx) a.ctx a.op (accWords s a.op a.lanes)
      grantAccess s1 { acc := a, own := false, refused := [], vals }

/-- The 8-byte words of an FPUT block that are still out. -/
def wordsLeft (bs : List Byte) (left : Option (List Nat)) : List Nat := left.getD (List.range (bs.length / 8))

/-- Words of a block reach their home; a write to a message window is counted once (R225). -/
def storeWords (s : State) (pa : Nat) (bs : List Byte) (ws : List Nat) : State :=
  if targetOf pa = .window then countDrop s (windowEngine pa)
  else ws.foldl (fun z k => storeHome z (pa + 8 * k) ((bs.drop (8 * k)).take 8)) s

/-- The words of a block that are performed now: all that are left, or some of them. Which is free: each word is single-copy
atomic, and the block is not (R144, R487, R492). -/
def wordsNow (s : State) (pa : Nat) (ws : List Nat) : List Nat :=
  if targetOf pa = .window ∨ choice s 487 % 2 = 0 then ws else ws.filter fun k => (choice s 488).testBit k

/-- A relaxed store or reduction, or what is left of an FPUT block, is performed (R147, R487). -/
def relaxedPerform (s : State) (p : PostedOp) : State :=
  if p.bytes.isEmpty then (performLane s (coresOf s p.ctx p.acc.lane) p.ctx p.op p.acc).1
  else storeWords s p.acc.pa p.bytes (wordsLeft p.bytes p.left)

/-- A relaxed store or reduction is performed, or words of an FPUT block: those that stay out keep its place. -/
def relaxedSome (s : State) (p : PostedOp) : State :=
  let ws := wordsLeft p.bytes p.left
  let now := wordsNow s p.acc.pa ws
  if p.bytes.isEmpty ∨ now = ws then relaxedPerform s p
  else
    let s1 := storeWords s p.acc.pa p.bytes now
    { s1 with flight := .relaxedStorePerform { p with left := some (ws.filter fun k => !now.contains k) } :: s1.flight }

/-- The bytes that a posted operation covers. -/
def postedBytes (p : PostedOp) : Nat := if p.bytes.isEmpty then opBytes p.op else p.bytes.length

/-- The bytes that a journal entry writes. -/
def jBytes (e : JEntry) : Nat := if e.bytes.isEmpty then opBytes e.op else e.bytes.length

/-- Changes a queue of a lane. -/
def modQueue (s : State) (ctx lane q : Nat) (f : Queue → Queue) : State :=
  modCtx s ctx fun y => modLane y lane fun a => setLaneQ q (f (laneQ a q)) a

/-- The data of a queue load is an input that the replay log may keep (R282). -/
def logFill (s : State) (q : QueueOp) (v : Nat) : State :=
  if ldqLogged s (coresOf s q.ctx q.lane) q.attr then logLane s q.ctx q.pc 3 q.lane (leBytes 4 v) else s

/-- The data of a queue load of a re-executed context comes from the log (R284). -/
def fillReplayed (s : State) (q : QueueOp) : Bool :=
  replays s (getCtx s q.ctx) && ldqLogged s (coresOf s q.ctx q.lane) q.attr

/-- The fault cause that a queue load meets as its home stands: 3 remote refusal, 2 uncorrectable error, 1 poison (R151). -/
def fillCause (s : State) (q : QueueOp) : BitVec 2 :=
  let core := coresOf s q.ctx q.lane
  let n := isizeBytes q.sz
  if q.lost || (farFrom (pkgOf core) q.pa && entryReason s (pkgOf core) (getCtx s q.ctx).task q.pa n .read != 0) then 3
  else if q.bad then 2
  else if readBad s core q.attr q.pa n then 1
  else 0

/-- A load queue's entry fills with its data, or with 0 and a fault cause (R151). The data of a re-executed context are those
of the log; the log keeps no cause, and an entry of 0 takes the one that its home gives now (R284, log 145). -/
def queueFill (s : State) (q : QueueOp) : State :=
  let core := coresOf s q.ctx q.lane
  let put (z : State) (cause : BitVec 2) (v : Nat) : State :=
    settleLeave (modQueue z q.ctx q.lane q.queue fun w =>
      qSettle { w with ents := tset {} w.ents q.entry { data := BitVec.ofNat 32 v, cause, filled := true } }) q.ctx
  let acc : LaneAcc := { lane := q.lane, va := q.va, pa := q.pa, attr := q.attr, data := 0 }
  let logged := if fillReplayed s q then (logEntry s core).filter fun e => e.kind == 3 && e.pc == q.pc.toNat % 2 ^ 32 else none
  match logged with
  | some e =>
    let v := leNat (e.data.take 4)
    put (logSkip s core e) (if v = 0 then fillCause s q else 0) v
  | none =>
    if fillCause s q = 0 then
      let (s1, v) := performLane s core q.ctx (.load q.sz) acc
      put (logFill s1 q (extendLoad q.sz v)) 0 (extendLoad q.sz v)
    else put (logFill s q 0) (fillCause s q) 0

/-- A queued store is performed, and its entry frees (R152). -/
def queueStore (s : State) (q : QueueOp) : State :=
  let acc : LaneAcc := { lane := q.lane, va := q.va, pa := q.pa, attr := q.attr, data := q.data.setWidth 128 }
  let (s1, _) := performLane s (coresOf s q.ctx q.lane) q.ctx (.store q.sz) acc
  settleLeave (modQueue s1 q.ctx q.lane q.queue fun w => { w with inflight := w.inflight - 1 }) q.ctx

/-! ## The order of one strand's own accesses (R146) -/

/-- Two ranges share a byte. -/
def overlaps (a b : Nat × Nat) : Bool := a.1 < b.1 + b.2 && b.1 < a.1 + a.2

/-- The lanes that an event on its way performs accesses of, with their ranges: context, lane, address and size. -/
def flightLanes (s : State) : Ev → List (Nat × Nat × Nat × Nat)
  | .relaxedLoadReturn a => a.lanes.map fun k => (a.ctx, k.lane, k.pa, opBytes a.op)
  | .relaxedStorePerform p => [(p.ctx, p.acc.lane, p.acc.pa, postedBytes p)]
  | .queueLoadFill q | .storeQueuePerform q => [(q.ctx, q.lane, q.pa, isizeBytes q.sz)]
  | .journalEntryPerform core id =>
    match (getCore s core).journal.find? fun e => e.id == id with
    | some e => [(e.ctx, e.lane, e.pa, jBytes e)]
    | none => []
  | _ => []

/-- The instruction that a posted event belongs to, and what it writes. -/
def postGroup (s : State) : Ev → Option (Nat × Nat × Nat × Nat)
  | .relaxedStorePerform p => if p.group = 0 then none else some (p.ctx, p.group, p.acc.pa, postedBytes p)
  | .journalEntryPerform core id =>
    match (getCore s core).journal.find? fun e => e.id == id with
    | some e => if e.group = 0 then none else some (e.ctx, e.group, e.pa, jBytes e)
    | none => none
  | _ => none

/-- The aligned 8-byte words that a range touches. -/
def wordSpan (a n : Nat) : Nat × Nat := (a / 8 * 8, (a + n + 7) / 8 * 8 - a / 8 * 8)

/-- An event must wait for one before it: they share bytes in one lane (R146), or are lanes of one instruction on one
aligned 8-byte word (R148, R158). -/
def mustFollow (s : State) (b e : Ev) : Bool :=
  ((flightLanes s b).any fun p => (flightLanes s e).any fun q =>
      p.1 == q.1 && p.2.1 == q.2.1 && overlaps p.2.2 q.2.2)
    || (match postGroup s b, postGroup s e with
      | some p, some q => p.1 == q.1 && p.2.1 == q.2.1 && overlaps (wordSpan p.2.2.1 p.2.2.2) (wordSpan q.2.2.1 q.2.2.2)
      | _, _ => false)

/-- An earlier access on its way holds this one. -/
def blockedBy (s : State) (earlier : List Ev) (e : Ev) : Bool := earlier.any fun b => mustFollow s b e

/-- Takes one access that is on its way. -/
def takeFlight (s : State) : Ev → State
  | .relaxedLoadReturn a => relaxedReturn s a
  | .relaxedStorePerform p => relaxedPerform s p
  | .queueLoadFill q => queueFill s q
  | .storeQueuePerform q => queueStore s q
  | _ => s

/-- An access on its way that its own package performs, or a queue load that reads memory. -/
def forcible (s : State) : Ev → Bool
  | .relaxedLoadReturn _ | .relaxedStorePerform _ | .storeQueuePerform _ => true
  | .queueLoadFill q => !fillReplayed s q
  | _ => false

/-- Marks the events, newest first, that must be performed now: those that are asked for, and those that one of them must
follow. -/
def forcedMarks (s : State) (hit : Ev → Bool) : List Ev → List Ev → List Bool
  | [], _ => []
  | e :: t, later =>
    if forcible s e && (hit e || later.any (mustFollow s e)) then true :: forcedMarks s hit t (e :: later)
    else false :: forcedMarks s hit t later

/-- Performs the accesses on their way that are asked for, with those that come before them, oldest first. -/
def forceFlight (s : State) (hit : Ev → Bool) : State :=
  let tagged := s.flight.zip (forcedMarks s hit s.flight.reverse []).reverse
  match tagged.filter (·.2) with
  | [] => s
  | forced => forced.foldl (fun z e => takeFlight z e.1)
      { s with flight := (tagged.filter fun e => !e.2).map (·.1) }

/-- Performs the lane's earlier accesses on their way that share bytes with an access (R146). -/
def forceOwn (s : State) (ctx lane pa n : Nat) : State :=
  forceFlight s fun e => (flightLanes s e).any fun p => p.1 == ctx && p.2.1 == lane && overlaps p.2.2 (pa, n)

/-- A sector is about to be poisoned: the relaxed accesses of L-cores to it that have passed their checks are performed
before (R145, R165). -/
def settleSector (s : State) (pa : Nat) : State :=
  forceFlight s fun e => match e with
    | .relaxedLoadReturn a =>
      coreKind (getCtx s a.ctx).core == .lcore && a.lanes.any fun k => overlaps (k.pa, opBytes a.op) (pa / 32 * 32, 32)
    | _ => false

/-! ## Fences (R163) -/

/-- A lane of a context has a load on its way. -/
def loadsOut (s : State) (ctx : Nat) (lanes : List Nat) : Bool :=
  s.flight.any fun e => match e with
    | .relaxedLoadReturn a => a.ctx == ctx && a.lanes.any fun k => lanes.contains k.lane
    | .queueLoadFill q => q.ctx == ctx && lanes.contains q.lane
    | _ => false

/-- A lane of a context has a store or reduction on its way. -/
def storesOut (s : State) (ctx : Nat) (lanes : List Nat) : Bool :=
  s.flight.any fun e => match e with
    | .relaxedStorePerform p => p.ctx == ctx && lanes.contains p.acc.lane
    | .storeQueuePerform q => q.ctx == ctx && lanes.contains q.lane
    | _ => false

/-- The cores whose journals hold entries of a context. -/
def journalCores (x : Ctx) : List Nat :=
  match x.kind with
  | .course => (allLanes x).map (laneCore x)
  | _ => [x.core]

/-- A lane of a context has a journal entry that is neither performed nor refused, to a package or to any. -/
def journalOut (s : State) (ctx : Nat) (lanes : List Nat) (pkg : Option Nat) : Bool :=
  (journalCores (getCtx s ctx)).any fun k =>
    (getCore s k).journal.any fun e =>
      e.ctx == ctx && lanes.contains e.lane && !e.refused && (match pkg with | some p => paPkg e.pa == p | none => true)

/-- What a wait stated as FENCE or FENCE.rel at a scope waits for (R163, R414). -/
def accessesOut (s : State) (ctx : Nat) (lanes : List Nat) (sc : Scope) : Bool :=
  match sc with
  | .none | .strand => false
  | .sys => loadsOut s ctx lanes || storesOut s ctx lanes || journalOut s ctx lanes none
  | _ => loadsOut s ctx lanes || storesOut s ctx lanes

/-! ## The posted-store journal (R244) -/

/-- The entries that a lane holds on a core. -/
def laneEntries (c : CoreSt) (ctx lane : Nat) : List JEntry := c.journal.filter fun e => e.ctx == ctx && e.lane == lane

/-- The journal has room for n more entries of a lane. -/
def journalRoom (c : CoreSt) (ctx lane n : Nat) : Bool :=
  (laneEntries c ctx lane).length + n ≤ 32 && c.journal.length + n ≤ 512

/-- The lowest entry index of a strand that is free. -/
def freeIdx (es : List JEntry) : Nat :=
  ((List.range 32).find? fun k => !es.any fun e => e.idx == k).getD 0

/-- A posted access enters the journal: its lane's address, page attribute and data, or the bytes of an FPUT block. -/
def enterJournal (s : State) (ctx : Nat) (op : MemOp) (a : LaneAcc) (bytes : List Byte) (group : Nat) : State :=
  let x := getCtx s ctx
  let k := laneCore x a.lane
  let c := getCore s k
  let e : JEntry := { id := c.jNext, ctx, lane := a.lane, idx := freeIdx (laneEntries c ctx a.lane), op, va := a.va,
                      pa := a.pa, data := a.data, bytes, attr := a.attr, group, task := x.task, parent := x.parentNode }
  pushFlight (setCore s k { c with journal := c.journal ++ [e], jNext := c.jNext + 1 }) [.journalEntryPerform k c.jNext]

/-- Removes an entry. -/
def freeEntry (s : State) (core id : Nat) : State :=
  modCore s core fun c => { c with journal := c.journal.filter fun e => e.id != id }

/-- An earlier entry of the same core to the same package is on its way (R481). -/
def journalWaits (s : State) (core id : Nat) : Bool :=
  match (getCore s core).journal.find? fun e => e.id == id with
  | none => false
  | some e => (getCore s core).journal.any fun b =>
      b.id < e.id && paPkg b.pa == paPkg e.pa && s.flight.contains (.journalEntryPerform core b.id)

/-- The lane's journal entries that share bytes with a non-posted access (R479). -/
def journalOverlap (s : State) (ctx lane pa n : Nat) : Bool :=
  (getCore s (coresOf s ctx lane)).journal.any fun e =>
    e.ctx == ctx && e.lane == lane && !e.refused && overlaps (e.pa, jBytes e) (pa, n)

/-- The remote home performs an entry, and it frees; words of an FPUT block that stay out keep its place. -/
def journalSome (s : State) (core : Nat) (e : JEntry) : State :=
  let ws := wordsLeft e.bytes e.left
  let now := wordsNow s e.pa ws
  if e.bytes.isEmpty then
    freeEntry (performLane s core e.ctx e.op { lane := e.lane, va := e.va, pa := e.pa, attr := e.attr, data := e.data }).1 core e.id
  else if now = ws then freeEntry (storeWords s e.pa e.bytes ws) core e.id
  else
    let s1 := modCore (storeWords s e.pa e.bytes now) core fun c =>
      { c with journal := c.journal.map fun b =>
          if b.id = e.id then { b with left := some (ws.filter fun k => !now.contains k) } else b }
    { s1 with flight := .journalEntryPerform core e.id :: s1.flight }

/-- JOURNAL_ENTRY_PERFORM (R244): the remote home checks the entry and performs it, or its refusal is sent back (R477). -/
def journalPerform (s : State) (core id : Nat) : State :=
  match (getCore s core).journal.find? fun e => e.id == id with
  | none => s
  | some e =>
    let k : AccKind := if e.bytes.isEmpty then opKind e.op else .write
    match if e.left.isSome then 0 else entryReason s (pkgOf core) e.task e.pa (jBytes e) k with
    | 0 => journalSome s core e
    | r => pushFlight s [.journalRefusal core id r]

/-- JOURNAL_REFUSAL (R245, R247): the context marks the entry; after its end by REAP a notice goes to its parent. -/
def journalRefuse (s : State) (core id reason : Nat) : State :=
  match (getCore s core).journal.find? fun e => e.id == id with
  | none => s
  | some e =>
    if (getCtx s e.ctx).alive then
      let s1 := modCore s core fun c =>
        { c with journal := c.journal.map fun b => if b.id = id then { b with refused := true } else b }
      modCtx s1 e.ctx fun x => modLane x e.lane fun a =>
        { a with refpend := a.refpend ++ [{ idx := e.idx, reason, va := e.va, logSize := (jBytes e).log2, lane := e.lane,
                                            since := s.free }] }
    else
      let n : Notice := { core, dst := e.parent, task := e.task, vector := 16, reason, taddr := e.va, tmask := 1 <<< e.lane }
      pushDue (freeEntry s core id) [.deathNotice n]

/-- The state in which a lane of a course takes a trap that names it alone: the course splits unless every active lane
that does not annul the next instruction is that lane (R238). -/
def splitFor (s : State) (ctx lane : Nat) : State :=
  let x := getCtx s ctx
  let named := (actLanes x).filter fun l => (getLane x l).annul == 0
  if isStrand x || x.split || named == [lane] then s
  else
    match peekInstr s ctx ((actLanes x).headD 0) with
    | some (i, next) => splitCourse s ctx 3 (isTransfer i) next
    | none => splitCourse s ctx 3 true 0

/-- JOURNAL_REFUSAL_TRAP (R245, R246): the oldest pending refusal of a lane is taken as vector 16, and its entry frees. -/
def refusalTrap (s : State) (ctx lane : Nat) : State :=
  match (getLane (getCtx s ctx) lane).refpend with
  | [] => s
  | r :: rs =>
    let core := laneCore (getCtx s ctx) lane
    let s1 := modCore s core fun c =>
      { c with journal := c.journal.filter fun e => !(e.ctx == ctx && e.lane == lane && e.idx == r.idx && e.refused) }
    let s2 := splitFor (modCtx s1 ctx fun y => modLane y lane fun b => { b with refpend := rs }) ctx lane
    let x := getCtx s2 ctx
    let a := getLane x lane
    let t : TrapInfo := { vector := 16, reason := r.reason, async := true, addr := r.va, mask := 1 <<< lane,
                          info := BitVec.ofNat 32 (r.idx + r.logSize * 256) }
    let s3 := enterTrap s2 ctx (if isStrand x || x.split then [lane] else allLanes x) t a.pc a.pc
    logLane s3 ctx a.pc 6 lane (leBytes 8 (getLane (getCtx s3 ctx) lane).tcause.toNat)

end Sys2Proof.Machine
end

