-- ==== Sys2Proof/Machine/Memops.lean ====
section
/-! DEFINITION. The memory instructions: loads, stores, queues, atomics, prefetch and fences (R140 to R166). -/

namespace Sys2Proof.Machine

open Sys2Proof

/-! ## Checks of a global access (R141 to R149, R166) -/

/-- A lane's access that passed its checks. -/
structure Passed where
  acc  : LaneAcc
  deriving DecidableEq, Repr

/-- The access is one that a device page accepts (R164). -/
def deviceOk (op : MemOp) (plain : Bool) : Bool :=
  match op with
  | .load sz | .store sz => plain && isizeBytes sz ≤ 4
  | _ => false

/-- The operation is an atomic or SPIN (R429). -/
def opRmw : MemOp → Bool
  | .load _ | .store _ | .sector => false
  | _ => true

/-- The checks of priorities 3, 5, 6 and 7 on n bytes at an address (R166). -/
def checkAddr (s : State) (l : Nat) (va : DWord) (n : Nat) (k : AccKind) (device rmw : Bool) : Except LaneFail Passed :=
  let a := curLane s l
  let core := curCore s l
  let fail (f : Fail) : Except LaneFail Passed := .error { lane := l, fail := f, addr := va }
  if va.toNat % n ≠ 0 then fail { vector := 8, reason := 0 }
  else
    match translate s core a.ttb va k (stPriv a.status) with
    | .error f => fail f
    | .ok (p, _, pa) =>
      match attrFail (pkgOf core) p pa device rmw with
      | some f => fail f
      | none => .ok { acc := { lane := l, va, pa, attr := p.attr, data := 0 } }

/-- The checks of priorities 3 to 7 of one lane's access. -/
def checkLane (s : State) (l : Nat) (op : MemOp) (va : DWord) (plain : Bool) : Except LaneFail Passed :=
  checkAddr s l va (opBytes op) (opKind op) (deviceOk op plain) (opRmw op)

/-- The checks of priorities 8 and 9 that the homes of the issuer's own package make. -/
def homeFails (s : State) (op : MemOp) (accs : List LaneAcc) : List LaneFail :=
  accs.filterMap fun a =>
    (homeFail s (curCore s a.lane) op a).map fun f => { lane := a.lane, fail := f, addr := a.va }

/-- The failures and the passed lanes of a list of checks. -/
def failsOf (rs : List (Except LaneFail Passed)) : List LaneFail :=
  rs.filterMap fun r => match r with
    | .error e => some e
    | .ok _ => none
def passesOf (rs : List (Except LaneFail Passed)) : List Passed :=
  rs.filterMap fun r => match r with
    | .ok p => some p
    | .error _ => none

/-- A poison trap names the lowest address (R165). -/
def lowAddr : List LaneFail → DWord
  | [] => 0
  | [f] => f.addr
  | f :: t => let a := lowAddr t; if f.addr.ult a then f.addr else a

/-- Raises the failures of a memory instruction. -/
def raiseMem (i : Instr) (s : State) (fs : List LaneFail) : Out :=
  if lowVector fs = 14 then
    let low := lowAddr (fs.filter fun f => f.fail.vector == 14)
    raiseFails i s (fs.map fun f => { f with addr := low })
  else raiseFails i s fs

/-- What the checks of an instruction translated stays in the TLBs, whether or not a later check failed (R430). -/
def keepAll (s : State) (rs : List (Except LaneFail Passed)) : State :=
  rs.foldl (fun z r => match r with
    | .ok p => keepWalk z s (curCore s p.acc.lane) (curLane s p.acc.lane).ttb p.acc.va
    | .error e => if e.fail.vector = 8 then z else keepWalk z s (curCore s e.lane) (curLane s e.lane).ttb e.addr) s

/-! ## Watchpoints (R276) -/

/-- The kinds that an operation is watched as: reads and writes. -/
def watchKinds : MemOp → Bool × Bool
  | .load _ | .spin _ | .sector => (true, false)
  | .store _ | .red _ _ => (false, true)
  | _ => (true, true)

/-- A lane's access hits watchpoint n of its core (R274, R276). -/
def hitsWatch (s : State) (core : Nat) (n : Nat) (loc : Bool) (kinds : Bool × Bool) (addr : DWord) (bytes : Nat) : Bool :=
  let c := getCore s core
  let w : Byte := (tget 0 c.sys 0x15C).extractLsb' (8 * n) 8
  let size := (w.extractLsb' 5 3).toNat
  let base := (tget 0 c.sys (0x15A + n)).toNat % 2 ^ 57 / 2 ^ size * 2 ^ size
  w.getLsbD 0 && w.getLsbD 3 == loc && ((kinds.1 && w.getLsbD 1) || (kinds.2 && w.getLsbD 2))
    && overlaps (base, 2 ^ size) (addr.toNat % 2 ^ 57, bytes)

/-- A watchpoint raises its trap rather than stops (R274). -/
def watchTraps (s : State) (core n : Nat) : Bool := (tget 0 (getCore s core).sys 0x15C).getLsbD (8 * n + 4)

/-- The context's watchpoints are evaluated at this instruction (R275, R277). -/
def watchOn (s : State) : Bool :=
  let x := curCtx s
  let a := curLane s (execHead s)
  !isKeeper x && !a.inHandler && a.wskip != some a.pc

/-- A watchpoint that some lane hits is reported, and no lane performs (R276): the lower watchpoint first. `accs` gives each
lane's address and size. -/
def watchReport (i : Instr) (s : State) (loc : Bool) (kinds : Bool × Bool) (accs : List (Nat × DWord × Nat)) : Option Out :=
  if !watchOn s then none
  else
    let hit (n : Nat) := accs.filter fun e => hitsWatch s (curCore s e.1) n loc kinds e.2.1 e.2.2
    let report (n : Nat) (h : Nat × DWord × Nat) (hs : List (Nat × DWord × Nat)) : Out :=
      let mask := maskOf ((h :: hs).map (·.1))
      let s1 := modCtx s s.cur.ctx fun x =>
        modLanes x (if x.split || isStrand x then s.cur.lanes else allLanes x) fun _ a => { a with wskip := some a.pc }
      if watchTraps s (curCore s h.1) n then
        trap i s1 { vector := 27, reason := n + 1, info := mask, addr := h.2.1, mask := maskOf (execLanes s) }
      else .next (stopCtx s1 (4 + n) mask)
    match hit 0, hit 1 with
    | h :: hs, _ => some (report 0 h hs)
    | [], h :: hs => some (report 1 h hs)
    | [], [] => none

/-! ## Performing (R145, R147) -/

/-- The instruction is complete and its executing lanes are held until their access has taken its time (R145). -/
def holdAccess (i : Instr) (s : State) : State :=
  let ls := execLanes s
  modCtx (complete i s) s.cur.ctx fun x => modLanes x ls fun _ a => { a with wait := .access }

/-- The access of an instruction for events. -/
def accessOf (s : State) (op : MemOp) (x : Reg) (accs : List LaneAcc) : Access :=
  { ctx := s.cur.ctx, op, x, lanes := accs, ticket := (curCtx s).tickets, pc := curPc s }

/-- The relaxed stores and reductions of a lane on their way to its own package (R147). -/
def relaxedCount (s : State) (ctx lane : Nat) : Nat :=
  (s.flight.filter fun e => match e with
    | .relaxedStorePerform p => p.ctx == ctx && p.acc.lane == lane
    | _ => false).length

/-- The lanes' accesses count for their course (R389). -/
def touchAll (s : State) (accs : List LaneAcc) : State :=
  accs.foldl (fun z a => touch z z.cur.ctx (curCore z a.lane) a.va a.pa) s

/-- A lane's access is to its own package (R147, R475). -/
def ownPkg (s : State) (a : LaneAcc) : Bool := !farFrom (pkgOf (curCore s a.lane)) a.pa

/-- Posts relaxed stores or reductions of one instruction: to the own package, or to the journal (R147). -/
def postLanes (s : State) (op : MemOp) (group : Nat) : List LaneAcc → State
  | [] => s
  | a :: t =>
    postLanes (if ownPkg s a then pushFlight s [.relaxedStorePerform { ctx := s.cur.ctx, op, acc := a, group }]
      else enterJournal s s.cur.ctx op a [] group) op group t

/-- A lane has room for one more posted access. -/
def postRoom (s : State) (a : LaneAcc) : Bool :=
  let c := s.cur.ctx
  if ownPkg s a then relaxedCount s c a.lane < 8
  else journalRoom (getCore s (curCore s a.lane)) c a.lane 1

/-- Every lane of an instruction has room, and so has each journal for all of them (R147, R244). -/
def postsFit (s : State) (accs : List LaneAcc) : Bool :=
  let far := accs.filter fun a => !ownPkg s a
  accs.all (postRoom s) && far.all fun a =>
    decide ((getCore s (curCore s a.lane)).journal.length + (far.filter fun b => curCore s b.lane == curCore s a.lane).length ≤ 512)

/-- Earlier accesses of the same lanes to the same bytes are performed first (R146). -/
def forceAll (s : State) (op : MemOp) (accs : List LaneAcc) : State :=
  accs.foldl (fun z a => forceOwn z s.cur.ctx a.lane a.pa (opBytes op)) s

/-- An access to the own package that is plain: it is performed, its values land, and the strand is held (R145). -/
def performPlain (i : Instr) (s : State) (op : MemOp) (x : Reg) (accs : List LaneAcc) : State :=
  let c := s.cur.ctx
  let s1 := forceAll (touchAll s accs) op accs
  let (s2, vals) := performLanes s1 (curCore s) c op accs
  let s3 := logAccess (landAll (holdAccess i s2) c op x vals) c (curPc s) op accs vals
  pushFlight s3 [.accessPerformed { acc := accessOf s op x accs, own := true, refused := [], vals := [] }]

/-- Later writes of lanes to registers take the place of the loads that are on their way to them (R193). -/
def supersede (x : Ctx) (regs lanes : List Nat) : Ctx :=
  { x with score := (x.score.map fun e =>
      if regs.contains e.1 then (e.1, e.2.1, e.2.2.filter fun l => !lanes.contains l) else e).filter fun e => !e.2.2.isEmpty }

/-- An L-core goes on past a relaxed load or atomic that has passed its checks: its registers have a write pending, which
takes the place of those on their way to them (R145, R191, R193). -/
def goOn (i : Instr) (s : State) (a : Access) : State :=
  let ls := execLanes s
  let s1 := modCtx (complete i s) s.cur.ctx fun y =>
    let y := supersede y (landRegs a.op a.x) ls
    { y with score := y.score ++ (landRegs a.op a.x).map fun r => (r, a.ticket, ls), tickets := y.tickets + 1 }
  pushFlight s1 [.relaxedLoadReturn a]

/-- A lane's access touches a sector that is poisoned, at its home or in the copy that its core holds. -/
def meetsPoison (s : State) (op : MemOp) (a : LaneAcc) : Bool :=
  memBad s a.pa (opBytes op)
    || (match cacheFind s (cacheAt s (curCore s a.lane) a.attr a.pa) a.pa with
      | some l => lineBad l a.pa (opBytes op)
      | none => false)

/-- A relaxed load or atomic to the own package: it returns later (R145). An L-core goes on; one that passed its checks
beside a poisoned sector is performed at once, so that it meets what they met (R165). Elsewhere the instruction waits for its
values. -/
def performRelaxed (i : Instr) (s : State) (op : MemOp) (x : Reg) (accs : List LaneAcc) : State :=
  let a := accessOf s op x accs
  let s0 := touchAll s accs
  if coreKind (curCtx s).core = .lcore then
    if accs.any (meetsPoison s op) then
      let (s1, vals) := performLanes (forceAll s0 op accs) (curCore s) s.cur.ctx op accs
      goOn i s1 { a with vals := some vals }
    else goOn i s0 a
  else pushFlight (waitAt s0 .access) [.relaxedLoadReturn a]

/-- The kind of the log entry that the access of a re-executed context takes: 0 where it takes none (R282). -/
def replayKind (s : State) (op : MemOp) (accs : List LaneAcc) : Nat :=
  match op with
  | .atom _ _ | .cas _ | .afn _ _ => 2
  | .load _ => if accs.any fun a => ldLogged s (curCore s a.lane) a.attr then 3 else 0
  | _ => 0

/-- An access of a re-executed context (R284): values come from the log, and nothing is written. -/
def replayAccess (i : Instr) (s : State) (op : MemOp) (x : Reg) (accs : List LaneAcc) : Out :=
  let k := replayKind s op accs
  if k ≠ 0 then
    match replayTake s k with
    | some (s1, d) => .next (landAll (complete i s1) s.cur.ctx op x (accs.map fun a => (a.lane, leNat (d.take (opBytes op)))))
    | none => replayStop s
  else
    match op with
    | .load _ => .next (performPlain i s op x accs)
    | _ => .next (complete i s)

/-- The lanes that an answer reached no longer hold it: those that the fault does not name issue again (R147). -/
def dropGrant (s : State) : State :=
  modCtx s s.cur.ctx fun x => modLanes x (pcLanes s) fun _ a => match a.wait with
    | .granted _ => { a with wait := .none }
    | _ => a

/-- A relaxed load or atomic: on an L-core its result comes later, by the scoreboard (R145, R193). -/
def landsLater (i : Instr) : Bool :=
  match i with
  | .ld _ _ | .atom _ _ _ | .cas _ _ | .afn _ _ _ => i.opnds.g.rlx
  | _ => false

/-- An instruction whose answer has come (R145, R147): a relaxed one of an L-core is released and goes on, and the remote
homes perform it later (log 132); a sector that was poisoned meanwhile raises its trap here (R165). -/
def finishRemote (i : Instr) (s : State) (ans : RemoteAns) : Out :=
  match ans.refused with
  | [] =>
    if landsLater i && coreKind (curCtx s).core == .lcore then
      let accs := accWords s ans.acc.op ans.acc.lanes
      match homeFails s ans.acc.op accs with
      | f :: fs => raiseMem i (dropGrant s) (f :: fs)
      | [] => .next (goOn i s { ans.acc with lanes := accs, ticket := (curCtx s).tickets })
    else
    let s1 := landAll (complete i s) s.cur.ctx ans.acc.op ans.acc.x ans.vals
    .next (logAccess s1 s.cur.ctx (curPc s) ans.acc.op ans.acc.lanes ans.vals)
  | rs =>
    raiseMem i (dropGrant s) (rs.map fun r =>
      { lane := r.1, fail := { vector := r.2.1, reason := r.2.2 },
        addr := ((ans.acc.lanes.find? fun a => a.lane == r.1).map (·.va)).getD 0 })

/-- An instruction's lanes that access a device page wait for every earlier access of theirs (R164). -/
def deviceWaits (s : State) (accs : List LaneAcc) : Bool :=
  accs.any (fun a => a.attr == 5) && accessesOut s s.cur.ctx (accs.map (·.lane)) .sys

/-- The access of an instruction whose lanes have passed their checks. -/
def performAccess (i : Instr) (s : State) (op : MemOp) (accs : List LaneAcc) : Out :=
  let o := i.opnds
  let posted := o.g.rlx && (match op with | .store _ | .red _ _ => true | _ => false)
  if muted s then replayAccess i s op o.x accs
  else if deviceWaits s accs then retry s
  else if posted then
    if postsFit s accs then .next (complete i (postLanes (touchAll s accs) op (s.free + 1) accs)) else retry s
  else if !accs.all (ownPkg s) then
    if accs.any fun a => journalOverlap s s.cur.ctx a.lane a.pa (opBytes op) then retry s
    else .next (pushFlight (waitAt (forceAll (touchAll s accs) op accs) .access)
      [.fabricRequestArrival { src := pkgOf (curCtx s).core, dst := 0, acc := accessOf s op o.x accs }])
  else if o.g.rlx then .next (performRelaxed i s op o.x accs)
  else .next (performPlain i s op o.x accs)

/-- The homes make their checks when the instruction issues: not where another package takes part, which checks every lane
at once (R147), nor where the access is relaxed and its strand waits for it. -/
def checksNow (s : State) (rlx : Bool) (accs : List LaneAcc) : Bool :=
  accs.all (ownPkg s) && (!rlx || coreKind (curCtx s).core == .lcore || muted s)

/-- The lanes' checks of a class-M access, with each lane's data. -/
def accessChecks (i : Instr) (s : State) (op : MemOp) (plain : Bool) : List (Except LaneFail Passed) :=
  (execLanes s).map fun l =>
    match checkLane s l op (memAddr i.opnds (curLane s l)) plain with
    | .ok p => Except.ok { p with acc := { p.acc with data := opData op i.opnds.x (curLane s l) } }
    | .error e => .error e

/-- A global access of class M: all lanes are checked before any performs (R149). -/
def runAccess (i : Instr) (s : State) (op : MemOp) : Out :=
  let o := i.opnds
  match (curLane s (execHead s)).wait with
  | .granted ans => finishRemote i s ans
  | _ =>
    let rs := accessChecks i s op (!o.g.rlx)
    let z := keepAll s rs
    match failsOf rs with
    | f :: fs => raiseMem i z (f :: fs)
    | [] =>
      let accs := accWords s op ((passesOf rs).map (·.acc))
      match watchReport i z false (watchKinds op) (accs.map fun a => (a.lane, a.va, opBytes op)) with
      | some r => r
      | none =>
        match if checksNow s o.g.rlx accs then homeFails s op accs else [] with
        | f :: fs => raiseMem i z (f :: fs)
        | [] => performAccess i z op accs

/-! ## `loc` (R142, R148) -/

/-- S of R142 for a lane: the log of an enabled replay is not in it, but for the keeper (R281). -/
def locLimit (s : State) (x : Ctx) (l : Nat) : Nat :=
  match locSpace x l with
  | .scratch c => scratchSize s c - (if replayOn s c && !isKeeper x then 16384 else 0)
  | sp => spaceSize s sp

/-- The checks of an LDL or STL lane (R166). -/
def checkLoc (s : State) (l : Nat) (op : MemOp) (o : Opnds) : Option LaneFail :=
  let x := curCtx s
  let a := (locAddr o (curLane s l)).toNat
  let n := opBytes op
  let fail (v r : Nat) : Option LaneFail :=
    some { lane := l, fail := { vector := v, reason := r }, addr := BitVec.ofNat 64 a }
  if a % n ≠ 0 then fail 8 0
  else if locLimit s x l < a + n then fail 9 1
  else none

/-- A lane of LDL reads a poisoned sector (R165). -/
def poisonLoc (s : State) (l : Nat) (op : MemOp) (o : Opnds) : Option LaneFail :=
  let a := (locAddr o (curLane s l)).toNat
  if opPoison op && spaceBad s (locSpace (curCtx s) l) a (opBytes op) then
    some { lane := l, fail := { vector := 14, reason := 0 }, addr := BitVec.ofNat 64 a }
  else none

/-- One lane of LDL or STL. -/
def locLane (s : State) (op : MemOp) (o : Opnds) (l : Nat) : State :=
  let a := curLane s l
  let addr := (locAddr o a).toNat
  let sp := locSpace (curCtx s) l
  match op with
  | .store _ => spaceStore s sp addr (leBytes (opBytes op) (opData op o.x a).toNat)
  | _ => modCurLane s l (landValue op o.x (spaceNat s sp addr (opBytes op)))

/-- LDL and STL. -/
def runLoc (i : Instr) (s : State) (op : MemOp) : Out :=
  let o := i.opnds
  let ls := execLanes s
  match ls.filterMap fun l => checkLoc s l op o with
  | f :: fs => raiseMem i s (f :: fs)
  | [] =>
    match watchReport i s true (watchKinds op)
        (ls.map fun l => (l, (locAddr o (curLane s l)).setWidth 64, opBytes op)) with
    | some r => r
    | none =>
      match ls.filterMap fun l => poisonLoc s l op o with
      | f :: fs => raiseMem i s (f :: fs)
      | [] => .next (complete i (ls.foldl (fun z l => locLane z op o l) s))

/-! ## Instructions -/

/-- LD (R148). -/
def execLd (sz : ISize) (o : Opnds) (s : State) : Out := runAccess (.ld sz o) s (.load sz)

/-- ST (R148). -/
def execSt (sz : ISize) (o : Opnds) (s : State) : Out := runAccess (.st sz o) s (.store sz)

/-- LDL (R148). -/
def execLdl (sz : ISize) (o : Opnds) (s : State) : Out := runLoc (.ldl sz o) s (.load sz)

/-- STL (R148). -/
def execStl (sz : ISize) (o : Opnds) (s : State) : Out := runLoc (.stl sz o) s (.store sz)

/-- ATOM (R159). -/
def execAtom (op : AtomOp) (w : Width) (o : Opnds) (s : State) : Out := runAccess (.atom op w o) s (.atom op w)

/-- CAS (R160). -/
def execCas (w : Width) (o : Opnds) (s : State) : Out := runAccess (.cas w o) s (.cas w)

/-- RED (R159). -/
def execRed (op : AtomOp) (w : Width) (o : Opnds) (s : State) : Out := runAccess (.red op w o) s (.red op w)

/-- AFN (R161). -/
def execAfn (f : BitVec 4) (w : Width) (o : Opnds) (s : State) : Out := runAccess (.afn f w o) s (.afn f w)

/-- LDQ: each lane takes an entry and issues its load (R151). -/
def execLdq (sz : ISize) (o : Opnds) (s : State) : Out :=
  let i := Instr.ldq sz o
  let q := o.x.toNat
  let ls := execLanes s
  match gateOf (ls.map fun l => (l, q, if 1 ≤ qFree (laneQ (curLane s l) q) then none else some (some 2))) with
  | .fail fs => raiseFails i s fs
  | _ =>
    let rs := ls.map fun l =>
      checkAddr s l (memAddr o (curLane s l)) (isizeBytes sz) .read false false
    let s1 := keepAll s rs
    match failsOf rs with
    | f :: fs => raiseMem i s1 (f :: fs)
    | [] =>
      let ps := passesOf rs
      match watchReport i s1 false (true, false) (ps.map fun p => (p.acc.lane, p.acc.va, isizeBytes sz)) with
      | some r => r
      | none =>
        if ps.any fun p => journalOverlap s s.cur.ctx p.acc.lane p.acc.pa (isizeBytes sz) then retry s1
        else
        let one (z : State) (p : Passed) : State :=
          let w := laneQ (curLane z p.acc.lane) q
          let z1 := modQueue z z.cur.ctx p.acc.lane q fun w =>
            { w with ents := tset {} w.ents w.prod {}, prod := (w.prod + 1) % 8, inflight := w.inflight + 1 }
          let e : QueueOp :=
            { ctx := z.cur.ctx, lane := p.acc.lane, queue := q, entry := w.prod, sz := sz, va := p.acc.va,
              pa := p.acc.pa, attr := p.acc.attr, data := 0, pc := curPc s }
          pushFlight z1 [.queueLoadFill e]
        .next (complete i (ps.foldl one (touchAll s1 (ps.map (·.acc)))))

/-- A lane's STQ takes a skip entry (R152). -/
def skipsStq (q : Nat) (a : Lane) : Bool := (qHead (laneQ a q)).skip

/-- STQ: each lane takes the entry at the consumer pointer and stores it (R152). -/
def execStq (sz : ISize) (o : Opnds) (s : State) : Out :=
  let i := Instr.stq sz o
  let q := 2 + o.x.toNat
  let ls := execLanes s
  match gateOf (ls.map fun l => (l, q, if 1 ≤ (laneQ (curLane s l) q).fill then none else some (some 1))) with
  | .fail fs => raiseFails i s fs
  | _ =>
    let rs := (ls.filter fun l => !skipsStq q (curLane s l)).map fun l =>
      match checkAddr s l (memAddr o (curLane s l)) (isizeBytes sz) .write false false with
      | .ok p => Except.ok
          { p with acc := { p.acc with data := (qHead (laneQ (curLane s l) q)).data.setWidth 128 } }
      | .error e => .error e
    let s1 := keepAll s rs
    match failsOf rs with
    | f :: fs => raiseMem i s1 (f :: fs)
    | [] =>
      let ps := passesOf rs
      let remote (p : Passed) : Bool := !ownPkg s p.acc
      match watchReport i s1 false (false, true) (ps.map fun p => (p.acc.lane, p.acc.va, isizeBytes sz)) with
      | some r => r
      | none =>
        if !postsFit s ((ps.filter remote).map (·.acc)) then retry s1
        else
          let drop (z : State) (l : Nat) : State := modQueue z z.cur.ctx l q fun w => qDrop w 1
          let one (z : State) (p : Passed) : State :=
            let l := p.acc.lane
            let w := laneQ (curLane z l) q
            let z1 := drop z l
            if remote p then enterJournal z1 z.cur.ctx (.store sz) p.acc [] (s.free + 1)
            else
              let e : QueueOp :=
                { ctx := z.cur.ctx, lane := l, queue := q, entry := w.cons, sz := sz, va := p.acc.va,
                  pa := p.acc.pa, attr := p.acc.attr, data := p.acc.data.setWidth 32, pc := curPc s }
              pushFlight (modQueue z1 z.cur.ctx l q fun w => { w with inflight := w.inflight + 1 })
                [.storeQueuePerform e]
          let s1 := touchAll s1 (ps.map (·.acc))
          if muted s then .next (complete i (ls.foldl drop s1))
          else .next (complete i (ps.foldl one ((ls.filter fun l => skipsStq q (curLane s l)).foldl drop s1)))

/-- QADV: k entries are discarded from a load queue, or k skip entries pushed to a store queue (R154, R156). A
faulty entry raises nothing (R155, log 69). -/
def execQadv (k : BitVec 3) (o : Opnds) (s : State) : Out :=
  let i := Instr.qadv k o
  let q := o.x.toNat
  let n := k.toNat + 1
  match gateOf ((execLanes s).map fun l =>
      let w := laneQ (curLane s l) q
      (l, q, if q < 2 then needFill w n else needFree w n)) with
  | .fail fs => raiseFails i s fs
  | .wait => retry s
  | .go =>
    let push (w : Queue) (_ : Nat) : Queue := qPush w { skip := true, filled := true }
    runLanes i s fun _ a _ =>
      setLaneQ q (if q < 2 then qDrop (laneQ a q) n else (List.range n).foldl push (laneQ a q)) a

/-- QRST: after the entries in flight, the queues are emptied (R156). -/
def execQrst (o : Opnds) (s : State) : Out :=
  let i := Instr.qrst o
  let qs := if o.x.toNat = 4 then [0, 1, 2, 3] else [o.x.toNat]
  if (execLanes s).any fun l => qs.any fun q => (laneQ (curLane s l) q).inflight != 0 then retry s
  else runLanes i s fun _ a _ => qs.foldl (fun b q => setLaneQ q {} b) a

/-- PREF: no architectural state changes; a walk of each address may fill the TLBs (R157, R430). -/
def execPref (t : BitVec 2) (o : Opnds) (s : State) : Out :=
  let walks := (execLanes s).map fun l =>
    let a := curLane s l
    Ev.pageWalk (xlBayOf (curCore s l)) a.ttb (memAddr o a)
  let seen := (execLanes s).filterMap fun l =>
    match checkAddr s l (memAddr o (curLane s l)) 1 .read false false with
    | .ok p => if t = 0 ∨ t = 1 then some p.acc else none
    | .error _ => none
  .next (pushFlight (complete (.pref t o) (touchAll s seen)) walks)

/-- FENCE waits for the accesses of the executing lanes (R163). -/
def runFence (i : Instr) (s : State) (loads : Bool) : Out :=
  let c := s.cur.ctx
  let ls := execLanes s
  let sc := i.opnds.g.scope
  let busy := if sc = .none ∨ sc = .strand then false
    else if loads then loadsOut s c ls || (sc == .sys && journalOut s c ls none)
    else accessesOut s c ls sc
  if busy then retry s else .next (complete i s)

/-- FENCE (R163). -/
def execFence (o : Opnds) (s : State) : Out := runFence (.fence o) s false

/-- FENCE.acq: earlier loads (R163). -/
def execFenceAcq (o : Opnds) (s : State) : Out := runFence (.fenceAcq o) s true

/-- FENCE.rel (R163). -/
def execFenceRel (o : Opnds) (s : State) : Out := runFence (.fenceRel o) s false

/-! ## Events of accesses -/

/-- QUEUE_LOAD_FILL (R151). -/
def execQueueLoadFill (s : State) : Out :=
  match s.ev with
  | some (.queueLoadFill q) => .next (queueFill s q)
  | _ => .fault .noEvent

/-- STORE_QUEUE_PERFORM (R152). -/
def execStoreQueuePerform (s : State) : Out :=
  match s.ev with
  | some (.storeQueuePerform q) => .next (queueStore s q)
  | _ => .fault .noEvent

/-- RELAXED_LOAD_RETURN (R145). -/
def execRelaxedLoadReturn (s : State) : Out :=
  match s.ev with
  | some (.relaxedLoadReturn a) => .next (relaxedReturn s a)
  | _ => .fault .noEvent

/-- RELAXED_STORE_PERFORM (R147). -/
def execRelaxedStorePerform (s : State) : Out :=
  match s.ev with
  | some (.relaxedStorePerform p) => .next (relaxedSome s p)
  | _ => .fault .noEvent

/-- JOURNAL_ENTRY_PERFORM (R244). -/
def execJournalEntryPerform (s : State) : Out :=
  match s.ev with
  | some (.journalEntryPerform core id) => .next (journalPerform s core id)
  | _ => .fault .noEvent

/-- JOURNAL_REFUSAL (R245). -/
def execJournalRefusal (s : State) : Out :=
  match s.ev with
  | some (.journalRefusal core id reason) => .next (journalRefuse s core id reason)
  | _ => .fault .noEvent

/-- JOURNAL_REFUSAL_TRAP (R245). -/
def execJournalRefusalTrap (s : State) : Out :=
  match s.ev with
  | some (.journalRefusalTrap ctx lane) => .next (refusalTrap s ctx lane)
  | _ => .fault .noEvent

end Sys2Proof.Machine
end

