-- ==== Sys2Proof/Machine/Place.lean ====
section
/-! DEFINITION. Kernels, workspaces and new contexts: reading a kernel descriptor and its points (R397, R399, R493 to
R495), placing a workspace (R367, R508), and the state a context starts with (R15, R17, R20, R372, R423). -/

namespace Sys2Proof.Machine

open Sys2Proof

/-! ## Reading memory at a virtual address, as plain loads read it -/

/-- Who reads: the core, the root, the privilege and the task tag; whether as a core's plain loads, which meet its cache, or
as a unit that reads at the home (R397, R412). -/
structure Reader where
  core   : Nat
  ttb    : DWord
  priv   : Bool
  task   : BitVec 24
  cached : Bool := true
  deriving DecidableEq, Repr

/-- Up to 8 bytes of one aligned word; none where the read fails or meets poison. -/
def virtWord (s : State) (r : Reader) (va : DWord) (n : Nat) : Option (List Byte) :=
  match translate s r.core r.ttb va .read r.priv with
  | .error _ => none
  | .ok (p, _, pa) =>
    if (attrFail (pkgOf r.core) p pa false false).isSome then none
    else if !accPasses s (pkgOf r.core) r.task pa n .read then none
    else if (if r.cached then readBad s r.core p.attr pa n else memBad s pa n) then none
    else if targetOf pa = .window then some (List.replicate n 0)
    else if r.cached then some ((List.range n).map fun k => peekByte s r.core p.attr 0 (pa + k))
    else some (memBytes s pa n)

/-- n bytes from an address, in words that end at a multiple of 8. -/
def virtBytes (s : State) (r : Reader) : Nat → DWord → Nat → Option (List Byte)
  | 0, _, _ => some []
  | fuel + 1, va, n =>
    if n = 0 then some []
    else
      let k := Nat.min n (8 - va.toNat % 8)
      match virtWord s r va k, virtBytes s r fuel (va + BitVec.ofNat 64 k) (n - k) with
      | some a, some b => some (a ++ b)
      | _, _ => none

/-- n bytes of a list from an offset, as a number. -/
def at_ (l : List Byte) (off n : Nat) : Nat := leNat ((l.drop off).take n)

/-! ## Kernels (R493 to R495) -/

/-- n bytes as a reader reads them. -/
def readAs (r : Reader) (s : State) (va : DWord) (n : Nat) : Option (List Byte) := virtBytes s r (n / 8 + 2) va n

/-- The fields of an image head keep their limits (R493). -/
def headOk (h : List Byte) : Bool :=
  1 ≤ at_ h 6 2 && at_ h 6 2 ≤ 16 && 1 ≤ at_ h 8 4 && at_ h 8 4 ≤ 4096 && at_ h 16 8 ≤ 2 ^ 32
    && at_ h 12 4 == 0 && at_ h 32 32 == 0

/-- The image head at or below a page that covers a descriptor: the nearest page that starts with MAGIC and VERSION
(R493, R495, log 31). -/
def findHead (s : State) (r : Reader) (desc : Nat) : Nat → Nat → Option (Nat × List Byte)
  | 0, _ => none
  | fuel + 1, b =>
    match readAs r s (BitVec.ofNat 64 b) 64 with
    | none => none
    | some h =>
      if at_ h 0 4 = 0x574B5253 ∧ at_ h 4 2 = 1 then
        if b + 64 ≤ desc ∧ (desc - b - 64) % 128 = 0 ∧ (desc - b - 64) / 128 < at_ h 8 4 ∧ headOk h = true
        then some (b, h) else none
      else if desc < b + 64 + 128 * 4096 ∧ 4096 ≤ b then findHead s r desc fuel (b - 4096) else none

/-- The bounds of the section of a kind; none where a section table entry cannot be read. -/
def section_ (s : State) (r : Reader) (b tab kind : Nat) : Nat → Option (Nat × Nat)
  | 0 => some (0, 0)
  | n + 1 =>
    match readAs r s (BitVec.ofNat 64 (tab + 32 * n)) 32 with
    | none => none
    | some e => if at_ e 0 2 = kind then some (b + at_ e 8 8, b + at_ e 8 8 + at_ e 16 8) else section_ s r b tab kind n

/-- Every section table entry can be read and keeps its limits (R493). -/
def sectionsOk (s : State) (r : Reader) (tab n : Nat) : Bool :=
  (List.range n).all fun k => match readAs r s (BitVec.ofNat 64 (tab + 32 * k)) 32 with
    | some e => 2 ≤ at_ e 2 2 && at_ e 2 2 ≤ 16 && at_ e 4 4 == 0 && at_ e 24 8 == 0
    | none => false

/-- A register need and entry of one form agree with R495. -/
def needOk (need entry top : Nat) : Bool :=
  if entry = 0 then need == 0 else need % 4 == 0 && 8 ≤ need && need ≤ top

/-- The descriptor of a kernel, read and checked (R495). -/
def readKernel (s : State) (r : Reader) (desc : DWord) : Option Kernel :=
  let d := desc.toNat
  if d % 64 ≠ 0 then none
  else
    match readAs r s desc 128, findHead s r d 130 (d / 4096 * 4096) with
    | some k, some (b, h) =>
      let kent := at_ k 0 8
      let went := at_ k 8 8
      let inside (e kind : Nat) : Bool :=
        e == 0 || (match section_ s r b (b + at_ h 24 8) kind (at_ h 6 2) with
          | some (lo, hi) => lo ≤ e && e < hi
          | none => false)
      if at_ k 40 2 ≤ 4096 ∧ at_ k 56 2 ≤ 256 ∧ at_ k 72 2 ≤ 256 ∧ at_ k 88 2 ≤ 4096 ∧ at_ k 44 1 ≤ 3
          ∧ at_ k 45 1 + at_ k 58 6 + at_ k 74 6 + at_ k 90 6 = 0
          ∧ needOk (at_ k 42 1) kent 32 = true ∧ needOk (at_ k 43 1) went 64 = true
          ∧ sectionsOk s r (b + at_ h 24 8) (at_ h 6 2) = true ∧ inside kent 1 = true ∧ inside went 2 = true then
        some { desc, kent := pcBits .k (BitVec.ofNat 64 kent), went := pcBits .w (BitVec.ofNat 64 went),
               kbase := BitVec.ofNat 64 (at_ k 16 8),
               wbase := BitVec.ofNat 64 (at_ k 24 8), eqrec := BitVec.ofNat 64 (at_ k 32 8), neq := at_ k 40 2,
               kneed := at_ k 42 1, wneed := at_ k 43 1, wcode := at_ k 44 1, lease := at_ k 46 2,
               kpf := BitVec.ofNat 64 (at_ k 48 8), nkpf := at_ k 56 2, wpf := BitVec.ofNat 64 (at_ k 64 8),
               nwpf := at_ k 72 2 }
      else none
    | _, _ => none

/-- The entry of a kernel in a form; 0 for none. -/
def kernelEntry (k : Kernel) (f : Form) : DWord := match f with | .k => k.kent | .w => k.went
/-- The register need of a kernel in a form (R179). -/
def kernelNeed (k : Kernel) (f : Form) : Nat := match f with | .k => k.kneed | .w => k.wneed

/-! ## Points (R397, R399) -/

/-- A point record without its live entries: KPC, WPC, NUM, and the numbers of live entries and rejoin pairs. -/
structure PointRec where
  addr  : DWord
  kpc   : DWord
  wpc   : DWord
  num   : Nat
  nlive : Nat
  nrj   : Nat
  deriving DecidableEq, Repr

/-- The point records of a kernel from an address; none where a read fails (R399). -/
def pointRecs (s : State) (r : Reader) (k : Kernel) : Nat → DWord → Option (List PointRec)
  | 0, _ => some []
  | n + 1, a =>
    match readAs r s a 22 with
    | none => none
    | some e =>
      let p : PointRec := { addr := a, kpc := pcBits .k (k.kbase + BitVec.ofNat 64 (at_ e 0 8)),
                            wpc := pcBits .w (k.wbase + BitVec.ofNat 64 (at_ e 8 8)),
                            num := at_ e 16 2, nlive := at_ e 18 2, nrj := at_ e 20 2 }
      match pointRecs s r k n (a + BitVec.ofNat 64 (32 + 8 * p.nlive + 16 * p.nrj)) with
      | none => none
      | some t => some (p :: t)

/-- The point list of a context that starts on a kernel; empty where a read fails (R397). -/
def readPoints (s : State) (r : Reader) (k : Kernel) : List (DWord × DWord × Nat) :=
  match pointRecs s r k k.neq k.eqrec with
  | none => []
  | some l => l.map fun p => (p.kpc, p.wpc, p.num)

/-! ## Workspaces (R367, R508) -/

/-- The bytes of a workspace for a register need. -/
def wsBytes (need : Nat) : Nat := (4 * need + 512 + 127) / 128 * 128

/-- The size of a core's workspace region (R185, R455); an L-core has none. -/
def wsRegion (s : State) (core : Nat) : Nat :=
  match coreKind core with
  | .dcore => lcWs (lcarve s core) * 4096
  | .eave => 8192
  | .lcore => 0

/-- The workspaces allocated on a core, as offsets and sizes; `skip` are contexts left out. -/
def wsUsed (s : State) (skip : List Nat) (core : Nat) : List (Nat × Nat) :=
  s.ctxs.filterMap fun e =>
    if e.2.wsOn && onCore e.2 core && !skip.contains e.1 then some (e.2.wsptr.toNat, e.2.wsize) else none

/-- n bytes at an offset are free on a core. -/
def wsFree (s : State) (skip : List Nat) (core off n : Nat) : Bool :=
  off + n ≤ wsRegion s core
    && (wsUsed s skip core).all fun u => off + n ≤ u.1 || u.1 + u.2 ≤ off

/-- The lowest offset at which n bytes are free on every core of a list. -/
def wsFit (s : State) (skip : List Nat) (cores : List Nat) (n : Nat) : Option Nat :=
  ((List.range 1024).map (· * 128)).find? fun off => cores.all fun k => wsFree s skip k off n

/-- The cores of a fused set. -/
def setCores (base n : Nat) : List Nat := (List.range n).map (base + ·)

/-- The resident courses of a Truss or Gable. -/
def residents (s : State) (truss : Nat) : List (Nat × Ctx) :=
  s.ctxs.filter fun e => e.2.alive && !e.2.pending && !isStrand e.2 && trussOf e.2.core == truss
/-- The courses of a Truss or Gable, with those that are placed and not yet resident (R367, R374). -/
def heldCourses (s : State) (truss : Nat) : List (Nat × Ctx) :=
  s.ctxs.filter fun e => e.2.alive && !isStrand e.2 && trussOf e.2.core == truss

/-- The lowest resident course number that is free on a Truss (log 32). -/
def freeNum (s : State) (truss : Nat) : Option Nat :=
  (List.range 1024).find? fun n => (courseNum s truss n).isNone

/-- A fused set of a width of a Truss that can take one more course of a need: its lowest core, and the offset (R367). -/
def trussTakes (s : State) (truss width need : Nat) : Option (Nat × Nat) :=
  if 1024 ≤ (heldCourses s truss).length then none
  else
    ((List.range (32 / width)).map fun k => truss * 64 + k * width).findSome? fun base =>
      (wsFit s [] (setCores base width) (wsBytes need)).map fun off => (base, off)

/-- A free context 1-3 of an L-core: one that no context is bound to and no unreaped workspace holds. -/
def lFree (s : State) (core : Nat) : Option Nat :=
  [1, 2, 3].find? fun c => !s.ctxs.any fun e => e.2.wsOn && e.2.core == core && e.2.wsptr.toNat == c

/-- The lowest L-core of a Gable with a free context, and the context (R367). -/
def gableTakes (s : State) (gable : Nat) : Option (Nat × Nat) :=
  ((List.range 8).map (gable * 64 + ·)).findSome? fun k => (lFree s k).map fun c => (k, c)

/-- A free slot of a D-core or Eave core for a split strand, with room for a workspace. -/
def slotTakes (s : State) (core need : Nat) : Option (Nat × Nat) :=
  match ((List.range (slotCount (coreKind core))).drop 1).find? fun k => (boundAt s core k).isNone,
      wsFit s [] [core] (wsBytes need) with
  | some k, some off => some (k, off)
  | _, _ => none

/-! ## New contexts -/

/-- What all lanes of a new context share. -/
structure Birth where
  core   : Nat
  pc     : DWord
  b      : List DWord
  slim   : Word
  ttb    : DWord
  task   : BitVec 24
  txr    : Bool
  rm     : BitVec 2
  kernel : Kernel
  parentNode : Nat
  parentWord : Word
  lnid   : DWord := 0
  lndim  : DWord := 0
  launch : Option (Nat × Nat) := none
  bundle : Nat := 0
  deriving DecidableEq, Repr

/-- A table of values from 0 on. -/
def tabOf {α : Type} [DecidableEq α] (d : α) (l : List α) : Tab α :=
  (l.mapIdx fun k v => (k, v)).foldl (fun t e => tset d t e.1 e.2) []

/-- A new lane: its seed and first registers; every other register is 0 (R15, R17, R20). -/
def birthLane (u : Birth) (form : Form) (seed : Word) (regs : List Word) : Lane :=
  { status := startStatus seed false form u.txr u.rm, b := tabOf 0 u.b, slim := u.slim, ttb := u.ttb, pc := u.pc,
    regs := tabOf 0 regs, lnid := u.lnid, lndim := u.lndim }

/-- LINIT of a course's Truss, or of Truss 0 of its bay for a Gable (R387). -/
def linit (s : State) (core : Nat) : Nat :=
  fld (trussReg s (match coreKind core with | .lcore => bayOf core * 16 | _ => trussOf core) 0x193) 16 16

/-- The lease of a new course (R387). -/
def birthLease (s : State) (core kib : Nat) : LeaseRec :=
  let n := linit s core
  if kib = 0 then { lines := n, est := n } else { decl := true, lines := 8 * kib, est := n }

/-- Adds a context. -/
def addCtx (s : State) (x : Ctx) : State := { setCtx s s.nextCtx x with nextCtx := s.nextCtx + 1 }

/-- The reader that reads a new context's points. -/
def birthReader (u : Birth) : Reader := { core := u.core, ttb := u.ttb, priv := false, task := u.task }

/-- The fields of a new context that do not depend on its kind. -/
def birthCtx (s : State) (u : Birth) (need off size : Nat) : Ctx :=
  { alive := true, core := u.core, need, wsOn := true, wsptr := BitVec.ofNat 32 off, wsize := size, kernel := u.kernel,
    task := u.task, points := readPoints s (birthReader u) u.kernel, parentNode := u.parentNode,
    parentWord := u.parentWord, launch := u.launch, bundle := u.bundle }

/-- A context is bound to slot k of cores: what a pre-emption had left there is rebound, core by core (R353), and a
selection that stood on the slot without a context is made again for the one that is bound (R270). -/
def clearLeft (s : State) (cores : List Nat) (k : Nat) : State :=
  let s1 := s.ctxs.foldl (fun z e =>
    if e.2.left = some k ∧ cores.any (onCore e.2) = true
    then modCtx z e.1 fun x => { x with rebound := x.rebound ++ cores.filter fun c => onCore x c && !x.rebound.contains c }
    else z) s
  cores.foldl (fun z c => if (getCore z c).bezel.selected = some k then
    modCore z c fun e => { e with bezel := { e.bezel with selected := none } } else z) s1

/-- A new split strand in a slot. -/
def addStrand (s : State) (u : Birth) (slot off : Nat) (regs : List Word) : State :=
  let f := kindForm (coreKind u.core)
  let need := kernelNeed u.kernel f
  addCtx (clearLeft s [u.core] slot) { birthCtx s u need off (wsBytes need) with
    kind := .strand, slot := some slot, lanes := [birthLane u f (seedOf (nodeId s u.core) slot 0) regs] }

/-- The lanes of a course: which of the positions of a width are alive, with their first registers. -/
def courseLanes (u : Birth) (f : Form) (node : Nat → Nat) (num : Nat) (gable : Bool) (width : Nat)
    (live : Nat → Option (List Word)) : List Lane :=
  (List.range width).map fun l =>
    match live l with
    | some regs => birthLane u f (seedOf (node l) num (if gable then l else 0)) regs
    | none => { birthLane u f (seedOf (node l) num (if gable then l else 0)) [] with live := false, actv := false }

/-- A new course on a Truss: resident and ready (R199, R374). -/
def addCourse (s : State) (u : Birth) (num width off : Nat) (live : Nat → Option (List Word)) : State :=
  let need := kernelNeed u.kernel .k
  let t := trussOf u.core
  let s1 := addCtx s { birthCtx s u need off (wsBytes need) with
    kind := .course, num, lanes := courseLanes u .k (fun l => nodeId s (u.core + l)) num false width live,
    lease := birthLease s u.core u.kernel.lease, readyAt := trussCycle s t }
  pushDue s1 [.courseActivation t]

/-- A new course in a context of an L-core. -/
def addGable (s : State) (u : Birth) (slot width : Nat) (live : Nat → Option (List Word)) : State :=
  let num := 4 * (u.core % 64) + slot
  addCtx (clearLeft s [u.core] slot) { birthCtx s u (kernelNeed u.kernel .w) slot 0 with
    kind := .gable, num, slot := some slot,
    lanes := courseLanes u .w (fun _ => nodeId s u.core) num true width live,
    lease := birthLease s u.core u.kernel.lease }

end Sys2Proof.Machine
end

