-- ==== Sys2Proof/Machine/Classes.lean ====
section
/-! DEFINITION. Message classes: their registers, their buffers, and what binds them (R213 to R217, R228, R233). -/

namespace Sys2Proof.Machine

open Sys2Proof

/-! ## MCLS (R215) -/

def mcls (s : State) (core c : Nat) : DWord := coreReg s core (0x110 + c)
def setMcls (s : State) (core c : Nat) (v : DWord) : State := setCoreReg s core (0x110 + c) v

def mcEn (v : DWord) : Bool := v.getLsbD 31
def mcBnd (v : DWord) : Bool := v.getLsbD 30
def mcOrd (v : DWord) : Nat := fld v 28 2
def mcFsens (v : DWord) : Bool := v.getLsbD 27
def mcCrs (v : DWord) : Bool := v.getLsbD 26
def mcTgt (v : DWord) : Nat := if mcCrs v then fld v 16 10 else fld v 16 4
def mcLog (v : DWord) : Nat := fld v 12 4
def mcBase (v : DWord) : Nat := fld v 0 12
def mcHead (v : DWord) : Nat := fld v 44 10
def mcCount (v : DWord) : Nat := fld v 32 11

/-- The fields that SETS and MBIND write: EN, ORD, FSENS, LOG2N and BASE. -/
def mcMask : DWord := 0xB800FFFF
def mcApply (old v : DWord) : DWord := (old &&& ~~~mcMask) ||| (v &&& mcMask)

/-- CRS and TGT of a context: bits 26:16 of MCLS. -/
def mcWord (x : Ctx) : Nat := match x.kind with | .course => 1024 + x.num % 1024 | _ => x.slot.getD 0 % 16

/-- The class is bound to a context. -/
def mcOwns (v : DWord) (x : Ctx) : Bool :=
  mcBnd v && fld v 16 11 == mcWord x && (!isStrand x || x.slot.isSome)

/-- The context that a class is bound to. -/
def mcHolder (s : State) (core : Nat) (v : DWord) : Option Nat :=
  if !mcBnd v then none
  else if mcCrs v then courseNum s (trussOf core) (mcTgt v)
  else boundAt s core (mcTgt v)

/-- Every class that is bound to a context loses its binding (R233). -/
def unbindAll (s : State) (x : Ctx) : State :=
  (setCores x.core (ctxWidth x)).foldl (fun z k =>
    (List.range 8).foldl (fun z c =>
      let v := mcls z k c
      if mcOwns v x then setMcls z k c (setFld v 30 1 0) else z) z) s

/-- A context holds a binding on some class (R233). -/
def bindsAny (s : State) (x : Ctx) : Bool :=
  (setCores x.core (ctxWidth x)).any fun k => (List.range 8).any fun c => mcOwns (mcls s k c) x

/-! ## Buffers (R216) -/

/-- The physical base of an L-core class's buffer, or why it has none (R216). -/
def bufferPa (s : State) (core : Nat) (ttb b6 : DWord) (priv : Bool) (base log2n : Nat) : Option Nat :=
  let va := b6 + BitVec.ofNat 64 (base * 64)
  match translate s core ttb va .write priv with
  | .error _ => none
  | .ok (p, _, pa) =>
    let n := 64 * 2 ^ log2n
    if (attrFail (pkgOf core) p pa false false).isSome then none
    else if p.attr ≤ 1 ∧ va.toNat % 2 ^ pageLog p.size + n ≤ 2 ^ pageLog p.size then some pa else none

/-- Why a class configuration is refused: 0 where it is not, else reason 5 or 6 (R228). -/
def classReason (s : State) (core : Nat) (old new : DWord) (lbuf : Option Nat) : Nat :=
  let n := 2 ^ mcLog new
  if 10 < mcLog new ∨ mcOrd new = 3 ∨ mcBase new % n ≠ 0 then 5
  else if coreKind core ≠ .lcore ∧ scratchSize s core < (mcBase new + n) * 64 then 5
  else if coreKind core = .lcore ∧ lbuf.isNone = true then 5
  else if mcCount old ≠ 0 ∧ (mcBase old ≠ mcBase new ∨ mcLog old ≠ mcLog new ∨ mcOrd old ≠ mcOrd new) then 6
  else 0

/-- The class of an L-core records its buffer (R216). -/
def recordBuffer (s : State) (core c : Nat) (lbuf : Option Nat) : State :=
  match coreKind core, lbuf with
  | .lcore, some pa => modCore s core fun e => { e with mbuf := tset (0, 0) e.mbuf c (1, pa) }
  | _, _ => s

/-- A SETS of MCLS on an L-core records the buffer again: the result has EN, and EN, BASE or LOG2N changes (R216). -/
def setsRecords (old new : DWord) : Bool :=
  mcEn new && (!mcEn old || mcBase old != mcBase new || mcLog old != mcLog new)

/-- Writes the 64 bytes of a buffer entry: those that another package refuses are not written (R480, log 149). -/
def entryPut (s : State) (core c k : Nat) (bs : List Byte) : State :=
  let v := mcls s core c
  match coreKind core with
  | .lcore =>
    let pa := (tget (0, 0) (getCore s core).mbuf c).2 + 64 * k
    if accPasses s (pkgOf core) 0 pa 64 .write then storeHome s pa bs else s
  | _ => spaceStore s (.scratch core) (mcBase v * 64 + 64 * k) bs

/-- Word 0 of the header that a buffer entry holds. -/
def entryWord0 (s : State) (core c k : Nat) : Nat :=
  let v := mcls s core c
  match coreKind core with
  | .lcore => memNat s ((tget (0, 0) (getCore s core).mbuf c).2 + 64 * k) 4
  | _ => spaceNat s (.scratch core) (mcBase v * 64 + 64 * k) 4

/-- The message address of a buffer entry, as a context reads it (R216, R229). -/
def entryAddr (x : Ctx) (core : Nat) (v : DWord) (k : Nat) : Nat :=
  let o := mcBase v * 64 + 64 * k
  match x.kind with
  | .course => trussAddr (core % 64) o
  | _ => o

/-- The context that a class is bound to and that a pre-emption has taken from its slot (R353). -/
def mcAway (s : State) (core : Nat) (v : DWord) : Option Nat :=
  if mcBnd v && !mcCrs v then
    (s.ctxs.find? fun e => e.2.alive && e.2.left == some (mcTgt v) && onCore e.2 core).map (·.1)
  else none

/-- A message delivered into a class: the entry is written and counted, CSTAMP advances, and the log records it (R219,
R262, R282); the SLOT of the log entry is the class's TGT or 0 where no context of it stands in a slot (log 142). -/
def deliverClass (s : State) (core c : Nat) (bs : List Byte) (stamp : Word) : State :=
  let v := mcls s core c
  let s1 := entryPut s core c ((mcHead v + mcCount v) % 2 ^ mcLog v) bs
  let s2 := stampTake (setMcls s1 core c (setFld v 32 11 (mcCount v + 1))) core stamp
  match (mcHolder s2 core v).or (mcAway s2 core v) with
  | none => if mcBnd v && mcTgt v == 0 then s2 else logInput s2 core 1 (if mcBnd v then mcTgt v else 0) 0 c 0xFFFFFFFF 0 bs
  | some k =>
    let x := getCtx s2 k
    if isKeeper x then s2
    else logInput s2 core 1 (x.slot.getD (x.left.getD 0)) (laneOn x core) c (getLane x (laneOn x core)).replay 0 bs

end Sys2Proof.Machine
end

