-- ==== Sys2Proof/Machine/Sys.lean ====
section
/-! DEFINITION. GETS and SETS: the value of every system register, its writable fields at each PRIV, and the checks of a
write (R7, R13, R16, R189, R195 and the maps of the other chapters). -/

namespace Sys2Proof.Machine

open Sys2Proof

/-! ## Reading (R195) -/

/-- A feature bit has been granted (R473): FEATGNT lies at 0x30 of the register block. -/
def granted (s : State) (pkg bit : Nat) : Bool := (pkgReg s pkg (0x30 + bit / 64 * 8)).getLsbD (bit % 64)

/-- SLOTS (R189). -/
def slotsReg (s : State) (core : Nat) : DWord :=
  let one (n : Nat) (e : Nat × Ctx) : Nat :=
    let k := e.2.slot.getD 0
    n + 2 ^ k + (if e.2.kind = .course then 2 ^ (16 + k) else 0)
  BitVec.ofNat 64 ((boundOn s core).foldl one 0)

/-- BZCTL with CURV and CUR (R269). -/
def bzctlReg (s : State) (core : Nat) : DWord :=
  let v := coreReg s core 0x150
  match (getCore s core).bezel.selected with
  | some k => setFld (setFld v 4 1 1) 0 4 k
  | none => v

/-- A register that an L-core does not have: it reads as 0 and a write leaves it unchanged (R189, R190, R260, R287, R357). -/
def lcoreZero (idx : Nat) : Bool :=
  idx == 0x102 || idx == 0x103 || (0x150 ≤ idx && idx ≤ 0x152) || (0x15D ≤ idx && idx ≤ 0x15F)
    || (0x190 ≤ idx && idx ≤ 0x194) || idx == 0x1A0 || idx == 0x1A1 || (0x200 ≤ idx && idx ≤ 0x27F)

/-- A register that its kind of core does not have. -/
def absentReg (core idx : Nat) : Bool :=
  match coreKind core with
  | .lcore => lcoreZero idx
  | .eave => idx == 0x102 || idx == 0x103
  | .dcore => false

/-- A completion counter as a core of the Truss, or an Eave core, reads it (R325, R455). -/
def ccReg (s : State) (core n : Nat) : DWord :=
  match coreKind core with
  | .eave => tget 0 (getCore s core).cc n
  | _ => tget 0 (getTruss s (trussOf core)).cc n
def setCcReg (s : State) (core n : Nat) (v : DWord) : State :=
  match coreKind core with
  | .eave => modCore s core fun c => { c with cc := tset 0 c.cc n v }
  | _ => modTruss s (trussOf core) fun t => { t with cc := tset 0 t.cc n v }

/-- Registers of the strand and of its trap record (R16, R239, R366, R387, R422). -/
def strandReg (x : Ctx) (a : Lane) (idx : Nat) : DWord :=
  match idx with
  | 0x000 => a.status
  | 0x001 => a.slim.setWidth 64
  | 0x002 => x.task.setWidth 64
  | 0x003 => x.wsptr.setWidth 64
  | 0x004 => a.lnid
  | 0x005 => a.lndim
  | 0x006 => if isStrand x then 0 else BitVec.ofNat 64 (x.lease.lines % 2 ^ 20 + if x.lease.decl then 2 ^ 31 else 0)
  | 0x007 => a.ttb
  | 0x130 => a.epc
  | 0x131 => a.estatus
  | 0x132 => a.tcause
  | 0x133 => a.tpc
  | 0x134 => a.teq
  | 0x135 => a.txpc
  | 0x136 => a.taddr
  | 0x137 => a.tmask.setWidth 64
  | 0x138 => a.tscr0
  | _ => a.tscr1

/-- Registers that are derived from other state (R189, R190, R214, R239, R252, R281, R287, R365, R392). -/
def derivedReg (s : State) (core idx : Nat) : Option DWord :=
  let t := trussOf core
  match idx with
  | 0x100 => some (BitVec.ofNat 64 (nodeId s core))
  | 0x101 => some (BitVec.ofNat 64 (cycOf s core))
  | 0x104 => some (slotsReg s core)
  | 0x105 => some (BitVec.ofNat 64 ((getCore s core).spawnQ.length + 256 * (getCore s core).exitQ.length))
  | 0x119 => some (BitVec.ofNat 64 (pkgOf core * 2 ^ 44 + 0xF0000000000))
  | 0x145 => if coreKind core = .lcore then some 0x80070000 else none
  | 0x150 => some (bzctlReg s core)
  | 0x15E => some (BitVec.ofNat 64 (fld (coreReg s core 0x15E) 0 14))
  | 0x15F => some (BitVec.ofNat 64 (fld (coreReg s core 0x15F) 0 14))
  | 0x191 => some (BitVec.ofNat 64 (fld (trussReg s t 0x191) 0 1 + 2 ^ 16 * (residents s t).length))
  | 0x192 => some (BitVec.ofNat 64 (trussCap s t))
  | 0x194 => some (BitVec.ofNat 64 (trussSum s t))
  | 0x1D1 => some (BitVec.ofNat 64 (((getDie s (dieOf core)).launches.filter fun l => l.next < l.nbund).length))
  | 0x1D2 =>
    let gs := (getDie s (dieOf core)).graphs.filter fun g => g.2.used
    some (BitVec.ofNat 64 (gs.length + 256 * (gs.flatMap fun g => g.2.nodes.filter fun n => n.state == 2 && !n.host && decide (at_ n.bytes 54 2 % 4 = 0)).length))
  | _ => none

/-- A system register, as a lane of a context reads it. -/
def sysRead (s : State) (ctx l idx : Nat) : DWord :=
  let x := getCtx s ctx
  let core := laneCore x l
  if idx < 8 ∨ (0x130 ≤ idx ∧ idx ≤ 0x139) then strandReg x (getLane x l) idx
  else if absentReg core idx then 0
  else
    match derivedReg s core idx with
    | some v => v
    | none =>
      if 0x200 ≤ idx then ccReg s core (idx - 0x200)
      else if 0x1F0 ≤ idx ∨ (0x1B0 ≤ idx ∧ idx ≤ 0x1D3) then dieReg s (dieOf core) idx
      else if 0x1E0 ≤ idx then bayReg s (bayOf core) idx
      else if 0x190 ≤ idx ∧ idx ≤ 0x194 then trussReg s (trussOf core) idx
      else coreReg s core idx

/-- A GETS of the register is an input that the replay log keeps (R282). -/
def getsLogged (idx : Nat) : Bool :=
  idx == 0x101 || idx == 0x104 || idx == 0x105 || (0x110 ≤ idx && idx ≤ 0x118) || idx == 0x155 || idx == 0x141
    || (0x160 ≤ idx && idx ≤ 0x180)

/-- The register index of GETS and SETS. -/
def sysIdx (o : Opnds) : Nat := (o.imm.extractLsb' 0 12).toNat

/-- GETS (R195). -/
def execGets (o : Opnds) (s : State) : Out :=
  let i := Instr.gets o
  let idx := sysIdx o
  let ls := execLanes s
  if muted s && getsLogged idx then
    match replayTake s 4 with
    | some (s1, d) => .next (complete i (modExec s1 fun _ a => setLanePair o.x.toNat (BitVec.ofNat 64 (leNat (d.take 8))) a))
    | none => replayStop s
  else
    let s1 := if getsLogged idx then
        ls.foldl (fun z l => logLane z s.cur.ctx (curPc s) 4 l (leBytes 8 (sysRead s s.cur.ctx l idx).toNat)) s
      else s
    .next (complete i (modExec s1 fun l a => setLanePair o.x.toNat (sysRead s s.cur.ctx l idx) a))

/-! ## Writing (R195) -/

/-- STATUS as SETS writes it: LFSR, TXR, the flags and RM; an LFSR of 0 becomes 1 (R13, R15). -/
def statusWrite (old v : DWord) : DWord :=
  let lfsr := v.extractLsb' 32 32
  (if lfsr = 0 then 1 else lfsr) ++ ((old.extractLsb' 8 24) ++ (v.extractLsb' 0 8))

/-- The fields of a register that a plain SETS writes with PRIV = 1. -/
def rwMask (s : State) (core idx : Nat) : DWord :=
  let pkg := pkgOf core
  let feat (bit : Nat) (m : DWord) : DWord := if granted s pkg bit then m else 0
  match idx with
  | 0x103 => 0xFF
  | 0x140 => 0xFFFFFFFFFFFFF000
  | 0x142 => 0xF
  | 0x143 => 0xFFFFFFFFFFFFFFFF
  | 0x144 => 0x07FF000F
  | 0x145 => 0x8000FFFF
  | 0x146 => 0x00FFFFFF
  | 0x150 => 0xFF0F0000
  | 0x151 => 0x03FF03FF
  | 0x152 => 0xFFFFFFFF00FFFFFF
  | 0x153 => 0xEF000000
  | 0x155 => 0xFFFFFFFF
  | 0x156 => 0x8BFF000F
  | 0x158 | 0x159 => 0x81FFFFFFFFFFFFFF
  | 0x15A | 0x15B => 0x01FFFFFFFFFFFFFF
  | 0x15C => 0xFFFF
  | 0x15D => 0xB80F0000
  | 0x15F => 0x3FF0
  | 0x190 => 0xFF1F
  | 0x193 => 0xFFFF1F07
  | 0x1A0 => 0x80001FFFFFFFFFFF
  | 0x1D0 => feat 5 1 ||| feat 3 2
  | 0x1E0 => feat 4 0xC0000000 ||| 0x20FFF000
  | 0x1E1 => 0x03FFF003
  | 0x1F0 => feat 2 1
  | 0x1F1 => 0xFFFFFFFF00000FFF ||| feat 6 0x80000000
  | 0x1F2 => 0x000FFFFFFFFF001F ||| feat 7 0x8000000000000000
  | 0x1F4 => if (dieReg s (dieOf core) 0x1F2).getLsbD 63 then 0xFFFFFFF0 else 0
  | _ => if 0x1C0 ≤ idx ∧ idx ≤ 0x1CF then 0xFFFFFFFFC000000F else 0

/-- The fields that a written 1 clears, with PRIV = 1. -/
def w1cMask (idx : Nat) : DWord :=
  match idx with
  | 0x118 | 0x154 | 0x1D3 => 0x80000000
  | 0x141 => 0xF
  | 0x144 | 0x146 | 0x15D => 0x40000000
  | _ => 0

/-- A stored register after a SETS with PRIV = 1. -/
def fieldWrite (s : State) (core idx : Nat) (old v : DWord) : DWord :=
  let m := rwMask s core idx
  ((old &&& ~~~m) ||| (v &&& m)) &&& ~~~(v &&& w1cMask idx)

/-! ### Checks of a write -/

/-- The work list's registers (R357). -/
def wlEn (v : DWord) : Bool := v.getLsbD 63
def wlBatch (v : DWord) : Nat := fld v 40 5
def wlLwm (v : DWord) : Nat := fld v 28 12
def wlHwm (v : DWord) : Nat := fld v 16 12
def wlLog (v : DWord) : Nat := fld v 12 4
def wlBase (v : DWord) : Nat := fld v 0 12
def wlHead (v : DWord) : Nat := fld v 0 12
def wlCount (v : DWord) : Nat := fld v 16 12

/-- Reason 9 of R357. -/
def wlBad (s : State) (core : Nat) (old v : DWord) : Bool :=
  let n := 2 ^ wlLog v
  (wlEn v && (wlLog v < 3 || 11 < wlLog v || 16 < wlBatch v))
    || wlHwm v < wlLwm v || n ≤ wlHwm v
    || wlBase v * 64 % (8 * n) != 0 || scratchSize s core < wlBase v * 64 + 8 * n
    || (wlCount (coreReg s core 0x1A1) != 0 && (wlBase old != wlBase v || wlLog old != wlLog v))

/-- A unit of 4 KiB that leaves the workspace region holds a workspace other than the keeper's (R186, R508). -/
def wsBusy (s : State) (core ws : Nat) : Bool :=
  s.ctxs.any fun e => e.2.wsOn && onCore e.2 core && e.2.wsptr != 0 && ws * 4096 < e.2.wsptr.toNat + e.2.wsize

/-- The engine and copy queues of a Truss hold an entry (R186, R339). -/
def enginesBusy (s : State) (truss : Nat) : Bool :=
  let t := getTruss s truss
  !(t.matrix.isEmpty && t.gather.isEmpty && t.copy.isEmpty) || s.cores.any fun c => trussOf c.1 == truss && !c.2.slice.isEmpty

/-- The stash of a Truss holds a line (R186, R410). -/
def stashUsed (s : State) (truss : Nat) : Bool := s.dir.any fun h => h.holder == .truss truss

/-- Why LCARVE refuses a value: reason 1 or 2 (R186, R339). -/
def lcarveReason (s : State) (core : Nat) (v : DWord) : Option Nat :=
  let old := lcarve s core
  if lcWs v + lcScr v + lcStash v + lcCache v + lcAcc v ≠ 32 ∨ lcWs v = 0 then some 1
  else if lcWs v < lcWs old ∧ wsBusy s core (lcWs v) = true then some 2
  else if (lcScr v ≠ lcScr old ∨ lcStash v ≠ lcStash old ∨ lcCache v ≠ lcCache old ∨ lcAcc v ≠ lcAcc old)
      ∧ (!(residents s (trussOf core)).isEmpty || stashUsed s (trussOf core)
          || trussShared s (trussOf core)) = true then some 2
  else if v ≠ old ∧ enginesBusy s (trussOf core) = true then some 2
  else none

/-- The spill ring of a core holds entries (R251). -/
def spillBusy (s : State) (core : Nat) : Bool := !(getCore s core).spill.isEmpty

/-- Some core of a die has TRCTL.EN = 1 (R469). -/
def dieTraces (s : State) (die : Nat) : Bool := s.cores.any fun c => dieOf c.1 == die && traceOn s c.1

/-- The buffer that an L-core class would record by a SETS of MCLS, with the context that issues it (R216). -/
def setsBuffer (s : State) (core : Nat) (a : Lane) (old new : DWord) : Option Nat :=
  if setsRecords old new then bufferPa s core a.ttb (laneB a 6) (stPriv a.status) (mcBase new) (mcLog new) else some 0

/-- The reason of the configuration fault that a SETS raises in a lane with PRIV = 1 (R186, R228, R251, R261, R349, R357,
R469). -/
def setsReason (s : State) (core : Nat) (a : Lane) (idx : Nat) (v : DWord) : Option Nat :=
  let old := if idx < 0x190 then coreReg s core idx else dieReg s (dieOf core) idx
  let new := fieldWrite s core idx old v
  if idx = 0x102 then lcarveReason s core (v &&& 0x3FFFFFFF)
  else if idx = 0x103 then (if fld v 3 5 % 2 ^ fld v 1 2 ≠ 0 then some 3 else none)
  else if 0x110 ≤ idx ∧ idx ≤ 0x117 then
    let m := mcApply old v
    let r := classReason s core old m (setsBuffer s core a old m)
    if r = 0 then none else some r
  else if idx = 0x145 ∧ coreKind core = .lcore then none
  else if idx = 0x145 then
    if fld new 12 4 < 4 ∨ 8 < fld new 12 4 ∨ fld new 0 12 % 2 ^ fld new 12 4 ≠ 0 then some 5
    else if spillBusy s core ∧ new ≠ old then some 5 else none
  else if idx = 0x153 then (if 2 ≤ fld v 29 2 then some 7 else none)
  else if idx = 0x15D then (if v.getLsbD 31 ∧ lcScr (lcarve s core) < 5 ∧ coreKind core = .dcore then some 7 else none)
  else if idx = 0x1A0 then
    let w := fieldWrite s core idx (coreReg s core idx) v
    if wlBad s core (coreReg s core idx) w then some 9 else none
  else if 0x1C0 ≤ idx ∧ idx ≤ 0x1CF then
    if 9 ≤ fld v 0 4 ∨ (fld v 0 4 = 2 ∧ fld v 32 32 = 0 ∧ v.getLsbD 31 = true) then some 9 else none
  else if idx = 0x1F2 then
    let log := fld new 0 5
    if log < 16 ∨ 26 < log ∨ fld new 16 36 * 65536 % 2 ^ log ≠ 0 then some 10
    else if new ≠ old ∧ dieTraces s (dieOf core) = true then some 10 else none
  else none

/-- The operations that a write starts, each as a step of its own (R187, R215, R250, R256, R270, R272, R279, R281, R394,
R404, R468). -/
def setsEvents (s : State) (ctx l core idx : Nat) (v : DWord) : List Ev :=
  let busy := (coreReg s core idx).getLsbD 31
  match idx with
  | 0x102 => [.lcarveWrite core (v &&& 0x3FFFFFFF)]
  | 0x144 => (if v.getLsbD 28 && !busy then [.prectlGo core v] else []) ++ (if v.getLsbD 27 then [.prectlRel core v] else [])
  | 0x146 =>
    if busy then []
    else if v.getLsbD 29 then [.tkillClr core (v.setWidth 24)]
    else if v.getLsbD 28 then [.tkillOwn core ctx l]
    else [.tkillKill core (v.setWidth 24)]
  | 0x150 | 0x151 | 0x152 => [.bezelWrite core idx v]
  | 0x156 =>
    (if v.getLsbD 30 then [if v.getLsbD 29 then .dbgctlStep core v else .dbgctlGo core v] else [])
      ++ (if v.getLsbD 28 then [.dbgctlHalt core v] else [])
  | 0x15D => if v.getLsbD 31 && !(coreReg s core idx).getLsbD 31 then [.replayEnable core v] else []
  | 0x164 =>
    [.losctlFreeze core (v.getLsbD 0)] ++ (if v.getLsbD 1 then [.losctlClear core (v.getLsbD 0)] else [])
  | 0x193 => [.leaseOcWrite (trussOf core) v]
  | 0x1E1 => (if v.getLsbD 31 then [.migreqGo (bayOf core) v] else [])
      ++ (if v.getLsbD 30 then [.migreqAns (bayOf core) v] else [])
  | 0x1F1 => if v.getLsbD 30 then [.rasctlRetire (dieOf core) v] else []
  | _ =>
    if 0x110 ≤ idx ∧ idx ≤ 0x117 then
      let a := getLane (getCtx s ctx) l
      let new := mcApply (coreReg s core idx) v
      [.mclsWrite core (BitVec.ofNat 3 (idx - 0x110)) v
        (if mcEn new then bufferPa s core a.ttb (laneB a 6) (stPriv a.status) (mcBase new) (mcLog new) else none)]
    else []

/-- A write while its request is in progress is ignored (R250, R256). -/
def setsIgnored (s : State) (core idx : Nat) (v : DWord) : Bool :=
  (coreReg s core idx).getLsbD 31 && ((idx == 0x144 && v.getLsbD 28) || idx == 0x146)

/-- A register whose written value its own step places (R187, R215, R272). -/
def stepPlaced (idx : Nat) : Bool := idx == 0x102 || idx == 0x164 || idx == 0x193 || (0x110 ≤ idx && idx ≤ 0x117)

/-- The store of a write with PRIV = 1 into the unit that holds the register. -/
def storeReg (s : State) (core idx : Nat) (v : DWord) : State :=
  if 0x1F0 ≤ idx ∨ (0x1B0 ≤ idx ∧ idx ≤ 0x1D3) then
    setDieReg s (dieOf core) idx (fieldWrite s core idx (dieReg s (dieOf core) idx) v)
  else if 0x1E0 ≤ idx then setBayReg s (bayOf core) idx (fieldWrite s core idx (bayReg s (bayOf core) idx) v)
  else if 0x190 ≤ idx ∧ idx ≤ 0x194 then
    setTrussReg s (trussOf core) idx (fieldWrite s core idx (trussReg s (trussOf core) idx) v)
  else setCoreReg s core idx (fieldWrite s core idx (coreReg s core idx) v)

/-- A completion counter after a SETS, at either PRIV: COUNT is written, and flags are cleared by a 1 (R325). -/
def ccWrite (old v : DWord) : DWord :=
  (old &&& ~~~v &&& 0x7E00000000) ||| (v &&& 0xFFFFFFFF)

/-- SETS of a register of a unit, in one lane. -/
def setsLane (s : State) (ctx l idx : Nat) (v : DWord) : State :=
  let x := getCtx s ctx
  let core := laneCore x l
  let priv := stPriv (getLane x l).status
  if absentReg core idx then s
  else if 0x200 ≤ idx then setCcReg s core (idx - 0x200) (ccWrite (ccReg s core (idx - 0x200)) v)
  else if !priv || setsIgnored s core idx v || (coreKind core == .lcore && idx == 0x145) then s
  else
    let evs := setsEvents s ctx l core idx v
    pushDue (if stepPlaced idx then s else storeReg s core idx v) evs

/-- The value that a lane writes. -/
def setsVal (o : Opnds) (a : Lane) : DWord := lanePair a o.x.toNat

/-- SETS of a register of the strand (R13, R16, R239, R422). -/
def setsStrand (s : State) (o : Opnds) (idx : Nat) : State :=
  let v (l : Nat) : DWord := setsVal o (curLane s l)
  let priv (a : Lane) : Bool := stPriv a.status
  match idx with
  | 0x000 => modExec s fun l a => { a with status := statusWrite a.status (v l) }
  | 0x131 => modExec s fun l a => if priv a then { a with estatus := v l &&& statusFields } else a
  | _ =>
    if !curPriv s then s
    else
      match idx with
      | 0x001 => putUniform s (fun l => (v l).setWidth 32) fun a w => { a with slim := w }
      | 0x007 => putUniform s v fun a w => { a with ttb := w &&& 0xFFFFFFFFFFFFF000 }
      | 0x130 => putUniform s v fun a w => { a with epc := w }
      | 0x138 => putUniform s v fun a w => { a with tscr0 := w }
      | 0x139 => putUniform s v fun a w => { a with tscr1 := w }
      | _ => s

/-- SETS (R195). -/
def execSets (o : Opnds) (s : State) : Out :=
  let i := Instr.sets o
  let idx := sysIdx o
  let ls := execLanes s
  if idx < 8 ∨ (0x130 ≤ idx ∧ idx ≤ 0x139) then .next (complete i (setsStrand s o idx))
  else
    let fails := ls.filterMap fun l =>
      let a := curLane s l
      let core := curCore s l
      if !stPriv a.status || absentReg core idx then none
      else (setsReason s core a idx (setsVal o a)).map fun r =>
        { lane := l, fail := { vector := 20, reason := r }, addr := 0 : LaneFail }
    match fails with
    | f :: fs => raiseFails i s (f :: fs)
    | [] => .next (complete i (ls.foldl (fun z l => setsLane z s.cur.ctx l idx (setsVal o (curLane s l))) s))

/-! ## Register writes that are steps of their own -/

/-- Clears n SRAM bytes that a new LCARVE moved between regions: they read as zero (R187). -/
def zeroUnits (s : State) (core : Nat) (keep : Nat → Bool) : State :=
  modCore s core fun c =>
    { c with sram := c.sram.filter fun e => keep (e.1 / 4096), sramBad := c.sramBad.filter fun k => keep (k / 128) }

/-- The region of a unit of SRAM: 0 workspace, 1 scratch, 2 stash, 3 cache, 4 accumulator. -/
def unitRegion (v : DWord) (u : Nat) : Nat :=
  if u < lcWs v then 0
  else if u < lcWs v + lcScr v then 1
  else if u < lcWs v + lcScr v + lcStash v then 2
  else if u < lcWs v + lcScr v + lcStash v + lcCache v then 3
  else 4

/-- LCARVE_WRITE (R187): the cache portion is written back and emptied, and units that change region read as zero. -/
def execLcarveWrite (s : State) : Out :=
  match s.ev with
  | some (.lcarveWrite core v) =>
    let old := lcarve s core
    let s1 := modCore (flushCache s (.core core)) core fun c => { c with code := [] }
    .next (setCoreReg (zeroUnits s1 core fun u => unitRegion old u == unitRegion v u) core 0x102 v)
  | _ => .fault .noEvent

/-- MCLS_WRITE (R215, R216). -/
def execMclsWrite (s : State) : Out :=
  match s.ev with
  | some (.mclsWrite core c v buf) =>
    let old := mcls s core c.toNat
    let new := mcApply old v
    let s1 := if setsRecords old new then recordBuffer s core c.toNat buf else s
    .next (setMcls s1 core c.toNat new)
  | _ => .fault .noEvent

/-- BEZEL_WRITE (R270): the current selection ends, on every core that it holds. -/
def execBezelWrite (s : State) : Out :=
  match s.ev with
  | some (.bezelWrite core _ _) =>
    match (getCore s core).bezel.selected with
    | none => .next s
    | some k =>
      match boundAt s core k with
      | some c => .next ((selectCores (getCtx s c) core).foldl (fun z e => setSelected z e none) s)
      | none => .next (setSelected s core none)
  | _ => .fault .noEvent

/-- LOSSCTL_FREEZE (R272): FRZ takes effect at the next boundary. -/
def execLosctlFreeze (s : State) : Out :=
  match s.ev with
  | some (.losctlFreeze core frz) =>
    .next (modCore s core fun c => { c with bezel := { c.bezel with pendFrz := some frz } })
  | _ => .fault .noEvent

/-- LOSSCTL_CLEAR (R272): the counters become 0 at the next boundary. -/
def execLosctlClear (s : State) : Out :=
  match s.ev with
  | some (.losctlClear core frz) =>
    .next (modCore s core fun c => { c with bezel := { c.bezel with pendFrz := some frz, pendClr := true } })
  | _ => .fault .noEvent

/-- REPLAY_ENABLE (R281): the log offsets and the issue counts become 0; a context that is bound later starts at 0 too. -/
def execReplayEnable (s : State) : Out :=
  match s.ev with
  | some (.replayEnable core _) =>
    let s1 := setCoreReg (setCoreReg s core 0x15E 0) core 0x15F 0
    .next ((s1.ctxs.filter fun e => e.2.alive && onCore e.2 core).foldl (fun z e =>
      modCtx z e.1 fun x => modLane x (laneOn x core) fun a => { a with replay := 0 }) s1)
  | _ => .fault .noEvent

/-- LEASE_OC_WRITE (R392, R394): an opportunity of the scheduler. -/
def execLeaseOcWrite (s : State) : Out :=
  match s.ev with
  | some (.leaseOcWrite t v) =>
    .next (pushDue (setTrussReg s t 0x193 (v &&& 0xFFFF1F07)) [.courseActivation t])
  | _ => .fault .noEvent

end Sys2Proof.Machine
end

