-- ==== Sys2Proof/Machine/Messages.lean ====
section
/-! DEFINITION. Messages: sending, arrival and retry, the message window, MSEND, MBIND, MWAIT and MACK (R212 to R233, R362,
R434). -/

namespace Sys2Proof.Machine

open Sys2Proof

/-! ## Readiness of MWAIT (R229) -/

/-- Lane l of a context has k entries of a class. -/
def hasEntries (s : State) (x : Ctx) (cls : Nat) (e : Nat × Nat) : Bool :=
  decide (e.2 ≤ mcCount (mcls s (laneCore x e.1) cls))

/-- The condition of MWAIT; a count of 0 in some lane ends the wait of either form. -/
def mwaitHolds (s : State) (x : Ctx) (any : Bool) (cls : Nat) (ks : List (Nat × Nat)) : Bool :=
  ks.any (fun e => e.2 == 0) || if any then ks.any fun e => hasEntries s x cls e else ks.all (hasEntries s x cls)

/-- The MWAIT that a context waits in, with its lanes' counts. -/
def mwaitOf (x : Ctx) : Option (Bool × Nat × List (Nat × Nat)) :=
  x.lanes.findSome? fun a => match a.wait with
    | .mwait any cls ks => some (any, cls, ks)
    | _ => none

/-- An arrival sets the ready bit of a bound context: a course that waits in MWAIT becomes ready when its condition holds
now and did not hold before, in `z` (R219, R229, R393). -/
def readyBit (z s : State) (ctx : Nat) : State :=
  let x := getCtx s ctx
  match mwaitOf x with
  | some (any, cls, ks) =>
    if !x.split && mwaitHolds s x any cls ks && !mwaitHolds z x any cls ks then becomeReady s ctx else s
  | none => s

/-! ## Filters and notices (R223, R258) -/

/-- The tag of a unit is dead at the die or the package of an engine. -/
def tagDead (s : State) (engine : Nat) (task : BitVec 24) : Bool :=
  (getDie s (dieOf engine)).deadTags.contains task || (getPkg s (pkgOf engine)).deadTags.contains task

/-- The entry of a message that has been sent and not refused. -/
def isSent (m : Msg) (e : SendEnt) : Bool := e.msg == m && !e.refused

/-- The message leaves its sender's send queue: one entry, of equal ones. -/
def unsend (s : State) (m : Msg) : State :=
  modCore s m.src fun c => { c with sendQ := c.sendQ.eraseP (isSent m) }

/-- The message stays in its sender's send queue and waits for a retry (R222). -/
def holdSend (s : State) (m : Msg) : State :=
  modCore s m.src fun c =>
    { c with sendQ := setAt c.sendQ (c.sendQ.findIdx (isSent m)) fun e => { e with refused := true } }

/-- A unit that cannot be delivered comes back as a notice with its header (R223, R483): 1 class disabled, 2 engine
retired or absent, 3 package unreachable. A notice that is itself not deliverable is counted. An answer that is awaited has
a value that is not stated (log 34). -/
def nonDelivery (s : State) (m : Msg) (reason : Nat) : State :=
  let s1 := unsend s m
  if m.notice then countDrop s1 m.dst
  else
    let src := if reason = 3 then m.src else m.dst
    let s2 := enterSend s1
      { dst := m.src, cls := 0, rel := false, fsens := false, txr := false, src, flow := 0, task := 0, stamp := 0,
        payload := padBytes 48 (headerBytes s m ++ leBytes 1 reason), notice := true }
    match m.who with
    | .nobody => s2
    | w => pushFlight s2 [.launchAnswer w (Config.freeValue s.free 34).toNat src]

/-! ## Arrival (R219) -/

/-- The launch flow ids (R362). -/
def launchFlow (m : Msg) : Bool := m.cls == 0 && (m.flow == 1 || m.flow == 2)

/-- SCHCTL.ADMHA of an engine's die. -/
def admHa (s : State) (engine : Nat) : Bool := (dieReg s (dieOf engine) 0x1D0).getLsbD 0

/-- The package of an engine has reached stage 7 (R470). -/
def bootDone (s : State) (pkg : Nat) : Bool := pkgReg s pkg 0 &&& 0xFF == 7

/-- A message meets the class of a core's engine (R219, steps 2 to 5). -/
def arriveClass (s : State) (m : Msg) : State :=
  let k := m.dst
  let v := mcls s k m.cls
  if !mcEn v then nonDelivery s m 1
  else if 2 ^ mcLog v ≤ mcCount v then holdSend s m
  else
    let s1 := deliverClass (unsend s m) k m.cls (headerBytes s m ++ padBytes 48 m.payload) m.stamp
    let s2 := match mcHolder s1 k v with
      | some c => readyBit s s1 c
      | none => s1
    match m.who with
    | .nobody => s2
    | w => pushFlight s2 [.launchAnswer w 1 k]

/-- A message meets its destination's engine. -/
def arrive (s : State) (m : Msg) : State :=
  if m.task ≠ 0 ∧ (tagDead s m.src m.task || tagDead s m.dst m.task) = true then unsend s m
  else
    match engineKind m.dst with
    | .none => nonDelivery s m 2
    | .hostProxy => pushDue s [.hostProxyDelivery m]
    | .purlin => if m.cls = 1 then pushDue (unsend s m) [.purlinNodeComplete m] else nonDelivery s m 1
    | .core kind =>
      if (getCore s m.dst).retired then nonDelivery s m 2
      else if m.cls = 0 ∧ m.flow = 5 then pushDue (unsend s m) [.parkedFaultAnswer m]
      else if launchFlow m && kind == .dcore && bootDone s (pkgOf m.dst) && (m.flow == 2 || !admHa s m.dst) then
        pushDue (unsend s m) [.launchAdmission m]
      else arriveClass s m

/-- MESSAGE_ARRIVAL. -/
def execMessageArrival (s : State) : Out :=
  match s.ev with
  | some (.messageArrival m) => .next (arrive s m)
  | _ => .fault .noEvent

/-- MESSAGE_RETRY (R222). -/
def execMessageRetry (s : State) : Out :=
  match s.ev with
  | some (.messageRetry core idx) =>
    match (getCore s core).sendQ.drop idx with
    | e :: _ =>
      if e.refused then
        .next (arrive (modCore s core fun c =>
          { c with sendQ := setAt c.sendQ idx fun e => { e with refused := false } }) e.msg)
      else .next s
    | [] => .next s
  | _ => .fault .noEvent

/-- A message of the same ordered stream stands among those before it in the sender's send queue (R220, R222). -/
def streamAhead (s : State) (m : Msg) (ahead : List SendEnt) : Bool :=
  let ord := mcOrd (mcls s m.dst m.cls)
  ord != 0 && ahead.any fun e =>
    e.msg.dst == m.dst && e.msg.cls == m.cls && (ord == 1 || e.msg.flow == m.flow)

/-- An earlier message of the same ordered stream holds a message that arrives. -/
def streamBlocked (s : State) (m : Msg) : Bool :=
  streamAhead s m ((getCore s m.src).sendQ.takeWhile fun e => !isSent m e)

/-- The messages of a core's send queue that a retry may deliver. -/
def retryable (s : State) (core : Nat) : List Ev :=
  let q := (getCore s core).sendQ
  (q.mapIdx fun k e =>
    if e.refused && !streamAhead s e.msg (q.take k) then some (.messageRetry core k) else none).filterMap id

/-- Messages that have come from outside the cores stand in the send queues of their sources, as those that a core sends
do (R219, R222, R225). -/
def takeUnits (s : State) (ms : List Msg) : State :=
  ms.foldl (fun z m =>
    pushFlight (modCore z m.src fun c => { c with sendQ := c.sendQ ++ [{ msg := m }] }) [.messageArrival m]) s

/-! ## The message window (R225) -/

/-- A write of bytes at an engine's window makes a message where it is 64 bytes from an agent outside the cores; any other
is counted. The ingress places the writer's engine as the source, and never lets flow id 2 in (R225, R362). -/
def windowWrite (s : State) (pa : Nat) (writer : Option Nat) (bytes : List Byte) : State :=
  let k := windowEngine pa
  let w0 := leNat (bytes.take 4)
  let w1 := leNat ((bytes.drop 4).take 4)
  let w2 := leNat ((bytes.drop 8).take 4)
  match writer with
  | none => countDrop s k
  | some src =>
    if bytes.length ≠ 64 ∨ pa % 64 ≠ 0 ∨ w0 / 256 ≠ nodeId s k / 256 then countDrop s k
    else
      let flow := w1 % 256 * 256 + w2 % 256
      let m : Msg :=
        { dst := k, cls := w0 / 32 % 8, rel := w0.testBit 4, fsens := w0.testBit 3, txr := w0.testBit 2, src,
          flow := if flow = 2 ∧ w0 / 32 % 8 = 0 then 1 else flow, task := BitVec.ofNat 24 (w2 / 256),
          stamp := BitVec.ofNat 32 (leNat ((bytes.drop 12).take 4)), payload := bytes.drop 16 }
      takeUnits s [m]

/-- WINDOW_WRITE (R225, R484): a write at a window, or of the host in the windows of BAR0, whose source is the host
proxy. -/
def execWindowWrite (s : State) : Out :=
  match s.ev with
  | some (.windowWrite pa writer bytes) => .next (windowWrite s pa writer bytes)
  | some (.bar0Write pkg off bytes) =>
    .next (windowWrite s (pkg * 2 ^ 44 + 0xF0000000000 + off) (some (hostProxyKey pkg)) bytes)
  | _ => .fault .noEvent

/-! ## Bytes at a message address (R216, R226) -/

/-- The virtual address of a message address on an L-core. -/
def msgVa (a : Lane) (off : Word) : DWord := laneB a 6 + off.setWidth 64

/-- The checks of n bytes at a message address that must be aligned: none where they pass (R226). -/
def msgFail (s : State) (l : Nat) (off : Word) (n align : Nat) : Option LaneFail :=
  let x := curCtx s
  let a := getLane x l
  if off.toNat % align ≠ 0 then
    some { lane := l, fail := { vector := 8, reason := 0 }, addr := off.setWidth 64 }
  else if coreKind x.core = .lcore then
    let chk (va : DWord) : Option LaneFail :=
      match translate s x.core a.ttb va .read (stPriv a.status) with
      | .error f => some { lane := l, fail := f, addr := va }
      | .ok (p, _, pa) =>
        match attrFail (pkgOf x.core) p pa false false with
        | some f => some { lane := l, fail := f, addr := va }
        | none =>
          let r := if farFrom (pkgOf x.core) pa then remoteReason s (pkgOf x.core) x.task pa 1 .read else 0
          if r = 0 then none else some { lane := l, fail := { vector := 15, reason := r }, addr := va }
    if n = 0 then none
    else
      match chk (msgVa a off) with
      | some f => some f
      | none => chk (msgVa a off + BitVec.ofNat 64 (n - 1))
  else if locLimit s x l < off.toNat + n then
    some { lane := l, fail := { vector := 9, reason := 1 }, addr := off.setWidth 64 }
  else none

/-- The physical address of a virtual one that has passed its checks. -/
def vaPa (s : State) (core : Nat) (a : Lane) (va : DWord) (k : AccKind) : Nat :=
  match translate s core a.ttb va k (stPriv a.status) with
  | .ok (_, _, pa) => pa
  | .error _ => 0

/-- The attribute and the physical address of each of n bytes at a message address on an L-core. -/
def msgPlaces (s : State) (l : Nat) (off : Word) (n : Nat) : List (Nat × Nat) :=
  let x := curCtx s
  let a := getLane x l
  (List.range n).map fun k =>
    match translate s x.core a.ttb (msgVa a off + BitVec.ofNat 64 k) .read (stPriv a.status) with
    | .ok (p, _, pa) => (p.attr, pa)
    | .error _ => (0, 0)

/-- What the reads of n bytes at message addresses on an L-core translate stays in its TLBs (R430). -/
def keepMsg (s : State) (ls : List Nat) (off : Nat → Word) (n : Nat) : State :=
  if coreKind (curCtx s).core = .lcore then
    ls.foldl (fun z l =>
      let a := curLane s l
      let keep (y : State) (k : Nat) : State := keepWalk y s (curCore s l) a.ttb (msgVa a (off l) + BitVec.ofNat 64 k)
      if n = 0 then z else keep (keep z 0) (n - 1)) s
  else s

/-- Earlier accesses of the lanes to the bytes that they read at message addresses on an L-core are performed (R146,
R226). -/
def msgForce (s : State) (ls : List Nat) (off : Nat → Word) (n : Nat) : State :=
  if coreKind (curCtx s).core = .lcore then
    ls.foldl (fun z l => (msgPlaces s l (off l) n).foldl (fun y p => forceOwn y y.cur.ctx l p.2 1) z) (keepMsg s ls off n)
  else s

/-- An earlier journal entry of a lane covers bytes that it reads at a message address on an L-core (R479). -/
def msgWaits (s : State) (l : Nat) (off : Word) (n : Nat) : Bool :=
  coreKind (curCtx s).core == .lcore && (msgPlaces s l off n).any fun p => journalOverlap s s.cur.ctx l p.2 1

/-- n bytes at a message address, as plain loads read them, and whether poison was met. -/
def msgBytes (s : State) (l : Nat) (off : Word) (n : Nat) : List Byte × Bool :=
  let x := curCtx s
  if coreKind x.core = .lcore then
    let ps := msgPlaces s l off n
    (ps.map fun p => peekByte s x.core p.1 s.cur.ctx p.2, ps.any fun p => readBad s x.core p.1 p.2 1)
  else (spaceBytes s (locSpace x l) off.toNat n, spaceBad s (locSpace x l) off.toNat n)

/-! ## MSEND (R226, R227) -/

/-- A send queue has room for a message of a class: 16 entries, two of them for class 0 only (R222). -/
def sendRoom (s : State) (core cls : Nat) : Bool :=
  let q := (getCore s core).sendQ
  q.length < 16 && (cls == 0 || (q.filter fun e => e.msg.cls != 0).length < 14)

/-- Messages enter their send queues in order, as far as there is room; the rest. -/
def enterAll (s : State) : List Msg → State × List Msg
  | [] => (s, [])
  | m :: t => if sendRoom s m.src m.cls then enterAll (enterSend s m) t else (s, m :: t)

/-- Sends messages and completes, or waits for room with those that are left. -/
def sendAll (i : Instr) (s : State) (ms : List Msg) : Out :=
  match enterAll s ms with
  | (s1, []) => .next (complete i s1)
  | (s1, l) => .next (waitAt s1 (.msend l))

/-- The messages that a waiting MSEND or GDONE has left. -/
def msendLeft (s : State) : Option (List Msg) :=
  match (curLane s (execHead s)).wait with
  | .msend l => some l
  | _ => none

/-- A message of a lane of the issuer. -/
def laneMsg (s : State) (l : Nat) (node : Word) (cls flow : Nat) (rel fsens : Bool) (payload : List Byte) : Msg :=
  { dst := keyNamed s (pkgOf (curCore s l)) node.toNat, cls, rel, fsens, txr := stTxr (curLane s l).status, src := curCore s l, flow,
    task := (curCtx s).task, stamp := 0, payload }

/-- A payload in poisoned memory: the trap of the lanes that read it (R165, log 73). -/
def poisonPayload (s : State) (ls : List Nat) (off : Nat → Word) (n : Nat) : List LaneFail :=
  ls.filterMap fun l =>
    if (msgBytes s l (off l) n).2 then some { lane := l, fail := { vector := 14, reason := 0 }, addr := (off l).setWidth 64 }
    else none

/-- The flow id that MSEND sends: 0x0002 in class 0 is left to LNCH and the Purlin, as the ingress leaves it (R362). -/
def sentFlow (cls flow : Nat) : Nat := if cls = 0 ∧ flow = 2 then 1 else flow

/-- MSEND (R226). -/
def execMsend (c : BitVec 3) (fs : Bool) (o : Opnds) (s : State) : Out :=
  let i := Instr.msend c fs o
  match msendLeft s with
  | some left => sendAll i s left
  | none =>
    let ls := execLanes s
    let v (l : Nat) := valsOf i (curLane s l)
    let off (l : Nat) : Word := (v l).s2.setWidth 32
    let node (l : Nat) : Word := (v l).s1.setWidth 32
    let fails := ls.flatMap fun l =>
      (msgFail s l (off l) 48 16).toList
        ++ (if validNode (node l).toNat then [] else
            [{ lane := l, fail := { vector := 19, reason := 6 }, addr := 0, info := BitVec.ofNat 32 c.toNat : LaneFail }])
    match fails with
    | f :: fs => raiseFails i (keepMsg s ls off 48) (f :: fs)
    | [] =>
      if ls.any fun l => msgWaits s l (off l) 48 then retry s
      else
        let s1 := msgForce s ls off 48
        match poisonPayload s1 ls off 48 with
        | f :: fs => raiseMem i s1 (f :: fs)
        | [] =>
          if muted s then .next (complete i s)
          else if o.g.scope ≠ .none ∧ accessesOut s s.cur.ctx ls o.g.scope = true then retry s
          else
            sendAll i s1 (ls.map fun l =>
              laneMsg s1 l (node l) c.toNat (sentFlow c.toNat ((v l).x.toNat % 65536)) (o.g.scope != .none) fs
                (msgBytes s1 l (off l) 48).1)

/-! ## MBIND (R228) -/

/-- The lanes that act on an engine: one for an L-core, every executing lane elsewhere (R228). -/
def engineLanes (s : State) : List Nat :=
  if coreKind (curCtx s).core = .lcore then (execLanes s).take 1 else execLanes s

/-- The class of a lane's engine is held by another context (R228). -/
def heldByOther (s : State) (l c : Nat) : Bool :=
  let v := mcls s (curCore s l) c
  mcBnd v && !mcOwns v (curCtx s)

/-- MBIND in its three forms: `conf` is the configuration that s2 gives a lane. -/
def runMbind (i : Instr) (s : State) (c : Nat) (un : Bool) (conf : Option (Nat → DWord)) : Out :=
  let ls := engineLanes s
  let priv := curPriv s
  let x := curCtx s
  let old (l : Nat) : DWord := mcls s (curCore s l) c
  let buf (l : Nat) : Option Nat :=
    match conf with
    | some f =>
      let a := curLane s l
      bufferPa s (curCore s l) a.ttb (laneB a 6) (stPriv a.status) (mcBase (f l)) (mcLog (f l))
    | none => none
  if c = 0 ∧ priv = false then privTrap i s
  else gated i s <|
    match ls.filter fun l => heldByOther s l c && !priv with
    | h :: hs =>
      let named := if coreKind x.core = .lcore then execLanes s else h :: hs
      trap i s { vector := 19, reason := 1, info := BitVec.ofNat 32 c, mask := maskOf named }
    | [] =>
      let fails := ls.filterMap fun l =>
        match conf with
        | none => none
        | some f =>
          match classReason s (curCore s l) (old l) (mcApply (old l) (f l)) (buf l) with
          | 0 => none
          | r => some { lane := l, fail := { vector := 20, reason := r }, addr := 0 : LaneFail }
      match fails with
      | f :: fs =>
        if coreKind x.core = .lcore then trapExec i s 20 f.fail.reason else raiseFails i s (f :: fs)
      | [] =>
        let bind (z : State) (l : Nat) : State :=
          let k := curCore s l
          if un then setMcls z k c (setFld (old l) 30 1 0)
          else
            let v := match conf with | some f => mcApply (old l) (f l) | none => old l
            let v := setFld (setFld v 30 1 1) 16 11 (mcWord x)
            recordBuffer (setMcls z k c v) k c (match conf with | some _ => buf l | none => none)
        let s1 := ls.foldl bind s
        let xv (l : Nat) : DWord := (old (if coreKind x.core = .lcore then execHead s else l)) &&& 0xFFFFFFFF
        .next (complete i (modExec s1 fun l a => putX i (xv l) (consume i.opnds a)))

/-- MBIND (R228). -/
def execMbind (c : BitVec 3) (o : Opnds) (s : State) : Out :=
  runMbind (.mbind c o) s c.toNat false (some fun l => (valsOf (.mbind c o) (curLane s l)).s2)

/-- MBIND.keep (R228). -/
def execMbindKeep (c : BitVec 3) (o : Opnds) (s : State) : Out := runMbind (.mbindKeep c o) s c.toNat false none

/-- MBIND.un (R228). -/
def execMbindUn (c : BitVec 3) (keep : Bool) (o : Opnds) (s : State) : Out :=
  runMbind (.mbindUn c keep o) s c.toNat true none

/-! ## MWAIT and MACK (R229, R230) -/

/-- The lanes whose class is not bound to the issuing context. -/
def notOwned (s : State) (ls : List Nat) (c : Nat) : List Nat :=
  ls.filter fun l => !mcOwns (mcls s (curCore s l) c) (curCtx s)

/-- A message fault of lanes; on an L-core every executing lane. -/
def messageFault (i : Instr) (s : State) (c cause : Nat) (ls : List Nat) : Out :=
  trap i s { vector := 19, reason := cause, info := BitVec.ofNat 32 c,
             mask := maskOf (if coreKind (curCtx s).core = .lcore then execLanes s else ls) }

/-- The first mismatched entry among the k at the head of a lane's class (R224). -/
def firstMismatch (s : State) (l c k : Nat) : Option Nat :=
  let core := curCore s l
  let v := mcls s core c
  ((List.range k).map fun j => (mcHead v + j) % 2 ^ mcLog v).find? fun e =>
    let w := entryWord0 s core c e
    (w.testBit 3 || mcFsens v) && w.testBit 2 != stTxr (curLane s l).status

/-- The head entry's address, or all ones (R229). -/
def mwaitVal (s : State) (l c k : Nat) : Nat :=
  let v := mcls s (curCore s l) c
  if k ≤ mcCount v ∧ 0 < k then entryAddr (curCtx s) (curCore s l) v (mcHead v) else 0xFFFFFFFF

/-- The result of a re-executed instruction comes from the log (R284). -/
def replayInput (i : Instr) (s : State) : Out :=
  match replayTake s 5 with
  | some (s1, d) =>
    .next (complete i (modExec s1 fun _ a => putX i (BitVec.ofNat 64 (leNat (d.take 4))) (consume i.opnds a)))
  | none => replayStop s

/-- MWAIT in its two forms (R229); its checks are made again when it has waited (log 74, log 88). Where lanes fail with different
causes, the fault names cause 1 and its lanes (R231, log 138). -/
def runMwait (i : Instr) (s : State) (c : Nat) (any : Bool) : Out :=
  let ls := engineLanes s
  let k (l : Nat) : Nat := (valsOf i (curLane s l)).s2.toNat % 2 ^ 32
  gated i s <|
    match notOwned s ls c with
    | h :: hs => messageFault i s c 1 (h :: hs)
    | [] =>
      match ls.filter fun l => 2 ^ mcLog (mcls s (curCore s l) c) < k l with
      | h :: hs => messageFault i s c 3 (h :: hs)
      | [] =>
        if muted s then replayInput i s else
        let ks := ls.map fun l => (l, k l)
        if !(mwaitHolds s (curCtx s) any c ks) then .next (deactivate (waitAt s (.mwait any c ks)) s.cur.ctx 1)
        else
          let seen (l : Nat) : Nat := Nat.min (k l) (mcCount (mcls s (curCore s l) c))
          match ls.filterMap fun l => (firstMismatch s l c (seen l)).map fun e => (l, e) with
          | (l, e) :: t =>
            let named := if coreKind (curCtx s).core = .lcore then execLanes s else l :: t.map (·.1)
            trap i s { vector := 18, reason := 2, info := BitVec.ofNat 32 (2 ^ 31 + e * 65536 + c), mask := maskOf named }
          | [] =>
            let val (l : Nat) : Nat :=
              let m := if coreKind (curCtx s).core = .lcore then execHead s else l
              mwaitVal s m c (k m)
            let s1 := (execLanes s).foldl (fun z l => logLane z s.cur.ctx (curPc s) 5 l (leBytes 4 (val l))) s
            .next (complete i (modExec s1 fun l a => putX i (BitVec.ofNat 64 (val l)) (consume i.opnds a)))

/-- MWAIT.all (R229). -/
def execMwaitAll (c : BitVec 3) (o : Opnds) (s : State) : Out := runMwait (.mwaitAll c o) s c.toNat false

/-- MWAIT.any (R229). -/
def execMwaitAny (c : BitVec 3) (o : Opnds) (s : State) : Out := runMwait (.mwaitAny c o) s c.toNat true

/-- MACK (R230). -/
def execMack (c : BitVec 3) (o : Opnds) (s : State) : Out :=
  let i := Instr.mack c o
  let ls := engineLanes s
  let n (l : Nat) : Nat := (valsOf i (curLane s l)).s2.toNat % 2 ^ 32
  gated i s <| match notOwned s ls c.toNat with
  | h :: hs => messageFault i s c.toNat 1 (h :: hs)
  | [] =>
    match ls.filter fun l => mcCount (mcls s (curCore s l) c.toNat) < n l with
    | h :: hs => messageFault i s c.toNat 4 (h :: hs)
    | [] =>
      .next (complete i (takeQueues i (ls.foldl (fun z l =>
        let v := mcls s (curCore s l) c.toNat
        setMcls z (curCore s l) c.toNat
          (setFld (setFld v 44 10 ((mcHead v + n l) % 2 ^ mcLog v)) 32 11 (mcCount v - n l))) s)))

end Sys2Proof.Machine
end

