-- ==== Sys2Proof/Machine/Launch.lean ====
section
/-! DEFINITION. From launch to residency: launch messages, placement, completion, the Purlin, LNCH, GSUB and GDONE (R361 to
R386). -/

namespace Sys2Proof.Machine

open Sys2Proof

/-! ## A launch request (R363, R364, R495) -/

/-- An answer goes from an engine to whoever awaits it (R364, R378, R382, R384). -/
def answerTo (s : State) (src : Nat) (who : Answerer) (v : Nat) : State :=
  match who with
  | .nobody => s
  | w => pushFlight s [.launchAnswer w v src]

/-- The node id stands for none, or is valid (R363, R379). -/
def doneOk (n : Nat) : Bool := n == 0xFFFFFFFF || validNode n

/-- The fields of a launch payload keep R363. -/
def payloadOk (p : List Byte) : Bool :=
  let flags := at_ p 22 2
  at_ p 0 8 % 64 == 0 && at_ p 8 8 % 64 == 0 && at_ p 16 4 != 0
    && (1 ≤ at_ p 20 2 && at_ p 20 2 ≤ 2048) && flags < 32 && flags / 2 % 4 != 3
    && (at_ p 24 4 != 0 && at_ p 24 4 < 2 ^ 24) && doneOk (at_ p 32 4)
    && at_ p 36 2 < 8 && at_ p 44 2 < 1024 && at_ p 46 2 == 0

/-- The form that placement uses for a kernel, from FORM and the code that the kernel has (R364, R368): none where no form
is left. -/
def placeForm (k : Kernel) (form : Nat) : Option Nat :=
  let hasK := k.kent != 0
  let hasW := k.went != 0
  match form with
  | 1 => if hasK then some 1 else none
  | 2 => if hasW && k.wcode != 3 then some 2 else none
  | _ => if hasK && hasW then some 0 else if hasK then some 1 else if hasW then some 2 else none

/-- The keeper of a receive engine, with its root (R423). -/
def keeperTtb (s : State) (core : Nat) : DWord :=
  match boundAt s core 0 with
  | some c => (getLane (getCtx s c) 0).ttb
  | none => 0

/-- The number of courses that a launch makes (R375, R500). -/
def coursesOf (k : Kernel) (n : Nat) : Nat := if k.wcode = 3 then 2 * n else n

/-- The launch that a message asks for, with the kernel and the parameter block read once (R364, R372, R495). -/
def readLaunch (s : State) (m : Msg) : Option Launch :=
  let p := m.payload
  let ttb := keeperTtb s m.dst
  let r : Reader := { core := m.dst, ttb, priv := true, task := BitVec.ofNat 24 (at_ p 24 3), cached := false }
  if !payloadOk p then none
  else
    match readKernel s r (BitVec.ofNat 64 (at_ p 0 8)), readAs r s (BitVec.ofNat 64 (at_ p 8 8)) 64 with
    | some k, some pb =>
      match placeForm k (at_ p 22 2 / 2 % 4) with
      | none => none
      | some form =>
        let bays := if at_ p 44 2 = 0 then 1023 else at_ p 44 2
        some { id := 0, msg := m, engine := m.dst, ttb, kern := k,
               b := (List.range 8).map fun j => BitVec.ofNat 64 (at_ pb (8 * j) 8),
               prio := at_ p 22 2 / 8 % 4, cor := at_ p 22 1 % 2 == 1, form, nbund := at_ p 16 4, cpb := at_ p 20 2, bays,
               left := coursesOf k (at_ p 16 4 * at_ p 20 2) }
    | _, _ => none

/-! ## Placing (R367, R368) -/

/-- The width of a kernel's courses: each half of a pair is 32 wide (R499). -/
def kernWidth (k : Kernel) : Nat := if k.wcode = 1 then 16 else 32

/-- What the courses of a launch start with (R372). -/
def launchBirth (l : Launch) (die : Nat) (bundle c core : Nat) (f : Form) : Birth :=
  { core, pc := kernelEntry l.kern f, b := l.b, slim := BitVec.ofNat 32 (at_ l.msg.payload 28 4), ttb := l.ttb,
    task := BitVec.ofNat 24 (at_ l.msg.payload 24 3), txr := l.msg.txr, rm := 0, kernel := l.kern,
    parentNode := at_ l.msg.payload 32 4, parentWord := 0,
    lnid := BitVec.ofNat 64 (bundle * 2 ^ 32 + c), lndim := BitVec.ofNat 64 (l.nbund * 2 ^ 32 + l.cpb),
    launch := some (die, l.id), bundle }

/-- A placed course that is not yet resident: its workspace is allocated (R367, R508). -/
def placedCtx (u : Birth) (kind : CtxKind) (need off size width : Nat) : Ctx :=
  let f : Form := match kind with | .gable => .w | _ => .k
  { alive := true, kind, core := u.core, pending := true, need, wsOn := true, wsptr := BitVec.ofNat 32 off, wsize := size,
    kernel := u.kernel, task := u.task, parentNode := u.parentNode, parentWord := u.parentWord, launch := u.launch,
    bundle := u.bundle, lanes := List.replicate width (birthLane u f 0 []) }

/-- A course, or a pair, is taken by a Truss. -/
def takeTruss (s : State) (l : Launch) (die bundle c truss : Nat) : Option State :=
  let need := kernelNeed l.kern .k
  let w := kernWidth l.kern
  let place (z : State) : Option (State × Ctx) :=
    (trussTakes z truss w need).map fun p =>
      let x := placedCtx (launchBirth l die bundle c p.1 .k) .course need p.2 (wsBytes need) w
      (addCtx z x, x)
  match place s with
  | none => none
  | some (s1, x) =>
    if l.kern.wcode ≠ 3 then some s1
    else
      match place s1 with
      | none => none
      | some (s2, y) =>
        some (setCtx (setCtx s2 s.nextCtx { x with mate := some s1.nextCtx }) s1.nextCtx
          { y with mate := some s.nextCtx, half := true })

/-- A course is taken by the Gable of a bay. -/
def takeGable (s : State) (l : Launch) (die bundle c bay : Nat) : Option State :=
  if l.kern.wcode = 3 then none
  else
    (gableTakes s (bay * 16 + 8)).map fun p =>
      addCtx s (placedCtx (launchBirth l die bundle c p.1 .w) .gable (kernelNeed l.kern .w) p.2 0 (kernWidth l.kern))

/-- A course is taken by the lowest site of a bay that can take it. -/
def takeBay (s : State) (l : Launch) (die bundle c bay : Nat) (gable : Bool) : Option State :=
  if gable then takeGable s l die bundle c bay
  else (List.range 8).findSome? fun site => takeTruss s l die bundle c (bay * 16 + site)

/-- n courses of a bundle from course c on are taken by a bay. -/
def takeCourses (l : Launch) (die bundle bay : Nat) (gable : Bool) : Nat → Nat → State → Option State
  | 0, _, s => some s
  | n + 1, c, s =>
    match takeBay s l die bundle c bay gable with
    | none => none
    | some s1 => takeCourses l die bundle bay gable n (c + 1) s1

/-- A bundle in one bay: with both forms, on Trusses where one can take course 0 (R368). -/
def placeIn (s : State) (l : Launch) (die bundle bay : Nat) : Option State :=
  let gable := l.form == 2 || (l.form == 0 && l.kern.wcode != 3 && (takeBay s l die bundle 0 bay false).isNone)
  takeCourses l die bundle bay gable l.cpb 0 s

/-- A bundle is placed in the lowest allowed bay that takes it (R368). -/
def placeBundle (s : State) (l : Launch) (die bundle : Nat) : Option State :=
  ((List.range 10).filter fun b => l.bays.testBit b).findSome? fun b => placeIn s l die bundle (die * 16 + b)

/-- n bundles in order from one on; none where some does not fit. -/
def placeRun (l : Launch) (die : Nat) : Nat → Nat → State → Option State
  | 0, _, s => some s
  | n + 1, b, s =>
    match placeBundle s l die b with
    | none => none
    | some s1 => placeRun l die n (b + 1) s1

/-- The state in which the static check places: no course that a launch placed (R369). -/
def bareState (s : State) : State := { s with ctxs := s.ctxs.filter fun e => e.2.launch.isNone }

/-- The launch never fits (R369). -/
def neverFits (s : State) (l : Launch) (die : Nat) : Bool :=
  (placeRun l die (if l.cor then l.nbund else 1) 0 (bareState s)).isNone

/-! ## The admission queue (R370) -/

/-- Changes a launch of a die. -/
def modLaunch (s : State) (die id : Nat) (f : Launch → Launch) : State :=
  modDie s die fun d => { d with launches := d.launches.map fun l => if l.id = id then f l else l }

/-- Places the unplaced bundles of a launch as far as they fit. -/
def placeEach (die : Nat) : Nat → Launch → State → State
  | 0, _, s => s
  | n + 1, l, s =>
    match placeBundle s l die l.next with
    | none => s
    | some s1 =>
      let s2 := pushFlight (modLaunch s1 die l.id fun e => { e with next := l.next + 1 }) [.bundleResident die l.id l.next]
      placeEach die n { l with next := l.next + 1 } s2

/-- One launch of the scan. -/
def scanOne (s : State) (die : Nat) (l : Launch) : State :=
  if l.cor then
    match placeRun l die (l.nbund - l.next) l.next s with
    | none => s
    | some s1 =>
      pushFlight (modLaunch s1 die l.id fun e => { e with next := l.nbund })
        ((List.range l.nbund).map fun b => .bundleResident die l.id b)
  else placeEach die (l.nbund - l.next) l s

/-- The scan of the admission queue: PRIO 3 before 2, 1 and 0, then arrival order (R370). -/
def admissionScan (s : State) (die : Nat) : State :=
  let queued := (getDie s die).launches.filter fun l => l.next < l.nbund
  let order := [3, 2, 1, 0].flatMap fun p => queued.filter fun l => l.prio == p
  order.foldl (fun z l => scanOne z die l) s

/-- Residency has changed on a die. -/
def residencyChanged (s : State) (core : Nat) : State := admissionScan s (dieOf core)

/-! ## Completion messages (R375) -/

/-- The completion message of a launch. -/
def completionMsg (s : State) (m : Msg) (status bad : Nat) : State :=
  let p := m.payload
  let done := at_ p 32 4
  let tag := at_ p 24 3
  if done = 0xFFFFFFFF then s
  else
    enterSend s
      { dst := keyNamed s (pkgOf m.dst) done, cls := at_ p 36 1 % 8, rel := true, fsens := false, txr := m.txr, src := m.dst,
        flow := at_ p 38 2, task := BitVec.ofNat 24 tag, stamp := 0,
        payload := padBytes 48 (leBytes 4 (at_ p 40 4) ++ leBytes 4 tag ++ leBytes 4 status ++ leBytes 4 bad) }

/-- A course of a launch has ended, or badly so; the last one sends the completion message (R375). -/
def courseEnded (s : State) (launch : Option (Nat × Nat)) (bad : Bool) : State :=
  match launch with
  | none => s
  | some (die, id) =>
    match (getDie s die).launches.find? fun l => l.id == id with
    | none => s
    | some l =>
      let n := l.bad + (if bad then 1 else 0)
      if l.left ≤ 1 then
        completionMsg (modDie s die fun d => { d with launches := d.launches.filter fun e => e.id != id }) l.msg 0 n
      else modLaunch s die id fun e => { e with left := l.left - 1, bad := n }

/-! ## Admission (R364) -/

/-- A launch is refused, with its completion message, whoever sent it (R364, log 36). -/
def refuseLaunch (s : State) (m : Msg) (status : Nat) : State := answerTo (completionMsg s m status 0) m.dst m.who status

/-- The admission unit takes a launch message. -/
def admitLaunch (s : State) (m : Msg) : State :=
  let die := dieOf m.dst
  match readLaunch s m with
  | none => refuseLaunch s m 3
  | some l =>
    if neverFits s l die then refuseLaunch s m 2
    else if 256 ≤ ((getDie s die).launches.filter fun e => e.next < e.nbund).length then refuseLaunch s m 4
    else
      let s1 := modDie s die fun d => { d with launches := d.launches ++ [{ l with id := d.lseq }], lseq := d.lseq + 1 }
      answerTo (admissionScan s1 die) m.dst m.who 0

/-- LAUNCH_ADMISSION (R364, R370). -/
def execLaunchAdmission (s : State) : Out :=
  match s.ev with
  | some (.launchAdmission m) => .next (admitLaunch s m)
  | _ => .fault .noEvent

/-! ## Starting a bundle (R373, R374) -/

/-- Code words with those of a line, of n bytes each, that they do not hold. -/
def pushWords (s : State) (pa n : Nat) (code : Tab Nat) : Tab Nat :=
  (List.range (128 / n)).foldl (fun t k =>
    if tget 0 t (pa + n * k) = 0 then tset 0 t (pa + n * k) (memNat s (pa + n * k) n + 1) else t) code

/-- A line goes to the code buffer of a core's Truss, which all its cores fetch from, or to the L1 of an L-core (R373). -/
def pushLine (s : State) (core pa : Nat) : State :=
  match coreKind core with
  | .lcore => modCore s core fun c => { c with code := pushWords s pa 4 c.code }
  | _ => modTruss s (trussOf core) fun t => { t with code := pushWords s pa 2 t.code }

/-- The line of an address that may be fetched. -/
def codeLine (s : State) (core : Nat) (ttb va : DWord) : Option Nat :=
  match translate s core ttb va .fetch true with
  | .ok (p, _, pa) => if p.x && (fetchFail p pa).isNone then some (pa / 128 * 128) else none
  | .error _ => none

/-- The lines of a kernel's prefetch list are pushed for a context (R373, R496). -/
def pushCode (s : State) (x : Ctx) : State :=
  let wide := x.kind == .gable
  let ttb := (getLane x 0).ttb
  let list := if wide then x.kernel.wpf else x.kernel.kpf
  let n := if wide then x.kernel.nwpf else x.kernel.nkpf
  let r : Reader := { core := x.core, ttb, priv := true, task := x.task, cached := false }
  (List.range n).foldl (fun z j =>
    match readAs r z (list + BitVec.ofNat 64 (8 * j)) 8 with
    | none => z
    | some e =>
      match codeLine z x.core ttb (BitVec.ofNat 64 (leNat e)) with
      | none => z
      | some pa => pushLine z x.core pa) s

/-- A placed course becomes resident: it takes its number, its seeds, its lease and its points (R15, R374, R387, R397). -/
def makeResident (s : State) (c : Nat) : State :=
  let x := getCtx s c
  let t := trussOf x.core
  let gable := x.kind == .gable
  let num := if gable then 4 * (x.core % 64) + x.wsptr.toNat else (freeNum s t).getD 0
  let lanes := x.lanes.mapIdx fun l a =>
    let seed := seedOf (nodeId s (laneCore x l)) num (if gable then l else 0)
    { a with status := startStatus seed false (ctxForm x) (stTxr a.status) (stRM a.status) }
  let r : Reader := { core := x.core, ttb := (getLane x 0).ttb, priv := false, task := x.task }
  setCtx s c { x with pending := false, num, lanes, lease := birthLease s x.core x.kernel.lease,
                      points := readPoints s r x.kernel, readyAt := trussCycle s t,
                      slot := if gable then some x.wsptr.toNat else none }

/-- The placed courses of a bundle. -/
def pendingOf (s : State) (die launch bundle : Nat) : List Nat :=
  (s.ctxs.filter fun e => e.2.alive && e.2.pending && e.2.launch == some (die, launch) && e.2.bundle == bundle).map (·.1)

/-- BUNDLE_RESIDENT: every course of a bundle becomes resident and ready in one step. -/
def bundleUp (s : State) (die launch bundle : Nat) : State :=
  let cs := pendingOf s die launch bundle
  let s1 := cs.foldl (fun z c => makeResident (pushCode z (getCtx z c)) c) s
  let ts := (cs.filterMap fun c => let x := getCtx s1 c; if x.kind == .course then some (trussOf x.core) else none).dedup
  pushDue s1 (ts.map .courseActivation)

/-- BUNDLE_RESIDENT. -/
def execBundleResident (s : State) : Out :=
  match s.ev with
  | some (.bundleResident die launch bundle) => .next (bundleUp s die launch bundle)
  | _ => .fault .noEvent

/-! ## Answers that name a context (R197, R251, R378, R384) -/

/-- A context is where an answer can reach it: bound to a slot, and not held. -/
def reachable (x : Ctx) : Bool := x.slot.isSome && !x.held

/-- A lane that waits for answers takes one. -/
def takeAnswer (l v : Nat) (a : Lane) : Lane :=
  match a.wait with
  | .answer n st left => { a with wait := .answer (n - 1) ((l, v) :: st) left }
  | _ => a

/-- An answer reaches a context: its lane, or all lanes of a course that is not split. -/
def giveAnswer (s : State) (ctx : Nat) (lane : Option Nat) (v : Nat) : State :=
  modCtx s ctx fun x =>
    let l := lane.getD 0
    if x.split || isStrand x then modLane x l (takeAnswer l v) else modAllLanes x (takeAnswer l v)

/-- The core whose spill ring catches what is addressed to a lane of a context. -/
def spillCore (x : Ctx) (lane : Option Nat) : Nat := laneCore x (lane.getD 0)

/-- The spill ring of a core has room (R251, R252). -/
def spillRoom (s : State) (core : Nat) : Bool :=
  let v := coreReg s core 0x145
  let n := (getCore s core).spill.length
  if coreKind core = .lcore then n < 128 else v.getLsbD 31 && n < 2 ^ fld v 12 4

/-- An answer is taken by its context, or caught in the spill ring; one for a context that has ended is dropped. -/
def routeAnswer (s : State) (ctx : Nat) (lane : Option Nat) (v : Nat) (e : Ev) : State :=
  let x := getCtx s ctx
  if !x.alive then s
  else if reachable x then giveAnswer s ctx lane v
  else modCore s (spillCore x lane) fun c => { c with spill := c.spill ++ [.answer ctx e] }

/-! ## The Purlin (R379 to R383) -/

/-- The cookie of a node (R381). -/
def nodeCookie (gen slot node : Nat) : Nat := gen % 256 * 2 ^ 24 + slot * 2 ^ 16 + node

/-- KIND, ECLS and ETGT of a node record (R380). -/
def nodeKind (b : List Byte) : Nat := at_ b 54 2 % 4
def nodeClass (b : List Byte) : Nat := at_ b 54 2 / 16 % 8

/-- Bytes with four of them replaced. -/
def put4 (l : List Byte) (off v : Nat) : List Byte := l.take off ++ leBytes 4 v ++ l.drop (off + 4)

/-- Changes a graph slot of a die. -/
def modGraph (s : State) (die slot : Nat) (f : GSlot → GSlot) : State :=
  modDie s die fun d => { d with graphs := tset {} d.graphs slot (f (tget {} d.graphs slot)) }

/-- Changes a node of a graph. -/
def modNode (g : GSlot) (n : Nat) (f : GNode → GNode) : GSlot := { g with nodes := setAt g.nodes n f }

/-- A node completes: each successor waits for one predecessor less. -/
def completeNode (g : GSlot) (n : Nat) : GSlot :=
  let succ := (getAt { need := 0, state := 0, long := 0, succ := [], bytes := [] } g.nodes n).succ
  let g1 := modNode g n fun e => { e with state := 3 }
  succ.foldl (fun z k => modNode z k fun e => { e with need := e.need - 1 }) g1

/-- The nodes of a graph that are ready. -/
def readyNodes (g : GSlot) : List (Nat × GNode) :=
  if !g.used || g.failed.isSome then []
  else (g.nodes.mapIdx fun k n => (k, n)).filter fun e => e.2.need == 0 && e.2.state == 0

/-- KIND 2 nodes complete at once, one after another. -/
def emptyNodes : Nat → GSlot → GSlot
  | 0, g => g
  | fuel + 1, g =>
    match (readyNodes g).find? fun e => nodeKind e.2.bytes == 2 with
    | none => g
    | some e => emptyNodes fuel (completeNode g e.1)

/-- A message of a graph to a node, from the Purlin. -/
def purlinMsg (die : Nat) (g : GSlot) (dst cls flow : Nat) (payload : List Byte) (who : Answerer) : Msg :=
  { dst, cls, rel := true, fsens := false, txr := g.txr, src := purlinKey die, flow, task := g.task, stamp := 0,
    payload := padBytes 48 payload, who }

/-- SCHCTL.GRHA of a die. -/
def graphHa (s : State) (die : Nat) : Bool := (dieReg s die 0x1D0).getLsbD 1

/-- Sends one node (R382). With GRHA the message to the host proxy carries the 64 bytes of the node record (log 37). -/
def sendNode (s : State) (die slot n : Nat) : State :=
  let g := tget {} (getDie s die).graphs slot
  let b := (getAt { need := 0, state := 0, long := 0, succ := [], bytes := [] } g.nodes n).bytes
  let ck := nodeCookie g.gen slot n
  let s1 := modGraph s die slot fun g => modNode g n fun e => { e with state := 2, host := graphHa s die }
  if graphHa s die then
    enterSend s1 { purlinMsg die g (hostProxyKey (die / 4)) 0 0 [] .nobody with payload := padBytes 64 (put4 b 40 ck) }
  else if nodeKind b = 1 then
    enterSend s1 (purlinMsg die g (keyNamed s (die / 4) (at_ b 60 4)) (nodeClass b) 0 ((put4 b 40 ck).take 48) .nobody)
  else
    let p := put4 (put4 (put4 (put4 (b.take 48) 24 g.task.toNat) 32 (nodeId s (purlinKey die) + 64)) 36 1) 40 ck
    enterSend s1 (purlinMsg die g (die * 16384) 0 2 p (.purlin die ck))

/-- The KIND 0 nodes that the Purlin has launched and that are in flight. -/
def inFlight (s : State) (die : Nat) : Nat :=
  ((getDie s die).graphs.flatMap fun g =>
    g.2.nodes.filter fun n => n.state == 2 && !n.host && nodeKind n.bytes == 0).length

/-- A ready node, with what orders it: priority, L, age of the graph, and index (R382). -/
structure ReadyNode where
  slot : Nat
  node : Nat
  prio : Nat
  long : Nat
  seq  : Nat
  kind : Nat
  deriving DecidableEq, Repr

/-- The first node goes before the second. -/
def nodeBefore (a b : ReadyNode) : Bool :=
  if a.prio ≠ b.prio then b.prio < a.prio
  else if a.long ≠ b.long then b.long < a.long
  else if a.seq ≠ b.seq then a.seq < b.seq
  else a.node < b.node

/-- The ready nodes of a die. -/
def readyAll (s : State) (die : Nat) : List ReadyNode :=
  (getDie s die).graphs.flatMap fun g =>
    (readyNodes g.2).map fun e =>
      { slot := g.1, node := e.1, prio := g.2.prio, long := e.2.long, seq := g.2.seq, kind := nodeKind e.2.bytes }

/-- The node that goes first. -/
def firstNode : List ReadyNode → Option ReadyNode
  | [] => none
  | a :: t =>
    match firstNode t with
    | none => some a
    | some b => if nodeBefore b a then some b else some a

/-- Sends ready nodes: those of KIND 1, and those of KIND 0 while fewer than 32 are in flight; to the host, every one. -/
def sendReady (die : Nat) : Nat → State → State
  | 0, s => s
  | fuel + 1, s =>
    let open_ := (readyAll s die).filter fun e => e.kind == 1 || graphHa s die || inFlight s die < 32
    match firstNode open_ with
    | none => s
    | some e => sendReady die fuel (sendNode s die e.slot e.node)

/-- A graph with every node completed, or failed with none in flight, is freed with its completion message (R383). -/
def closeGraph (s : State) (die slot : Nat) : State :=
  let g := tget {} (getDie s die).graphs slot
  let ended := g.nodes.all (fun n => n.state == 3) || (g.failed.isSome && g.nodes.all fun n => n.state != 2)
  if !g.used || !ended then s
  else
    let s1 := modGraph s die slot fun g => { gen := (g.gen + 1) % 256 }
    if g.done = 0xFFFFFFFF then s1
    else
      let p := leBytes 4 g.cookie ++ leBytes 4 g.task.toNat ++ leBytes 4 (if g.failed.isSome then 1 else 0)
        ++ leBytes 4 (g.failed.getD 0xFFFFFFFF)
      enterSend s1 (purlinMsg die g (keyNamed s (die / 4) g.done) (g.dctl % 8) (g.dctl / 65536) p .nobody)

/-- Dispatch (R382): nodes of KIND 2 complete, ready nodes go out, and graphs that are over end. -/
def dispatchNodes (s : State) (die : Nat) : State :=
  let s1 := modDie s die fun d =>
    { d with graphs := d.graphs.map fun g => (g.1, emptyNodes g.2.nodes.length g.2) }
  let s2 := ((getDie s1 die).graphs.map (·.1)).foldl (fun z k => closeGraph z die k) s1
  sendReady die ((readyAll s2 die).length) s2

/-- The nodes in an order in which each stands after its predecessors: `ready` holds nodes with none left. -/
def topoOrder (succ : Nat → List Nat) : Nat → List Nat → Tab Nat → List Nat
  | 0, _, _ => []
  | _, [], _ => []
  | fuel + 1, n :: t, need =>
    let r := (succ n).foldl (fun (acc : Tab Nat × List Nat) k =>
      let m := tget 0 acc.1 k - 1
      (tset 0 acc.1 k m, if m = 0 then acc.2 ++ [k] else acc.2)) (need, [])
    n :: topoOrder succ fuel (t ++ r.2) r.1

/-- A graph header keeps R379. -/
def headerOk (h : List Byte) : Bool :=
  (1 ≤ at_ h 0 4 && at_ h 0 4 ≤ 4096) && at_ h 4 4 < 65536 && at_ h 8 8 % 64 == 0 && at_ h 16 8 % 2 == 0
    && (at_ h 24 4 != 0 && at_ h 24 4 < 2 ^ 24) && doneOk (at_ h 28 4) && at_ h 32 2 < 8 && at_ h 40 24 == 0

/-- A node record keeps R380. -/
def recordOk (b : List Byte) (nsucc : Nat) : Bool :=
  let ty := at_ b 54 2
  ty < 128 && ty / 4 % 4 == 0 && nodeKind b != 3
    && (if nodeKind b = 1 then nodeClass b != 0 && validNode (at_ b 60 4) else at_ b 60 4 == 0)
    && (at_ b 52 2 == 0 || at_ b 56 4 + at_ b 52 2 ≤ nsucc)

/-- Node records from an address. -/
def readNodes (s : State) (r : Reader) : Nat → DWord → Option (List (List Byte))
  | 0, _ => some []
  | n + 1, a =>
    match readAs r s a 64, readNodes s r n (a + 64) with
    | some b, some t => some (b :: t)
    | _, _ => none

/-- The nodes of a graph with their predecessor counts and L(n), or the status of a load that fails (R380, R381, R384). -/
def buildNodes (recs : List (List Byte)) (succs : List Byte) : Except Nat (List GNode) :=
  let n := recs.length
  let succOf (k : Nat) : List Nat :=
    let b := getAt [] recs k
    (List.range (at_ b 52 2)).map fun j => at_ succs (2 * (at_ b 56 4 + j)) 2
  let edges := (List.range n).flatMap succOf
  if edges.any fun e => n ≤ e then .error 2
  else
    let need : Tab Nat := edges.foldl (fun t e => tset 0 t e (tget 0 t e + 1)) []
    let order := topoOrder succOf n ((List.range n).filter fun k => tget 0 need k == 0) need
    if order.length < n then .error 3
    else
      let long : Tab Nat := order.reverse.foldl (fun t k =>
        tset 0 t k (at_ (getAt [] recs k) 48 4 + ((succOf k).map (tget 0 t)).foldl Nat.max 0)) []
      .ok (recs.mapIdx fun k b =>
        { need := tget 0 need k, state := 0, long := tget 0 long k, succ := succOf k, bytes := b })

/-- A graph as GSUB loads it, or the status of a load that fails (R384, log 38). -/
def readGraph (s : State) (r : Reader) (header : DWord) : Except Nat (List Byte × List GNode) :=
  if header.toNat % 64 ≠ 0 then .error 1
  else
    match readAs r s header 64 with
    | none => .error 5
    | some h =>
      if !headerOk h then .error 1
      else
        match readNodes s r (at_ h 0 4) (BitVec.ofNat 64 (at_ h 8 8)),
            readAs r s (BitVec.ofNat 64 (at_ h 16 8)) (2 * at_ h 4 4) with
        | some recs, some succs =>
          if recs.any fun b => !recordOk b (at_ h 4 4) then .error 2
          else
            match buildNodes recs succs with
            | .error e => .error e
            | .ok ns => .ok (h, ns)
        | _, _ => .error 5

/-- The Purlin loads a graph: the value of the issuer's pair, the handle and above it the status (R384). -/
def loadGraph (s : State) (die ctx lane : Nat) (header : DWord) (prio : Nat) : State × Nat :=
  let x := getCtx s ctx
  let a := getLane x lane
  let r : Reader :=
    { core := laneCore x lane, ttb := a.ttb, priv := stPriv a.status, task := x.task, cached := false }
  match readGraph s r header with
  | .error e => (s, e * 2 ^ 32)
  | .ok (h, ns) =>
    let gs := (getDie s die).graphs
    match (List.range 64).find? fun k => !(tget {} gs k).used with
    | none => (s, 4 * 2 ^ 32)
    | some slot =>
      if 32768 < gs.foldl (fun n g => n + g.2.nodes.length) ns.length then (s, 4 * 2 ^ 32)
      else
        let gen := (tget {} gs slot).gen
        let g : GSlot := { used := true, gen, prio, seq := (getDie s die).gseq, nodes := ns, done := at_ h 28 4,
                           dctl := at_ h 32 4, cookie := at_ h 36 4, task := BitVec.ofNat 24 (at_ h 24 3),
                           txr := stTxr a.status }
        let s1 := modDie s die fun d => { d with graphs := tset {} d.graphs slot g, gseq := d.gseq + 1 }
        (dispatchNodes s1 die, nodeCookie gen slot 0)

/-- GRAPH_LOAD (R381, R384). -/
def execGraphLoad (s : State) : Out :=
  match s.ev with
  | some (.graphLoad die ctx lane header prio) =>
    let r := loadGraph s die ctx lane header prio
    .next (answerTo r.1 (purlinKey die) (.lane ctx lane) r.2)
  | _ => .fault .noEvent

/-- LAUNCH_ANSWER: the answer reaches LNCH or GSUB, or the Purlin, which takes back a node that was answered with 4 (R378,
R382). -/
def execLaunchAnswer (s : State) : Out :=
  match s.ev with
  | some (.launchAnswer who v k) =>
    match who with
    | .nobody => .next s
    | .lane ctx l => .next (routeAnswer s ctx (some l) v (.launchAnswer who v k))
    | .purlin die ck =>
      let slot := ck / 2 ^ 16 % 64
      let g := tget {} (getDie s die).graphs slot
      if v = 4 ∧ g.used = true ∧ g.gen = ck / 2 ^ 24 then
        .next (dispatchNodes (modGraph s die slot fun g => modNode g (ck % 2 ^ 16) fun e =>
          if e.state = 2 then { e with state := 0 } else e) die)
      else .next s
  | _ => .fault .noEvent

/-- A class-1 message at the Purlin (R383). The completion message of a launch that was refused with status 4 changes no
node: the answer has taken it back (R382, log 36). In a graph that has failed, the message that a node has been waiting for
only takes the node out of flight, and it is counted as discarded unless it ends a launch (R386, log 146). -/
def nodeDone (s : State) (m : Msg) : State :=
  let die := dieOf m.dst
  let dropped (z : State) : State := setDieReg z die 0x1D3 (countSat (dieReg z die 0x1D3))
  let ck := at_ m.payload 0 4
  let slot := ck / 2 ^ 16 % 256
  let g := tget {} (getDie s die).graphs slot
  match g.nodes.drop (ck % 2 ^ 16) with
  | n :: _ =>
    let launch := nodeKind n.bytes == 0 && !n.host
    if g.used && g.gen == ck / 2 ^ 24 && n.state == 2 && !(launch && at_ m.payload 8 4 == 4) then
      if g.failed.isSome && !launch then
        dropped (dispatchNodes (modGraph s die slot fun g => modNode g (ck % 2 ^ 16) fun e => { e with state := 3 }) die)
      else if at_ m.payload 8 4 = 0 then dispatchNodes (modGraph s die slot fun g => completeNode g (ck % 2 ^ 16)) die
      else dispatchNodes (modGraph s die slot fun g =>
        { modNode g (ck % 2 ^ 16) (fun e => { e with state := 3 }) with
          failed := some (g.failed.getD (ck % 2 ^ 16)) }) die
    else dropped s
  | [] => dropped s

/-- PURLIN_NODE_COMPLETE (R383). -/
def execPurlinNodeComplete (s : State) : Out :=
  match s.ev with
  | some (.purlinNodeComplete m) => .next (nodeDone (stampTake s m.dst m.stamp) m)
  | _ => .fault .noEvent

/-! ## LNCH (R378) -/

/-- The answers that the issuing lane waits for: how many are out, what has come, and what has not been sent. -/
def answerOf (s : State) : Option (Nat × List (Nat × Nat) × List Msg) :=
  match (curLane s (execHead s)).wait with
  | .answer n st left => some (n, st, left)
  | _ => none

/-- The value that a lane was answered with. -/
def answerVal (st : List (Nat × Nat)) (l : Nat) : Nat := ((st.find? fun e => e.1 == l).map (·.2)).getD 0

/-- The scope of the wait before a unit goes to nodes: .sys where one lies in another package (R197, R378). -/
def relScope (s : State) (nodes : List Nat) : Scope :=
  if nodes.any fun n => pkgOf (keyNamed s (pkgOf (curCtx s).core) n) != pkgOf (curCtx s).core then .sys else .pkg

/-- The kind of unit that a node id names (R212). -/
def nodeKindOf (n : Nat) : Nat := n / 32 % 8

/-- Sends launch messages as far as there is room, and waits for their answers. -/
def sendLaunches (s : State) (out : Nat) (st : List (Nat × Nat)) (ms : List Msg) : State :=
  let r := enterAll s ms
  waitAt r.1 (.answer out st r.2)

/-- LNCH in its two forms. -/
def runLnch (i : Instr) (s : State) (flow : Nat) : Out :=
  match answerOf s with
  | some (0, st, _) => .next (complete i (modExec s fun l a => putX i (BitVec.ofNat 64 (answerVal st l)) a))
  | some (n, st, left) => .next (sendLaunches s n st left)
  | none =>
    let ls := execLanes s
    let v (l : Nat) := valsOf i (curLane s l)
    let off (l : Nat) : Word := (v l).s2.setWidth 32
    let node (l : Nat) : Nat := ((v l).s1.setWidth 32 : Word).toNat
    if flow = 2 ∧ curPriv s = false then privTrap i s
    else
      let fails := ls.flatMap fun l =>
        (msgFail s l (off l) 48 16).toList
          ++ (if validNode (node l) then [] else
              [{ lane := l, fail := { vector := 19, reason := 6 }, addr := 0 : LaneFail }])
      match fails with
      | f :: fs => raiseFails i (keepMsg s ls off 48) (f :: fs)
      | [] =>
        if ls.any fun l => msgWaits s l (off l) 48 then retry s
        else
          let s1 := msgForce s ls off 48
          match poisonPayload s1 ls off 48 with
          | f :: fs => raiseMem i s1 (f :: fs)
          | [] =>
            if accessesOut s s.cur.ctx ls (relScope s (ls.map node)) then retry s
            else
              let good := ls.filter fun l => nodeKindOf (node l) == 0 || nodeKindOf (node l) == 3
              let st := (ls.filter fun l => !good.contains l).map fun l => (l, 3)
              let ms := good.map fun l =>
                { laneMsg s1 l (BitVec.ofNat 32 (node l)) 0 flow true false (msgBytes s1 l (off l) 48).1 with
                  who := .lane s.cur.ctx l }
              .next (sendLaunches s1 ms.length st ms)

/-- LNCH (R378). -/
def execLnch (o : Opnds) (s : State) : Out := runLnch (.lnch o) s 1

/-- LNCH.hw (R378). -/
def execLnchHw (o : Opnds) (s : State) : Out := runLnch (.lnchHw o) s 2

/-! ## GSUB and GDONE (R384, R385) -/

/-- GSUB (R384). -/
def execGsub (o : Opnds) (s : State) : Out :=
  let i := Instr.gsub o
  match answerOf s with
  | some (0, st, _) => .next (complete i (modExec s fun l a => setLanePair o.x.toNat (BitVec.ofNat 64 (answerVal st l)) a))
  | some (_, _, _) => .next s
  | none =>
    let ls := execLanes s
    if accessesOut s s.cur.ctx ls .pkg then retry s
    else
      let die := dieOf (curCtx s).core
      .next (pushFlight (waitAt s (.answer ls.length [] []))
        (ls.map fun l => .graphLoad die s.cur.ctx l (valsOf i (curLane s l)).s2 (o.imm.extractLsb' 0 2).toNat))

/-- GDONE in its two forms. -/
def runGdone (i : Instr) (s : State) (fail : Nat) : Out :=
  match msendLeft s with
  | some left => sendAll i s left
  | none =>
    let ls := execLanes s
    let v (l : Nat) := valsOf i (curLane s l)
    let node (l : Nat) : Word := (v l).s1.setWidth 32
    gated i s <|
    match ls.filter fun l => !validNode (node l).toNat with
    | h :: hs => trap i s { vector := 19, reason := 6, info := 1, mask := maskOf (h :: hs) }
    | [] =>
      if accessesOut s s.cur.ctx ls (relScope s (ls.map fun l => (node l).toNat)) then retry s
      else
        sendAll i (takeQueues i s) (ls.map fun l =>
          laneMsg s l (node l) 1 0 true false
            (padBytes 48 (leBytes 4 (v l).s2.toNat ++ leBytes 4 0 ++ leBytes 4 fail)))

/-- GDONE (R385). -/
def execGdone (o : Opnds) (s : State) : Out := runGdone (.gdone o) s 0

/-- GDONE.fail (R385). -/
def execGdoneFail (o : Opnds) (s : State) : Out := runGdone (.gdoneFail o) s 1

end Sys2Proof.Machine
end

