-- ==== Sys2Proof/Machine/Tables.lean ====
section
/-! DEFINITION. Decode tables: their entries, the presets, the test of R36, and encoding into a table (R33 to R45). -/

namespace Sys2Proof.Machine

open Sys2Proof

/-- An entry of a table. -/
def tabEntry (t : FmtTable) (c : Nat) : BitVec 19 := getD t.entries c
where
  /-- The entry at a place of the list. -/
  getD : List (BitVec 19) → Nat → BitVec 19
    | [], _ => 0
    | v :: _, 0 => v
    | _ :: r, n + 1 => getD r n

/-- The half size h (R36). -/
def tabHalf (t : FmtTable) : Nat := if t.four then 8 else 128

/-- DEC8: the value of a code under the table TXR (R45). -/
def dec8Val (t : FmtTable) (c : Nat) : FVal := e8m10Val t.txr (tabEntry t (if t.four then c % 16 else c))

/-! ## The test of R36 -/

/-- Equal values, zeros of either sign alike. -/
def sameValue (a b : FVal) : Bool :=
  match a, b with
  | .nan _, .nan _ => true
  | .nan _, _ | _, .nan _ => false
  | _, _ => cmpVal a b == .eq

/-- The values of codes a to a+n-1. -/
def tabVals (txr : Bool) (es : List (BitVec 19)) : List FVal := es.map (e8m10Val txr)

/-- A list of values does not fall (R36). -/
def nonDecreasing : List FVal → Bool
  | a :: b :: t => cmpVal a b != .gt && nonDecreasing (b :: t)
  | _ => true

/-- The four conditions of R36 on the entries of a table. -/
def encodable (four txr : Bool) (entries : List (BitVec 19)) : Bool :=
  let h := if four then 8 else 128
  let lo := tabVals txr (entries.take h)
  let hi := tabVals txr ((entries.drop h).take h)
  let pre := lo.takeWhile fun v => !isNan v
  let rest := lo.drop pre.length
  let body := pre.take (pre.length - 1)
  1 ≤ pre.length && rest.all isNan
    && pre.all (fun v => isZero v || !signOf v) && nonDecreasing pre
    && body.all (fun v => !isInf v) && (pre.length != 1 || pre.all (fun v => !isInf v))
    && (lo.zip hi).all fun p => sameValue (negVal p.1) p.2

/-! ## Presets (R37 to R41) -/

/-- The entry of a code below h in a format of `eb` exponent bits and `mb` mantissa bits: the top row reads under TXR. -/
def presetEntry (eb mb : Nat) (bias : Int) (txr : Bool) (neg : Bool) (c : Nat) : BitVec 19 :=
  let e := c / 2 ^ mb
  let m := c % 2 ^ mb
  let top := 2 ^ eb - 1
  if top < e then e8m10NaN txr
  else if e = top ∧ txr = false then (if m = 0 then e8m10Inf ||| (if neg then 0x40000 else 0) else e8m10NaN false)
  else if e = top ∧ m = 2 ^ mb - 1 then e8m10NaN txr
  else if e = 0 then e8m10Enc neg m (1 - bias - mb)
  else e8m10Enc neg (2 ^ mb + m) ((e : Int) - bias - mb)

/-- Both halves of a preset. -/
def presetBoth (h eb mb : Nat) (bias : Int) (txr : Bool) : List (BitVec 19) :=
  (List.range h).map (presetEntry eb mb bias txr false) ++ (List.range h).map (presetEntry eb mb bias txr true)

/-- The entries of a preset (R38 to R42). -/
def presetEntries (p : Preset) (txr : Bool) : List (BitVec 19) :=
  match p with
  | .e4m3 => presetBoth 128 4 3 7 txr
  | .e5m2 => presetBoth 128 5 2 15 txr
  | .e3m2 => presetBoth 128 3 2 3 txr
  | .e2m1 => presetBoth 8 2 1 1 txr
  | .int8 => (List.range 256).map fun c => if c < 128 then e8m10Enc false c 0 else e8m10Enc true (256 - c) 0

/-- A loaded table. -/
def loadedTable (four txr : Bool) (entries : List (BitVec 19)) : FmtTable :=
  { loaded := true, four, txr, encodable := encodable four txr entries, entries }

/-! ## ENC8 (R43) -/

/-- A finite magnitude in units of 2^-1100. -/
def magUnits : FVal → Nat
  | .fin _ m e => m * 2 ^ (e + 1100).toNat
  | _ => 0

/-- The largest code of lo..hi whose entry is at most `a`, by bisection. -/
def encSearch (T : Nat → Nat) (a : Nat) : Nat → Nat → Nat → Nat
  | 0, lo, _ => lo
  | fuel + 1, lo, hi =>
    if lo < hi then
      let mid := (lo + hi + 1) / 2
      if T mid ≤ a then encSearch T a fuel mid hi else encSearch T a fuel lo (mid - 1)
    else lo

/-- The lowest code with the entry of `dn`. -/
def encDown (T : Nat → Nat) : Nat → Nat
  | 0 => 0
  | d + 1 => if T d = T (d + 1) then encDown T d else d + 1

/-- The code between two neighbours (R43). -/
def encChoose (r : RMode) (s : Bool) (a dn up tdn tup : Nat) : Nat :=
  match r.mode with
  | .rne =>
    if a - tdn < tup - a then dn
    else if tup - a < a - tdn then up
    else if dn % 2 = 0 then dn else if up % 2 = 0 then up else dn
  | .rtz => dn
  | .rup => if s then dn else up
  | .rdn => if s then up else dn
  | .sr => if r.lfsr < (a - tdn) * 2 ^ 24 / (tup - tdn) then up else dn

/-- `enc8` (R43) with the saturation of R136, for an operand with its sign bit: the code and its flags. -/
def enc8 (s : Bool) (x : FVal) (t : FmtTable) (r : RMode) (sat : Bool) : Nat × FFlags :=
  let h := tabHalf t
  let lo := tabVals t.txr (t.entries.take h)
  let pre := lo.takeWhile fun v => !isNan v
  let p := pre.length
  let hasInf := match pre.getLast? with
    | some v => isInf v
    | none => false
  let fmax := if hasInf then p - 2 else p - 1
  let T (c : Nat) : Nat := magUnits (e8m10Val t.txr (tabEntry t c))
  let sgn (c : Nat) : Nat := c + (if s then h else 0)
  match x with
  | .nan sig => if p < h then (sgn p, { nv := sig }) else (sgn 0, flagNV)
  | .inf _ => if hasInf then (sgn (p - 1), {}) else (sgn fmax, flagNV)
  | .fin _ _ _ =>
    let a := magUnits x
    let g := if 0 < fmax then T fmax - T (fmax - 1) else T fmax
    if T fmax < a then
      if r.mode = .rne ∧ 2 * (a - T fmax) < g then (sgn fmax, { nx := true })
      else
        let away := match r.mode with
          | .rne | .sr => true
          | .rtz => false
          | .rup => !s
          | .rdn => s
        (sgn (if away && hasInf && !sat then p - 1 else fmax), { of := true, nx := true })
    else if a < T 0 then (sgn 0, { nx := true, uf := true })
    else
      let l := encSearch T a 8 0 fmax
      let dn := encDown T l
      if T dn = a then (sgn dn, {})
      else
        let up := l + 1
        let small := (pre.map magUnits).any fun v => v != 0 && v ≤ a
        (sgn (encChoose r s a dn up (T dn) (T up)), { nx := true, uf := !small })

end Sys2Proof.Machine
end

