-- ==== Sys2Proof/Machine/Floating.lean ====
section
/-! DEFINITION. The floating-point instructions and conversions (R119 to R139). -/

namespace Sys2Proof.Machine

open Sys2Proof

/-! ## Elements -/

/-- The encoding that an operand of a type holds (R119): its low bits. -/
def elemBits (t : FType) (v : DWord) : Nat :=
  match t with
  | .f64 => v.toNat
  | .f32 => (v.extractLsb' 0 32).toNat
  | _ => (v.extractLsb' 0 16).toNat

/-- Element 1 of a two-element operand (R29). -/
def elemHigh (v : DWord) : Nat := (v.extractLsb' 16 16).toNat

/-- Runs an operation on the element, or on both elements with their flags joined (R29). -/
def onElems (t : FType) (v : Vals) (g : Nat → Nat → Nat → Rounded) : Rounded :=
  let r := g (elemBits t v.x) (elemBits t v.s1) (elemBits t v.s2)
  match t with
  | .f16x2 | .bf16x2 =>
    let h := g (elemHigh v.x) (elemHigh v.s1) (elemHigh v.s2)
    { bits := r.bits + h.bits * 2 ^ 16, flags := orFlags r.flags h.flags }
  | _ => r

/-- An instruction whose result and flags are a function of its operands and of RM (R120, R123). -/
def runFp (i : Instr) (s : State) (f : RMode → Vals → Rounded) : Out :=
  runLanes i s fun _ a v =>
    let r := f (rmOf (stRM a.status)) v
    putX i (BitVec.ofNat 64 r.bits) { a with status := raiseFlags a.status r.flags }

/-- An operation on values of the type's format: x, s1 and s2. -/
def runArith (i : Instr) (t : FType) (s : State) (f : Fmt → RMode → FVal → FVal → FVal → Rounded) : Out :=
  runFp i s fun r v => onElems t v fun x a b =>
    f (fmtOf t) r (fDecode (fmtOf t) x) (fDecode (fmtOf t) a) (fDecode (fmtOf t) b)

/-! ## Rounding modes of an instruction -/

/-- The mode code of FRND and CVTI (R131, R134). -/
def modeOf (code : Nat) (rm : BitVec 2) : RMode :=
  match code with
  | 1 => { mode := .rne } | 2 => { mode := .rtz } | 3 => { mode := .rup } | 4 => { mode := .rdn }
  | _ => rmOf rm

/-- STATUS.RM, or stochastic rounding with the lane's LFSR (R48). -/
def convMode (o : Opnds) (status : DWord) : RMode :=
  if o.g.sr then { mode := .sr, lfsr := (stLfsr status).toNat / 256 } else rmOf (stRM status)

/-- LFSR steps after a stochastic rounding of a finite operand (R48). -/
def stepSr (o : Opnds) (v : FVal) (status : DWord) : DWord :=
  match v with
  | .fin _ _ _ => if o.g.sr then stSetLfsr status (lfsrStep (stLfsr status)) else status
  | _ => status

/-- One element converted to a format, in STATUS: the encoding, and STATUS with the flags raised and LFSR stepped. -/
def convElem (o : Opnds) (f : Fmt) (v : FVal) (status : DWord) : Nat × DWord :=
  let r := roundVal f (convMode o status) v o.g.sat
  (r.bits, stepSr o v (raiseFlags status r.flags))

/-! ## Integer types of conversions (R132) -/

/-- The limits of an integer type (R24, R134). -/
def intLimits (n : ISize) (nat : Bool) : Int × Int :=
  match n with
  | .s8 => (-128, 127)
  | .n8 => (0, 255)
  | .s16 => (-32768, 32767)
  | .n16 => (0, 65535)
  | .w64 => if nat then (0, 2 ^ 64 - 1) else (-(2 ^ 63), 2 ^ 63 - 1)
  | _ => if nat then (0, 2 ^ 32 - 1) else (-(2 ^ 31), 2 ^ 31 - 1)

/-- The integer that an operand holds (R135). -/
def intValue (n : ISize) (nat : Bool) (v : DWord) : Int :=
  match n with
  | .s8 => (v.extractLsb' 0 8).toInt
  | .n8 => (v.extractLsb' 0 8).toNat
  | .s16 => (v.extractLsb' 0 16).toInt
  | .n16 => (v.extractLsb' 0 16).toNat
  | .w64 => if nat then v.toNat else v.toInt
  | _ => if nat then (v.extractLsb' 0 32).toNat else (v.extractLsb' 0 32).toInt

/-- A result of CVTI in its register or pair (R134). -/
def intResult (n : ISize) (k : Int) : Nat :=
  match n with
  | .w64 => (BitVec.ofInt 64 k).toNat
  | _ => (BitVec.ofInt 32 k).toNat

/-! ## Tables of ENC8 and DEC8 (R138, R139) -/

/-- OWNER of the format contexts that a context claims (R314): a course's number, or none for a split strand. -/
def fmtOwner (x : Ctx) : Option Nat :=
  match x.kind with
  | .course => some x.num
  | _ => none

/-- The format context that serves a lane; a foreign one reads as not set and not loaded (R314). -/
def fmtOfLane (s : State) (x : Ctx) (l : Nat) : FmtCtx :=
  let f := tget {} (getCore s (laneCore x l)).fmts (x.slot.getD 0)
  if f.owner = fmtOwner x then f else {}

/-- The table that ENC8 or DEC8 names. -/
def tableOf (o : Opnds) (s : State) (l : Nat) : FmtTable :=
  let f := fmtOfLane s (curCtx s) l
  if o.imm.getLsbD 0 then f.b else f.a

/-- The table fault and the format-mismatch trap of a lane (R139). -/
def tableFails (enc : Bool) (o : Opnds) (s : State) (l : Nat) : List LaneFail :=
  let t := tableOf o s l
  let info : Word := if o.imm.getLsbD 0 then 1 else 0
  if !t.loaded then [{ lane := l, fail := { vector := 17, reason := 1 }, addr := 0, info }]
  else if enc && !t.encodable then [{ lane := l, fail := { vector := 17, reason := 2 }, addr := 0, info }]
  else if t.txr != stTxr (curLane s l).status then
    [{ lane := l, fail := { vector := 18, reason := 1 }, addr := 0, info }]
  else []

/-- ENC8 and DEC8: the table checks of R139 come after the queue operands are ready. -/
def runTable (enc : Bool) (i : Instr) (s : State) (f : Nat → Lane → Vals → Lane) : Out :=
  match queueGate i.opnds s, (execLanes s).flatMap (tableFails enc i.opnds s) with
  | .go, e :: es => raiseFails i s (e :: es)
  | _, _ => runLanes i s f

/-! ## Instructions -/

/-- FADD (R123). -/
def execFadd (t : FType) (o : Opnds) (s : State) : Out :=
  runArith (.fadd t o) t s fun f r _ a b => fAdd f r a b

/-- FSUB (R123). -/
def execFsub (t : FType) (o : Opnds) (s : State) : Out :=
  runArith (.fsub t o) t s fun f r _ a b => fSub f r a b

/-- FMUL (R123). -/
def execFmul (t : FType) (o : Opnds) (s : State) : Out :=
  runArith (.fmul t o) t s fun f r _ a b => fMul f r a b

/-- FMA (R123). -/
def execFma (t : FType) (o : Opnds) (s : State) : Out :=
  runArith (.fma t o) t s fun f r x a b => fMulAdd f r a b x

/-- FNMA (R123). -/
def execFnma (t : FType) (o : Opnds) (s : State) : Out :=
  runArith (.fnma t o) t s fun f r x a b => fNegMulAdd f r a b x

/-- FDIV (R123). -/
def execFdiv (t : FType) (o : Opnds) (s : State) : Out :=
  runArith (.fdiv t o) t s fun f r _ a b => fDiv f r a b

/-- FSQRT (R123). -/
def execFsqrt (t : FType) (o : Opnds) (s : State) : Out :=
  runArith (.fsqrt t o) t s fun f r _ _ b => fSqrt f r b

/-- FRCP (R123). -/
def execFrcp (t : FType) (o : Opnds) (s : State) : Out :=
  runArith (.frcp t o) t s fun f r _ _ b => fRcp f r b

/-- FRSQ (R123). -/
def execFrsq (t : FType) (o : Opnds) (s : State) : Out :=
  runArith (.frsq t o) t s fun f r _ _ b => fRsq f r b

/-- FEXP2 (R126). -/
def execFexp2 (t : FType) (o : Opnds) (s : State) : Out :=
  runArith (.fexp2 t o) t s fun f r _ _ b => fExp2 f r b

/-- FLOG2 (R126). -/
def execFlog2 (t : FType) (o : Opnds) (s : State) : Out :=
  runArith (.flog2 t o) t s fun f r _ _ b => fLog2 f r b

/-- FSIN (R126). -/
def execFsin (t : FType) (o : Opnds) (s : State) : Out :=
  runArith (.fsin t o) t s fun f r _ _ b => fSin f r b

/-- FCOS (R126). -/
def execFcos (t : FType) (o : Opnds) (s : State) : Out :=
  runArith (.fcos t o) t s fun f r _ _ b => fCos f r b

/-- FMIN (R124). -/
def execFmin (t : FType) (o : Opnds) (s : State) : Out :=
  runFp (.fmin t o) s fun _ v => onElems t v fun _ a b => fMinMax (fmtOf t) false a b

/-- FMAX (R124). -/
def execFmax (t : FType) (o : Opnds) (s : State) : Out :=
  runFp (.fmax t o) s fun _ v => onElems t v fun _ a b => fMinMax (fmtOf t) true a b

/-- FABS (R125). -/
def execFabs (t : FType) (o : Opnds) (s : State) : Out :=
  runFp (.fabs t o) s fun _ v => onElems t v fun _ _ b => { bits := fAbsNeg (fmtOf t) false b }

/-- FNEG (R125). -/
def execFneg (t : FType) (o : Opnds) (s : State) : Out :=
  runFp (.fneg t o) s fun _ v => onElems t v fun _ _ b => { bits := fAbsNeg (fmtOf t) true b }

/-- FCLS (R127). -/
def execFcls (t : FType) (o : Opnds) (s : State) : Out :=
  runFp (.fcls t o) s fun _ v => onElems t v fun _ _ b => { bits := 2 ^ fClass (fmtOf t) b }

/-- FSKP (R128, R129). -/
def execFskp (c : FCond) (t : FType) (o : Opnds) (s : State) : Out :=
  runLanes (.fskp c t o) s fun _ a v =>
    let f := fmtOf t
    let (h, fl) := fCondHolds c (fDecode f (elemBits t v.s1)) (fDecode f (elemBits t v.s2))
    { a with status := raiseFlags a.status fl, annul := if h then o.g.cnt.toNat + 1 else a.annul }

/-- FSETC (R128, R130). -/
def execFsetc (c : FCond) (t : FType) (o : Opnds) (s : State) : Out :=
  runFp (.fsetc c t o) s fun _ v =>
    let f := fmtOf t
    let (h, fl) := fCondHolds c (fDecode f (elemBits t v.s1)) (fDecode f (elemBits t v.s2))
    { bits := if h then 1 else 0, flags := fl }

/-- FRND (R131). -/
def execFrnd (t : FType) (o : Opnds) (s : State) : Out :=
  runLanes (.frnd t o) s fun _ a v =>
    let m := modeOf (o.imm.extractLsb' 0 3).toNat (stRM a.status)
    let r := onElems t v fun _ _ b => fRound (fmtOf t) m (o.imm.getLsbD 3) (fDecode (fmtOf t) b)
    putX (.frnd t o) (BitVec.ofNat 64 r.bits) { a with status := raiseFlags a.status r.flags }

/-- CVT (R133): to a two-element type, element 0 comes from s1 and element 1 from s2. -/
def execCvt (src dst : FType) (o : Opnds) (s : State) : Out :=
  runLanes (.cvt src dst o) s fun _ a v =>
    let put (n : Nat) (st : DWord) : Lane := putX (.cvt src dst o) (BitVec.ofNat 64 n) { a with status := st }
    match dst with
    | .f16x2 | .bf16x2 =>
      let (lo, st) := convElem o (fmtOf dst) (fDecode fp32 (elemBits .f32 v.s1)) a.status
      let (hi, st) := convElem o (fmtOf dst) (fDecode fp32 (elemBits .f32 v.s2)) st
      put (lo + hi * 2 ^ 16) st
    | _ =>
      let two := src = .f16x2 ∨ src = .bf16x2
      let b := if two ∧ o.imm.getLsbD 0 = true then elemHigh v.s2 else elemBits src v.s2
      let (n, st) := convElem o (fmtOf dst) (fDecode (fmtOf src) b) a.status
      put n st

/-- CVTI (R134). -/
def execCvti (n : ISize) (t : FType) (o : Opnds) (s : State) : Out :=
  runFp (.cvti n t o) s fun r v =>
    let m := match (o.imm.extractLsb' 1 3).toNat with
      | 0 => r
      | k => modeOf k 0
    let lim := intLimits n (o.imm.getLsbD 0)
    let (k, fl) := fToInt m lim.1 lim.2 (fDecode (fmtOf t) (elemBits t v.s2))
    { bits := intResult n k, flags := fl }

/-- CVTF (R135). -/
def execCvtf (n : ISize) (t : FType) (o : Opnds) (s : State) : Out :=
  runFp (.cvtf n t o) s fun r v => fFromInt (fmtOf t) r (intValue n (o.imm.getLsbD 0) v.s2)

/-- ENC8 (R136). -/
def execEnc8 (t : FType) (o : Opnds) (s : State) : Out :=
  runTable true (.enc8 t o) s fun l a v =>
    let f := fmtOf t
    let b := elemBits t v.s2
    let x := fDecode f b
    let neg := b / 2 ^ (f.p - 1 + f.eb) % 2 == 1
    let (c, fl) := enc8 neg x (tableOf o s l) (convMode o a.status) o.g.sat
    putX (.enc8 t o) (BitVec.ofNat 64 c) { a with status := stepSr o x (raiseFlags a.status fl) }

/-- DEC8 (R137): an E8M10 NaN gives the canonical NaN and no flag. -/
def execDec8 (t : FType) (o : Opnds) (s : State) : Out :=
  runTable false (.dec8 t o) s fun l a v =>
    let x := match dec8Val (tableOf o s l) (v.s2.extractLsb' 0 8).toNat with
      | .nan _ => .nan false
      | w => w
    -- beyond FP32's range the value becomes an infinity whatever RM is (R32)
    let m : RMode := if t = .f32 then { mode := .rne } else rmOf (stRM a.status)
    let r := roundVal (fmtOf t) m x
    putX (.dec8 t o) (BitVec.ofNat 64 r.bits) { a with status := raiseFlags a.status r.flags }

end Sys2Proof.Machine
end

