-- ==== Sys2Proof/Machine/Engine.lean ====
section
/-! DEFINITION. Engine and copy queues (R324 to R328, R459, R464): their entries, joins, the order in which entries start,
and completion counters. -/

namespace Sys2Proof.Machine

open Sys2Proof

/-! ## Queues -/

/-- The entries of a queue. -/
def queueOf (s : State) : QueueId → List QEnt
  | .matrix t => (getTruss s t).matrix
  | .gather t => (getTruss s t).gather
  | .slice k => (getCore s k).slice
  | .copyT t => (getTruss s t).copy
  | .copyE k => (getCore s k).copy

/-- A queue with its entries changed. -/
def modEntries (s : State) (q : QueueId) (f : List QEnt → List QEnt) : State :=
  match q with
  | .matrix t => modTruss s t fun c => { c with matrix := f c.matrix }
  | .gather t => modTruss s t fun c => { c with gather := f c.gather }
  | .slice k => modCore s k fun c => { c with slice := f c.slice }
  | .copyT t => modTruss s t fun c => { c with copy := f c.copy }
  | .copyE k => modCore s k fun c => { c with copy := f c.copy }

/-- The entries that a queue holds (R324, R459). -/
def queueCap : QueueId → Nat
  | .matrix _ => 64
  | .gather _ => 32
  | .slice _ => 4
  | .copyT t => if t % 16 = 8 then 16 else 32
  | .copyE _ => 8

/-- A queue has room for one more entry. -/
def queueRoom (s : State) (q : QueueId) : Bool := (queueOf s q).length < queueCap q

/-- The queue of the matrix instructions of a context (R324). -/
def matrixQueue (x : Ctx) : QueueId := if x.kind == .course then .matrix (trussOf x.core) else .slice x.core
/-- The copy queue of a core (R459). -/
def copyQueue (core : Nat) : QueueId := match coreKind core with | .eave => .copyE core | _ => .copyT (trussOf core)

/-- An entry is a join (R328, R464). -/
def isJoin (e : QEnt) : Bool :=
  match e.instr with
  | .mqf _ _ | .cpyJoin _ => true
  | _ => false

/-- An entry as the lane l of the issuer enqueues it; its number is that of the step. -/
def entryOf (i : Instr) (s : State) (l : Nat) : QEnt :=
  let x := curCtx s
  let a := curLane s l
  let v := valsOf i a
  { id := s.free, instr := i, ctx := s.cur.ctx, lane := l, core := curCore s l, x := v.x, s1 := v.s1, s2 := v.s2,
    task := x.task, ttb := a.ttb, priv := stPriv a.status, txr := stTxr a.status, rm := stRM a.status,
    slot := x.slot.getD 0, course := x.kind == .course }

/-- Enqueues an entry and completes, or waits for room (R324). A re-executed context's entry is left out (R284). -/
def enqueue (i : Instr) (s : State) (q : QueueId) (e : QEnt) : Out :=
  let s1 := modExec s fun _ a => consume i.opnds a
  if muted s then .next (complete i s1)
  else if queueRoom s q then .next (complete i (modEntries s1 q fun l => l ++ [e]))
  else retry s

/-- Places one join in each of several queues (R328). -/
def enqueueJoin (i : Instr) (s : State) (qs : List QueueId) : Out :=
  if muted s then .next (complete i s)
  else if qs.all (queueRoom s) then
    let e := entryOf i s (execHead s)
    .next (complete i (qs.foldl (fun z q => modEntries z q fun l => l ++ [e]) s))
  else retry s

/-- The matrix, gather and slice queues that a mask names, for an issuer (R328). -/
def maskQueues (s : State) (mask : Nat) : List QueueId :=
  let core := curCore s (execHead s)
  (if mask.testBit 0 then [.matrix (trussOf core)] else []) ++ (if mask.testBit 1 then [.gather (trussOf core)] else [])
    ++ (if mask.testBit 2 then [.slice core] else [])

/-! ## Starting (R324, R328, R336) -/

/-- The queues that may hold a join. -/
def joinQueues (e : QEnt) : List QueueId :=
  [.matrix (trussOf e.core), .gather (trussOf e.core), .slice e.core, copyQueue e.core]

/-- A join is over: in every queue that holds it, nothing stands before it. -/
def joinOver (s : State) (e : QEnt) : Bool :=
  (joinQueues e).all fun q =>
    let l := queueOf s q
    !(l.any fun k => k.id == e.id && isJoin k) || (match l with | k :: _ => k.id == e.id && isJoin k | [] => true)

/-- The entry that a queue starts next: none while one runs; a deferred entry is passed over, a join is not; one that was
parked after its start comes first (R328, R336, R337). -/
def nextEntry (s : State) (q : QueueId) : Option QEnt :=
  let l := queueOf s q
  if l.any (·.started) then none
  else
    match (l.find? fun e => e.sub && !e.parked).or (l.find? fun e => !e.parked || isJoin e) with
    | none => none
    | some e => if isJoin e && !joinOver s e then none else some e

/-- Changes the entry of a number in a queue. -/
def modEntry (s : State) (q : QueueId) (id : Nat) (f : QEnt → QEnt) : State :=
  modEntries s q fun l => l.map fun e => if e.id = id then f e else e
/-- Removes the entry of a number from a queue. -/
def dropEntry (s : State) (q : QueueId) (id : Nat) : State := modEntries s q fun l => l.filter fun e => e.id != id

/-- The entry of a queue that runs. -/
def runningEntry (s : State) (q : QueueId) : Option QEnt := (queueOf s q).find? (·.started)

/-! ## Completion counters (R325, R326) -/

/-- The flags of roundings in their places in bits 38:33, less 33 (R323, R325). -/
def ccFlags (f : FFlags) : Nat :=
  (if f.nx then 1 else 0) + (if f.uf then 2 else 0) + (if f.of then 4 else 0) + (if f.nv then 8 else 0)
/-- POISON and FAULT among those flags. -/
def ccPoison : Nat := 16
def ccFault : Nat := 32
/-- Flags of both. -/
def orCc (a b : Nat) : Nat := Nat.lor a b

/-- A counter takes flags, and one more completion. -/
def ccCount (s : State) (core n flags : Nat) : State :=
  let v := ccReg s core n
  setCcReg s core n (setFld (v ||| BitVec.ofNat 64 (flags * 2 ^ 33)) 0 32 (fld v 0 32 + 1))

/-- The counter that an entry names. -/
def ccOf (i : Instr) : Nat := (i.opnds.imm.extractLsb' 0 7).toNat

/-- An entry has completed: it leaves its queue, and its counter counts it unless its task was killed (R257, R326). -/
def finishEntry (s : State) (q : QueueId) (e : QEnt) (flags : Nat) : State :=
  let s1 := dropEntry s q e.id
  if e.killed then s1 else ccCount s1 e.core (ccOf e.instr) flags

/-! ## Checks at issue -/

/-- The lowest vector among checks that failed is raised, in every lane that executes the instruction (R235, log 25). -/
def raiseIssue (i : Instr) (s : State) (fs : List LaneFail) : Out :=
  let v := lowVector fs
  match fs.find? fun f => f.fail.vector == v with
  | some f => trapExec i s v f.fail.reason f.info f.addr
  | none => .next s

/-- A failed check of the issuing lane. -/
def issueFail (vector reason : Nat) (addr : DWord := 0) (info : Word := 0) : LaneFail :=
  { lane := 0, fail := { vector, reason }, addr, info }

/-- An address must be a multiple of n. -/
def alignFail (addr : DWord) (n : Nat) : List LaneFail := if addr.toNat % n = 0 then [] else [issueFail 8 0 addr]
/-- A range must lie within a space of a size (R142, R313). -/
def rangeFail (lim start len reason : Nat) : List LaneFail :=
  if lim < start + len then [issueFail 9 reason (BitVec.ofNat 64 start)] else []

/-- The pages of 4 KiB of n bytes at a virtual address: each address checked, with the pages that pass. -/
def checkPages (s : State) (l : Nat) (va n : Nat) (k : AccKind) : List (Except LaneFail Passed) :=
  if n = 0 then []
  else (numsFrom (va / 4096) ((va + n - 1) / 4096 - va / 4096 + 1)).map fun p =>
    checkAddr s l (BitVec.ofNat 64 (if p * 4096 < va then va else p * 4096)) 1 k false false

/-- The pages that checks passed, as virtual and physical numbers. -/
def pagesOf (ps : List Passed) : List (Nat × Nat) := (ps.map fun p => (p.acc.va.toNat / 4096, p.acc.pa / 4096)).dedup

/-! ## An entry's memory -/

/-- The `loc` space of an entry, its size, and its accumulator space (R311, R313, R335). -/
def entLoc (e : QEnt) : Space := if e.course then .local (trussOf e.core) else .scratch e.core
def entAcc (e : QEnt) : Space := if e.course then .accTruss (trussOf e.core) else .accCore e.core
def entLimit (s : State) (e : QEnt) : Nat :=
  match entLoc e with
  | .scratch c => scratchSize s c - (if replayOn s c && e.slot != 0 then 16384 else 0)
  | sp => spaceSize s sp

/-- n bytes of `loc` as a number, and whether they are poisoned. -/
def locRead (s : State) (e : QEnt) (a n : Nat) : Nat × Bool := (spaceNat s (entLoc e) a n, spaceBad s (entLoc e) a n)

/-- n bytes at a physical address as an engine reads them for an entry: none where another package refuses. -/
def physRead (s : State) (e : QEnt) (pa n : Nat) : Option (Nat × Bool) :=
  if !accPasses s (pkgOf e.core) e.task pa n .read then none
  else
    match e.got.find? fun g => g.1 ≤ pa && pa + n ≤ g.1 + 64 with
    | some g => some (leNat ((g.2.drop (pa - g.1)).take n), false)
    | none => if targetOf pa = .window then some (0, false) else some (memNat s pa n, memBad s pa n)

/-- n bytes at a virtual address on a page that was translated at issue. A value that another package refuses is not
stated (log 42). -/
def globRead (s : State) (e : QEnt) (a n : Nat) : Nat × Bool :=
  match e.pages.find? fun p => p.1 == a % 2 ^ 64 / 4096 with
  | some p => (physRead s e (p.2 * 4096 + a % 4096) n).getD
      ((Config.freeValue s.free (2 ^ 32 + a)).toNat % 2 ^ (8 * n), false)
  | none => (0, false)

/-- The lines of a global source count for the lease of a course (R389, R391). -/
def touchLines (s : State) (e : QEnt) (a n : Nat) : State :=
  if n = 0 then s
  else (numsFrom (a / lineBytes) ((a + n - 1) / lineBytes - a / lineBytes + 1)).foldl (fun z k =>
    let va := k * lineBytes
    match e.pages.find? fun p => p.1 == va / 4096 with
    | some p => touch z e.ctx e.core (BitVec.ofNat 64 va) (p.2 * 4096 + va % 4096)
    | none => z) s

end Sys2Proof.Machine
end

