-- ==== Sys2Proof/Machine/Matrix.lean ====
section
/-! DEFINITION. The matrix engine: format contexts, tiles, accumulation, and what an entry of the matrix, gather and slice
queues does (R313 to R323, R329 to R335). -/

namespace Sys2Proof.Machine

open Sys2Proof

/-! ## Format words (R315) -/

def fwA (w : BitVec 9) : Nat := (w.extractLsb' 0 3).toNat
def fwB (w : BitVec 9) : Nat := (w.extractLsb' 3 3).toNat
def fwF64 (w : BitVec 9) : Bool := w.getLsbD 6
def fwScl (w : BitVec 9) : Bool := w.getLsbD 7
def fwSat (w : BitVec 9) : Bool := w.getLsbD 8

/-- The format words of R315. -/
def fwOk (w : BitVec 9) : Bool :=
  let a := fwA w
  let b := fwB w
  (a ≤ 1 && b ≤ 1) || (a == b && 2 ≤ a && a ≤ 4) || (a == 5 && b == 5 && fwF64 w && !fwScl w)

/-- The bits of an element of a format (R319). -/
def elemWidth (f : Nat) : Nat := getAt 8 [8, 4, 16, 16, 32, 64] f
/-- The accumulator format and its bytes. -/
def accFmt (w : BitVec 9) : Fmt := if fwF64 w then fp64 else fp32
def accBytes (w : BitVec 9) : Nat := if fwF64 w then 8 else 4

/-- Rows, columns and depth of a shape (R319). -/
def shapeM (sh : Shape) : Nat := 16 * 2 ^ sh.m.toNat
def shapeN (sh : Shape) : Nat := 16 * 2 ^ sh.n.toNat
def shapeK (sh : Shape) : Nat := 32 * 2 ^ sh.k.toNat

/-- The bytes of an r by c tile of a format. -/
def tileBytes (f r c : Nat) : Nat := r * c * elemWidth f / 8

/-! ## Claiming format contexts (R314, R316 to R318) -/

/-- The cores whose slices a context claims in. -/
def claimCores (x : Ctx) : List Nat := setCores x.core (ctxWidth x)

/-- The cores whose format contexts an entry uses. -/
def entryCores (s : State) (e : QEnt) : List Nat := if e.course then claimCores (getCtx s e.ctx) else [e.core]

/-- An entry names context `slot` on some core of a list (R316). -/
def names (s : State) (cores : List Nat) (slot : Nat) (e : QEnt) : Bool :=
  !isJoin e && e.slot == slot && (entryCores s e).any cores.contains

/-- An engine entry that names the issuer's format context has not completed (R316). -/
def fmtBusy (s : State) : Bool :=
  let x := curCtx s
  let cores := claimCores x
  let t := getTruss s (trussOf x.core)
  coreKind x.core == .dcore
    && (t.matrix ++ t.gather ++ cores.flatMap fun k => (getCore s k).slice).any (names s cores (x.slot.getD 0))

/-- The issuer's format context as a claim leaves it: a new OWNER clears it. -/
def claimed (x : Ctx) (f : FmtCtx) : FmtCtx := if f.owner = fmtOwner x then f else { owner := fmtOwner x }

/-- Writes the issuer's format context in every slice that it claims in. -/
def writeFmt (s : State) (f : FmtCtx → FmtCtx) : State :=
  let x := curCtx s
  (claimCores x).foldl (fun z k => modCore z k fun c =>
    { c with fmts := tset {} c.fmts (x.slot.getD 0) (f (claimed x (tget {} c.fmts (x.slot.getD 0)))) }) s

/-- A lane of a split course (R314, R338). -/
def splitLaneOf (x : Ctx) : Bool := x.split && x.kind == .course
/-- Matrix fault 3. -/
def splitFail (s : State) : List LaneFail := if splitLaneOf (curCtx s) then [issueFail 22 3] else []

/-- MFMT (R317): a lane of a split course faults first (log 43). -/
def execMfmt (o : Opnds) (s : State) : Out :=
  let i := Instr.mfmt o
  let w : BitVec 9 := o.imm.setWidth 9
  match splitFail s ++ (if fwOk w then [] else [issueFail 22 2]) with
  | f :: fs => raiseIssue i s (f :: fs)
  | [] =>
    if fmtBusy s then retry s
    else .next (complete i (writeFmt s fun f => { f with set := true, word := w }))

/-- The entries of a 4-bit table keep R35. -/
def fourOk (txr : Bool) (es : List (BitVec 19)) : Bool :=
  es.all fun e => isNan (e8m10Val txr e) || e.extractLsb' 0 7 == 0

/-- Loads a table into the issuer's format context; MTAB holds its strand for more rotations (R318). -/
def loadTable (i : Instr) (s : State) (tbl four : Bool) (es : List (BitVec 19)) : Out :=
  if fmtBusy s then retry s
  else
    let t := loadedTable four (stTxr (curLane s (execHead s)).status) es
    let s1 := modExec s fun _ a => consume i.opnds a
    let s2 := complete i (writeFmt s1 fun f => if tbl then { f with b := t } else { f with a := t })
    .next (modCtx s2 s.cur.ctx fun x => modLanes x s.cur.lanes fun _ a => { a with hold := if four then 1 else 16 })

/-- MTAB with a custom source (R318). -/
def execMtab (tbl four : Bool) (o : Opnds) (s : State) : Out :=
  let i := Instr.mtab tbl four o
  match queueGate o s with
  | .wait => retry s
  | .fail fs => raiseFails i s fs
  | .go =>
    let l := execHead s
    let x := curCtx s
    let a := (valsOf i (curLane s l)).s2.toNat % 2 ^ 32
    let n := if four then 16 else 256
    let sp := locSpace x l
    let place := alignFail (BitVec.ofNat 64 a) 4 ++ rangeFail (locLimit s x l) a (4 * n) 1
    let words := (List.range n).map fun k => spaceNat s sp (a + 4 * k) 4
    let es := words.map (BitVec.ofNat 19)
    let info : Word := if tbl then 1 else 0
    let inside := match (List.range n).find? fun k => spaceBad s sp (a + 4 * k) 4 with
      | some k => [issueFail 14 0 (BitVec.ofNat 64 (a + 4 * k))]
      | none =>
        (if words.any fun w => 2 ^ 19 ≤ w then [issueFail 17 3 0 info] else [])
          ++ (if four && !fourOk (stTxr (curLane s l).status) es then [issueFail 17 4 0 info] else [])
    match place ++ (if place.isEmpty then inside else []) ++ splitFail s with
    | f :: fs => raiseIssue i s (f :: fs)
    | [] => loadTable i s tbl four es

/-- MTAB with a preset (R37, R318). -/
def execMtabPreset (tbl four : Bool) (p : Preset) (o : Opnds) (s : State) : Out :=
  let i := Instr.mtabPreset tbl four p o
  match splitFail s with
  | f :: fs => raiseIssue i s (f :: fs)
  | [] => loadTable i s tbl four (presetEntries p (stTxr (curLane s (execHead s)).status))

/-! ## Checks of R329 -/

/-- The issuing slot's format word, where it is set and the context is the issuer's. -/
def issueWord (s : State) : Option (BitVec 9) :=
  let f := fmtOfLane s (curCtx s) (execHead s)
  if f.set then some f.word else none

/-- Items 1 and 2 for C (R329, R331). -/
def cFails (s : State) (ca m n : Nat) : List LaneFail :=
  alignFail (BitVec.ofNat 64 ca) 64
    ++ (match issueWord s with
      | some w => rangeFail (spaceSize s (accSpace (curCtx s))) ca (m * n * accBytes w) 2
      | none => [])

/-- Items 4 and 7 (R329). -/
def lastFails (s : State) : List LaneFail :=
  (if (issueWord s).isNone then [issueFail 22 1] else []) ++ splitFail s

/-- Items 5 and 6 for a table: `four` is the size that the format asks for, `enc` that the table must be encodable. -/
def tableIssue (s : State) (b : Bool) (four : Option Bool) (enc : Bool) : List LaneFail :=
  let l := execHead s
  let f := fmtOfLane s (curCtx s) l
  let t := if b then f.b else f.a
  let info : Word := if b then 1 else 0
  if !t.loaded then [issueFail 17 1 0 info]
  else if enc && !t.encodable then [issueFail 17 2 0 info]
  else if four.any (· != t.four) then [issueFail 17 5 0 info]
  else if t.txr != stTxr (curLane s l).status then [issueFail 18 1 0 info] else []

/-- The tables of the formats of a word (R329). -/
def tableFailsOf (s : State) (w : BitVec 9) : List LaneFail :=
  (if fwA w ≤ 1 then tableIssue s false (some (fwA w == 1)) false else [])
    ++ (if fwB w ≤ 1 then tableIssue s true (some (fwB w == 1)) false else [])

/-- The bytes of A and B with their scales. -/
def aBytes (w : BitVec 9) (m k : Nat) : Nat := tileBytes (fwA w) m k + (if fwScl w then m * k / 32 else 0)
def bBytes (w : BitVec 9) (n k : Nat) : Nat := tileBytes (fwB w) k n + (if fwScl w then n * k / 32 else 0)

/-- `loc` and its size for the issuing lane. -/
def issueLimit (s : State) : Nat := locLimit s (curCtx s) (execHead s)

/-- MMA and MMAG (R329, R330): `gath` gives the A base and the index vector. -/
def runMma (i : Instr) (sh : Shape) (s : State) (gath : Bool) : Out :=
  let o := i.opnds
  match queueGate o s with
  | .wait => retry s
  | .fail fs => raiseFails i s fs
  | .go =>
    let l := execHead s
    let e := entryOf i s l
    let glob := o.imm.getLsbD 7
    let m := shapeM sh
    let n := shapeN sh
    let k := shapeK sh
    let a := e.s1.toNat % 2 ^ 32
    let idx := e.s1.toNat / 2 ^ 32
    let lim := issueLimit s
    let pages := match issueWord s with
      | some w => if glob then checkPages s l e.s2.toNat (bBytes w n k) .read else []
      | none => []
    let fails := alignFail (BitVec.ofNat 64 a) 64 ++ alignFail e.s2 64 ++ cFails s (e.x.toNat % 2 ^ 32) m n
      ++ (if gath then alignFail (BitVec.ofNat 64 idx) 2 else [])
      ++ (match issueWord s with
        | some w => rangeFail lim a (aBytes w m k) 1 ++ (if gath then rangeFail lim idx (2 * m) 1 else [])
            ++ (if glob then [] else rangeFail lim e.s2.toNat (bBytes w n k) 1) ++ tableFailsOf s w
        | none => [])
      ++ failsOf pages ++ lastFails s
    match fails with
    | f :: fs => raiseIssue i (keepAll s pages) (f :: fs)
    | [] => enqueue i (keepAll s pages) (matrixQueue (curCtx s)) { e with pages := pagesOf (passesOf pages) }

/-- MMA (R329). -/
def execMma (sh : Shape) (o : Opnds) (s : State) : Out := runMma (.mma sh o) sh s false

/-- MMAG (R330). -/
def execMmag (sh : Shape) (o : Opnds) (s : State) : Out := runMma (.mmag sh o) sh s true

/-- MZRO (R331). -/
def execMzro (sh : Shape) (o : Opnds) (s : State) : Out :=
  let i := Instr.mzro sh o
  let e := entryOf i s (execHead s)
  match cFails s (e.x.toNat % 2 ^ 32) (shapeM sh) (shapeN sh) ++ lastFails s with
  | f :: fs => raiseIssue i s (f :: fs)
  | [] => enqueue i s (matrixQueue (curCtx s)) e

/-- The type code of MLDC and MSTC. -/
def memType (o : Opnds) : Nat := (o.imm.extractLsb' 7 3).toNat
/-- The bytes of an element in memory (R332, R333). -/
def memSize (t : Nat) : Nat := getAt 4 [4, 8, 2, 2, 1, 1, 4, 4] t
/-- The format of codes 0 to 3; home targets are FP32. -/
def memFmt (t : Nat) : Fmt := getAt fp32 [fp32, fp64, bf16, fp16] t

/-- The rows of MLDC and MSTC in `loc`: alignment of the start and of the stride, and the range (R332, R333). -/
def rowFails (s : State) (a st m n size : Nat) : List LaneFail :=
  let start := alignFail (BitVec.ofNat 64 a) size
  let step := if st % size = 0 then [] else [issueFail 8 0 (BitVec.ofNat 64 a)]
  start ++ step
    ++ (if (issueWord s).isSome then rangeFail (issueLimit s) a ((m - 1) * st + n * size) 1 else [])

/-- MLDC (R332). -/
def execMldc (sh : Shape) (o : Opnds) (s : State) : Out :=
  let i := Instr.mldc sh o
  match queueGate o s with
  | .wait => retry s
  | .fail fs => raiseFails i s fs
  | .go =>
    let e := entryOf i s (execHead s)
    let m := shapeM sh
    let n := shapeN sh
    match cFails s (e.x.toNat % 2 ^ 32) m n ++ rowFails s e.s1.toNat e.s2.toNat m n (memSize (memType o)) ++ lastFails s with
    | f :: fs => raiseIssue i s (f :: fs)
    | [] => enqueue i s (matrixQueue (curCtx s)) e

/-- The table checks of MSTC with target .ta or .tb (R333). -/
def mstcTable (s : State) (t : Nat) : List LaneFail :=
  match issueWord s with
  | none => []
  | some w =>
    if t = 4 ∨ t = 5 then
      let f := if t = 4 then fwA w else fwB w
      tableIssue s (t == 5) (if f ≤ 1 then some (f == 1) else none) true
    else []

/-- MSTC (R333): home targets translate every destination row at issue. -/
def execMstc (sh : Shape) (o : Opnds) (s : State) : Out :=
  let i := Instr.mstc sh o
  match queueGate o s with
  | .wait => retry s
  | .fail fs => raiseFails i s fs
  | .go =>
    let l := execHead s
    let e := entryOf i s l
    let m := shapeM sh
    let n := shapeN sh
    let t := memType o
    let st := e.s2.toNat % 2 ^ 32
    let pages := if 6 ≤ t ∧ (issueWord s).isSome = true then
        (List.range m).flatMap fun r => checkPages s l ((e.s1.toNat + r * st) % 2 ^ 64) (4 * n) .write
      else []
    let dst := if 6 ≤ t then alignFail e.s1 4 ++ (if st % 4 = 0 then [] else [issueFail 8 0 e.s1])
      else rowFails s e.s1.toNat st m n (memSize t)
    match cFails s (e.x.toNat % 2 ^ 32) m n ++ dst ++ failsOf pages ++ mstcTable s t ++ lastFails s with
    | f :: fs => raiseIssue i (keepAll s pages) (f :: fs)
    | [] => enqueue i (keepAll s pages) (matrixQueue (curCtx s)) { e with pages := pagesOf (passesOf pages) }

/-- The number of elements of GATH. -/
def gathCount (o : Opnds) : Nat := (o.imm.extractLsb' 8 10).toNat + 1

/-- GATH (R335). -/
def execGath (lg : BitVec 3) (i32 : Bool) (o : Opnds) (s : State) : Out :=
  let i := Instr.gath lg i32 o
  match queueGate o s with
  | .wait => retry s
  | .fail fs => raiseFails i s fs
  | .go =>
    let e := entryOf i s (execHead s)
    let size := 2 ^ lg.toNat
    let iw := if i32 then 4 else 2
    let n := gathCount o
    let lim := issueLimit s
    let d := e.x.toNat % 2 ^ 32
    match alignFail (BitVec.ofNat 64 d) size ++ alignFail e.s1 size ++ alignFail e.s2 iw ++ rangeFail lim d (n * size) 1
        ++ rangeFail lim e.s2.toNat (n * iw) 1 ++ splitFail s with
    | f :: fs => raiseIssue i s (f :: fs)
    | [] => enqueue i s (.gather (trussOf (curCtx s).core)) e

/-- MQF (R328). -/
def execMqf (mask : BitVec 3) (o : Opnds) (s : State) : Out :=
  let i := Instr.mqf mask o
  match splitFail s with
  | f :: fs => raiseIssue i s (f :: fs)
  | [] => enqueueJoin i s (maskQueues s mask.toNat)

/-! ## Accumulation (R321, R322) -/

/-- A value times 2^k. -/
def scaleVal (k : Int) : FVal → FVal
  | .fin n m e => .fin n m (if m = 0 then 0 else e + k)
  | v => v

/-- The exponents of the leading bits of the finite values that are not zero. -/
def leads (l : List FVal) : List Int :=
  l.filterMap fun v => match v with
    | .fin _ m e => if m = 0 then none else some (e + m.log2)
    | _ => none

/-- The largest of a list, at least a first one. -/
def maxInt (a : Int) (l : List Int) : Int := l.foldl (fun x y => if x < y then y else x) a

/-- A finite value in units of 2^q, truncated toward zero, and whether it changed. -/
def truncUnits (q : Int) : FVal → Int × Bool
  | .fin n m e =>
    let k : Nat := if q ≤ e then m * 2 ^ (e - q).toNat else m / 2 ^ (q - e).toNat
    (if n then -(k : Int) else k, decide (e < q) && m % 2 ^ (q - e).toNat != 0)
  | _ => (0, false)

/-- `acc_round` of v units of 2^q, with terms cut off below when `cut` (R321, log 23). -/
def accRound (f : Fmt) (sat : Bool) (v q : Int) (cut : Bool) : Rounded :=
  if v = 0 then { bits := 0, flags := { nx := cut } }
  else roundFin f { mode := .rne } (decide (v < 0)) v.natAbs q cut sat

/-- The exact sum of finite terms that are not all zero, cut at W bits below the largest (R321). -/
def accSum (f : Fmt) (w : Nat) (sat : Bool) (ts : List FVal) : Rounded :=
  match leads ts with
  | [] => { bits := 0 }
  | a :: l =>
    let q := maxInt a l - w
    let us := ts.map (truncUnits q)
    accRound f sat (us.foldl (fun x u => x + u.1) 0) q (us.any (·.2))

/-- One group of R321: c with 32 products and their scale 2^sig; none for a scale that is NaN. -/
def accGroup (f : Fmt) (w : Nat) (sat : Bool) (sig : Option Int) (c : FVal) (ps : List (FVal × FVal)) : Rounded :=
  match sig with
  | none => { bits := fNaN f }
  | some k =>
    if isNan c || ps.any fun p => isNan p.1 || isNan p.2 then { bits := fNaN f }
    else
      let prods := ps.map fun p => prodVal p.1 p.2
      let ts := c :: (prods.filterMap id).map (scaleVal k)
      let up := ts.contains (.inf false)
      let dn := ts.contains (.inf true)
      if prods.any (·.isNone) || (up && dn) then fInvalid f
      else if up then { bits := fInf f false }
      else if dn then { bits := fInf f true }
      else if ts.all isZero then { bits := fZero f (ts.all signOf) }
      else accSum f w sat ts

/-- The groups of one element of C, one after another. -/
def accGroups (f : Fmt) (w : Nat) (sat : Bool) (c : Nat) (gs : List (Option Int × List (FVal × FVal))) : Rounded :=
  gs.foldl (fun r g =>
    let n := accGroup f w sat g.1 (fDecode f r.bits) g.2
    { bits := n.bits, flags := orFlags r.flags n.flags }) { bits := c }

/-- R322: fused multiply-adds in binary64, which saturate with SAT = 1 (R315). -/
def accChain (sat : Bool) (c : Nat) (ps : List (FVal × FVal)) : Rounded :=
  ps.foldl (fun r p =>
    let n := fMulAdd fp64 { mode := .rne } p.1 p.2 (fDecode fp64 r.bits) sat
    { bits := n.bits, flags := orFlags r.flags n.flags }) { bits := c }

/-! ## Running an entry of the matrix queue -/

/-- The format context that an entry reads (R316). -/
def entryFmt (s : State) (e : QEnt) : FmtCtx := tget {} (getCore s e.core).fmts e.slot

/-- The value of an element code of a format: poison reads as a NaN (R329). -/
def elemVal (f : Nat) (t : FmtTable) (v : Nat × Bool) : FVal :=
  if v.2 then .nan false
  else match f with
    | 0 | 1 => dec8Val t v.1
    | 2 => fDecode bf16 v.1
    | 3 => fDecode fp16 v.1
    | 4 => fDecode fp32 v.1
    | _ => fDecode fp64 v.1

/-- Element n of a tile at a base (R319). -/
def elemAt (rd : Nat → Nat → Nat × Bool) (base f n : Nat) : Nat × Bool :=
  match f with
  | 1 => let v := rd (base + n / 2) 1; (v.1 / 16 ^ (n % 2) % 16, v.2)
  | _ => rd (base + n * (elemWidth f / 8)) (elemWidth f / 8)

/-- The operands of an MMA or MMAG entry: elements, scales, and whether a row of A was absent. -/
structure MmaIn where
  a   : Nat → Nat → Nat × Bool
  b   : Nat → Nat → Nat × Bool
  sa  : Nat → Nat → Nat × Bool
  sb  : Nat → Nat → Nat × Bool
  bad : Bool

/-- The operands as an entry reads them when it runs. -/
def mmaIn (s : State) (e : QEnt) (w : BitVec 9) (sh : Shape) (gath glob : Bool) : MmaIn :=
  let m := shapeM sh
  let n := shapeN sh
  let k := shapeK sh
  let loc := locRead s e
  let a0 := e.s1.toNat % 2 ^ 32
  let row (i : Nat) : Nat × Bool := if gath then loc (e.s1.toNat / 2 ^ 32 + 2 * i) 2 else (i, false)
  let start (i : Nat) : Nat := a0 + (row i).1 * tileBytes (fwA w) 1 k
  let past (i : Nat) : Bool := gath && decide (entLimit s e < start i + tileBytes (fwA w) 1 k)
  let brd := if glob then globRead s e else loc
  let b0 := e.s2.toNat
  { a := fun i j => if (row i).2 then (0, true) else if past i then (0, false) else elemAt loc (start i) (fwA w) j,
    b := fun i j => elemAt brd b0 (fwB w) (i * n + j),
    sa := fun i g => loc (a0 + tileBytes (fwA w) m k + i * (k / 32) + g) 1,
    sb := fun j g => brd (b0 + tileBytes (fwB w) k n + j * (k / 32) + g) 1,
    bad := (List.range m).any past }

/-- The exponent that the scales of a group give; none where one is NaN or poisoned (R46, R321). -/
def scaleOf (a b : Nat × Bool) : Option Int :=
  if a.2 || b.2 || a.1 == 255 || b.1 == 255 then none else some ((a.1 : Int) + b.1 - 254)

/-- The groups of 32 products of an MMA entry. -/
def mmaGroups (sh : Shape) : Nat := (shapeK sh + 31) / 32

/-- The numbers from g0 up to g1 of a count. -/
def spanOf (n g0 g1 : Nat) : List Nat := ((List.range n).take g1).drop g0

/-- One element of C after the groups g0 up to g1 of an MMA entry, from its value before them. -/
def mmaCell (f : FmtCtx) (sh : Shape) (v : MmaIn) (g0 g1 c i j : Nat) : Rounded :=
  let w := f.word
  let pair (k : Nat) : FVal × FVal := (elemVal (fwA w) f.a (v.a i k), elemVal (fwB w) f.b (v.b k j))
  if fwA w = 5 then accChain (fwSat w) c ((spanOf (shapeK sh) (32 * g0) (32 * g1)).map pair)
  else
    accGroups (accFmt w) (if fwA w = 4 then 64 else 48) (fwSat w) c ((spanOf (shapeK sh / 32) g0 g1).map fun g =>
      (if fwScl w then scaleOf (v.sa i g) (v.sb j g) else some 0, (List.range 32).map fun k => pair (32 * g + k)))

/-- Some byte that the groups g0 up to g1 of an MMA entry read is poisoned. -/
def mmaPoison (w : BitVec 9) (sh : Shape) (v : MmaIn) (g0 g1 : Nat) : Bool :=
  (spanOf (shapeK sh) (32 * g0) (32 * g1)).any (fun k =>
    (List.range (shapeM sh)).any (fun i => (v.a i k).2) || (List.range (shapeN sh)).any fun j => (v.b k j).2)
  || (fwScl w && (spanOf (shapeK sh / 32) g0 g1).any fun g =>
    (List.range (shapeM sh)).any (fun i => (v.sa i g).2) || (List.range (shapeN sh)).any fun j => (v.sb j g).2)

/-- The results of the elements of a tile, with the flags of all. -/
def tileOf (m n : Nat) (f : Nat → Nat → Rounded) : List Nat × FFlags :=
  let rs := (List.range m).flatMap fun i => (List.range n).map fun j => f i j
  (rs.map (·.bits), rs.foldl (fun x r => orFlags x r.flags) {})

/-- Element n of C, as bits. -/
def cBits (s : State) (e : QEnt) (w : BitVec 9) (n : Nat) : Nat :=
  spaceNat s (entAcc e) (e.x.toNat % 2 ^ 32 + n * accBytes w) (accBytes w)

/-- Element n of C is poisoned. -/
def cBad (s : State) (e : QEnt) (w : BitVec 9) (n : Nat) : Bool :=
  spaceBad s (entAcc e) (e.x.toNat % 2 ^ 32 + n * accBytes w) (accBytes w)

/-- Element n of the incoming C of an MMA entry: a poisoned one is a NaN (R329). -/
def cIn (s : State) (e : QEnt) (w : BitVec 9) (n : Nat) : Nat :=
  if cBad s e w n then fNaN (accFmt w) else cBits s e w n

/-- Some element of a tile of C is poisoned. -/
def cPoison (s : State) (e : QEnt) (sh : Shape) : Bool :=
  (List.range (shapeM sh * shapeN sh)).any (cBad s e (entryFmt s e).word)

/-- C written whole. -/
def writeC (s : State) (e : QEnt) (w : BitVec 9) (l : List Nat) : State :=
  spaceStore s (entAcc e) (e.x.toNat % 2 ^ 32) (l.flatMap (leBytes (accBytes w)))

/-- An MMA or MMAG entry runs from its next group up to group g1, with its flags so far: C holds the partial results (R321,
R336). -/
def mmaRun (s : State) (e : QEnt) (sh : Shape) (gath glob : Bool) (g1 : Nat) : State × Nat :=
  let f := entryFmt s e
  let v := mmaIn s e f.word sh gath glob
  let r := tileOf (shapeM sh) (shapeN sh) fun i j => mmaCell f sh v e.group g1 (cIn s e f.word (i * shapeN sh + j)) i j
  let flags := orCc (orCc e.flags (ccFlags r.2))
    (orCc (if mmaPoison f.word sh v e.group g1 || cPoison s e sh then ccPoison else 0) (if v.bad then ccFault else 0))
  let s1 := if glob then touchLines s e e.s2.toNat (bBytes f.word (shapeN sh) (shapeK sh)) else s
  (writeC s1 e f.word r.1, flags)

/-- An MLDC entry runs: a poisoned element becomes the canonical NaN (R332). -/
def mldcRun (s : State) (e : QEnt) (sh : Shape) : State × Nat :=
  let f := entryFmt s e
  let t := memType e.instr.opnds
  let src (i j : Nat) := locRead s e (e.s1.toNat + i * e.s2.toNat + j * memSize t) (memSize t)
  let r := tileOf (shapeM sh) (shapeN sh) fun i j =>
    let v := src i j
    roundVal (accFmt f.word) (rmOf e.rm) (if v.2 then .nan false else fDecode (memFmt t) v.1)
  let bad := (List.range (shapeM sh)).any fun i => (List.range (shapeN sh)).any fun j => (src i j).2
  (writeC s e f.word r.1, orCc (ccFlags r.2) (if bad then ccPoison else 0))

/-- An element of C as MSTC converts it (R333). -/
def mstcElem (f : FmtCtx) (t : Nat) (rm : BitVec 2) (sat : Bool) (c : Nat) : Rounded :=
  let fa := accFmt f.word
  let v := fDecode fa c
  if t = 4 ∨ t = 5 then
    let r := enc8 (c / 2 ^ (fa.p - 1 + fa.eb) % 2 == 1) v (if t = 4 then f.a else f.b) (rmOf rm) sat
    { bits := r.1, flags := r.2 }
  else roundVal (memFmt t) (rmOf rm) v sat

/-- The elements of C that MSTC stores, in row order; the value of a poisoned one is not stated (log 65). -/
def mstcTile (s : State) (e : QEnt) (sh : Shape) : List Nat × FFlags :=
  let f := entryFmt s e
  tileOf (shapeM sh) (shapeN sh) fun i j =>
    let n := i * shapeN sh + j
    if cBad s e f.word n then { bits := (Config.freeValue s.free (1000 + n)).toNat % 2 ^ (8 * memSize (memType e.instr.opnds)) }
    else mstcElem f (memType e.instr.opnds) e.rm e.instr.opnds.g.sat (cBits s e f.word n)

/-- The flags that an MSTC entry sets at its completion. -/
def mstcFlags (s : State) (e : QEnt) (sh : Shape) : Nat :=
  orCc (ccFlags (mstcTile s e sh).2) (if cPoison s e sh then ccPoison else 0)

/-- The place of element k of an MSTC entry (R333). -/
def mstcAddr (e : QEnt) (sh : Shape) (k : Nat) : Nat :=
  e.s1.toNat + k / shapeN sh * (e.s2.toNat % 2 ^ 32) + k % shapeN sh * memSize (memType e.instr.opnds)

/-- An MSTC entry with a `loc` target runs: a later element wins. -/
def mstcRun (s : State) (e : QEnt) (sh : Shape) : State × Nat :=
  let r := mstcTile s e sh
  let n := memSize (memType e.instr.opnds)
  ((r.1.mapIdx fun k v => (k, v)).foldl (fun z v => spaceStore z (entLoc e) (mstcAddr e sh v.1) (leBytes n v.2)) s, mstcFlags s e sh)

/-! ## GATH (R335) -/

/-- The page of a global source element as a relaxed load of an entry finds it. -/
def entryPa (s : State) (e : QEnt) (va : Nat) : Option Nat :=
  match translate s e.core e.ttb (BitVec.ofNat 64 va) .read e.priv with
  | .error _ => none
  | .ok (p, _, pa) => if (attrFail (pkgOf e.core) p pa false false).isSome then none else some pa

/-- Element k of a GATH entry: its bytes as a number, and the flags it sets. -/
def gathElem (s : State) (e : QEnt) (size iw k : Nat) (glob : Bool) : Nat × Nat :=
  let idx := locRead s e (e.s2.toNat + k * iw) iw
  if idx.2 then (0, ccPoison)
  else
    let a := e.s1.toNat + idx.1 * size
    let r : Option (Nat × Bool) :=
      if glob then (entryPa s e (a % 2 ^ 64)).bind fun pa => physRead s e pa size
      else if entLimit s e < a + size then none else some (locRead s e a size)
    match r with
    | none => (0, ccFault)
    | some (v, bad) => if bad then (0, ccPoison) else (v, 0)

/-- A GATH entry runs. -/
def gathRun (s : State) (e : QEnt) (size iw : Nat) : State × Nat :=
  let o := e.instr.opnds
  let glob := o.imm.getLsbD 7
  let rs := (List.range (gathCount o)).map fun k => gathElem s e size iw k glob
  let seen (z : State) (k : Nat) : State :=
    let idx := locRead s e (e.s2.toNat + k * iw) iw
    let va := (e.s1.toNat + idx.1 * size) % 2 ^ 64
    let z := if idx.2 then z else keepWalk z s e.core e.ttb (BitVec.ofNat 64 va)
    match idx.2, entryPa s e va with
    | false, some pa => touch z e.ctx e.core (BitVec.ofNat 64 va) pa
    | _, _ => z
  let s1 := if glob then (List.range (gathCount o)).foldl seen s else s
  (spaceStore s1 (entLoc e) (e.x.toNat % 2 ^ 32) (rs.flatMap fun r => leBytes size r.1), rs.foldl (fun x r => orCc x r.2) 0)

/-! ## Home merges (R334) -/

/-- The partials that an MSTC entry with a home target sends. -/
def partialsOf (s : State) (q : QueueId) (e : QEnt) (sh : Shape) : List Partial :=
  let o := e.instr.opnds
  let seq := if memType o = 7 then some ((o.imm.extractLsb' 10 6).toNat, (o.imm.extractLsb' 16 6).toNat + 1) else none
  (mstcTile s e sh).1.mapIdx fun k v =>
    let va := mstcAddr e sh k % 2 ^ 64
    let pa := match e.pages.find? fun p => p.1 == va / 4096 with
      | some p => p.2 * 4096 + va % 4096
      | none => 0
    { pa, val := BitVec.ofNat 32 v, seq, queue := q, entry := e.id }

/-- A partial has been added or discarded, with the flags it sets. -/
def partialDone (s : State) (p : Partial) (flags : Nat) : State :=
  modEntry s p.queue p.entry fun e => { e with out := e.out - 1, flags := orCc e.flags flags }

/-- The home adds a partial (R334). -/
def addPartial (s : State) (p : Partial) : State :=
  if targetOf p.pa = .window then partialDone (countDrop s (windowEngine p.pa)) p 0
  else
    let r := fAdd fp32 { mode := .rne } (fDecode fp32 (memNat s p.pa 4)) (fDecode fp32 p.val.toNat)
    partialDone (storeHome s p.pa (leBytes 4 r.bits)) p (if r.flags.nx then 1 else 0)

/-- The merge sequence of a word on its home's die. -/
def mergeOf (s : State) (pa : Nat) : MergeSeq :=
  (((getDie s (homeDie s pa)).merges.find? fun m => m.pa == pa)).getD { pa, next := 0, count := 0, held := [] }
def setMerge (s : State) (m : MergeSeq) : State :=
  modDie s (homeDie s m.pa) fun d =>
    let rest := d.merges.filter fun k => k.pa != m.pa
    { d with merges := if m.next = 0 ∧ m.held = [] then rest else rest ++ [m] }

/-- The index and count of a .hmo partial. -/
def partIdx (p : Partial) : Nat := (p.seq.getD (0, 0)).1
def partCount (p : Partial) : Nat := (p.seq.getD (0, 0)).2

/-- Held partials whose turn has come are added, and those that no longer fit are discarded, `fuel` at most. -/
def releaseHeld (pa : Nat) : Nat → State → State
  | 0, s => s
  | fuel + 1, s =>
    let m := mergeOf s pa
    let odd (p : Partial) : Bool := m.next != 0 && (decide (partIdx p < m.next) || partCount p != m.count)
    match m.held.find? odd with
    | some p => releaseHeld pa fuel (partialDone (setMerge s { m with held := m.held.erase p }) p ccFault)
    | none =>
      match m.held.find? fun p => partIdx p == m.next with
      | none => s
      | some p =>
        let next := if m.next + 1 = partCount p then 0 else m.next + 1
        releaseHeld pa fuel (addPartial (setMerge s { m with held := m.held.erase p, next, count := partCount p }) p)

/-- A partial reaches its home (R165, R334): a poisoned sector discards it, with those held for the word. -/
def homePartial (s : State) (src : Nat) (task : BitVec 24) (p : Partial) : State :=
  if !accPasses s src task p.pa 4 .write then partialDone s p ccFault
  else if memBad s p.pa 4 then
    let m := mergeOf s p.pa
    let s1 := setMerge s { m with next := 0, held := [] }
    (p :: m.held).foldl (fun z k => partialDone z k ccPoison) s1
  else
    match p.seq with
    | none => addPartial s p
    | some _ =>
      let m := mergeOf s p.pa
      releaseHeld p.pa (m.held.length + 2) (setMerge s { m with held := m.held ++ [p] })

/-- HOME_PARTIAL_ADD (R334). -/
def execHomePartialAdd (s : State) : Out :=
  match s.ev with
  | some (.homePartialAdd p) =>
    match (queueOf s p.queue).find? fun e => e.id == p.entry with
    | some e => .next (homePartial s (pkgOf e.core) e.task p)
    | none => .next s
  | _ => .fault .noEvent

/-! ## Entries start and complete -/

/-- An entry has sent all its partials and waits for them. -/
def partialsOut (e : QEnt) : Bool := e.sent && e.out != 0

/-- What an entry of the matrix, gather or slice queue does at its completion; none where it only sends its partials. -/
def runEntry (s : State) (q : QueueId) (e : QEnt) : State :=
  match e.instr with
  | .mma sh o => let r := mmaRun s e sh false (o.imm.getLsbD 7) (mmaGroups sh); finishEntry r.1 q e r.2
  | .mmag sh o => let r := mmaRun s e sh true (o.imm.getLsbD 7) (mmaGroups sh); finishEntry r.1 q e r.2
  | .mzro sh _ => finishEntry (writeC s e (entryFmt s e).word (List.replicate (shapeM sh * shapeN sh) 0)) q e 0
  | .mldc sh _ => let r := mldcRun s e sh; finishEntry r.1 q e r.2
  | .mstc sh o =>
    if memType o < 6 then let r := mstcRun s e sh; finishEntry r.1 q e r.2
    else if e.sent then finishEntry s q e e.flags
    else
      let ps := partialsOf s q e sh
      pushFlight (modEntry s q e.id fun k =>
        { k with sent := true, out := ps.length, flags := mstcFlags s e sh }) (ps.map .homePartialAdd)
  | .gath lg i32 _ => let r := gathRun s e (2 ^ lg.toNat) (if i32 then 4 else 2); finishEntry r.1 q e r.2
  | _ => s

/-- ENGINE_ENTRY_COMPLETE (R326, R327, log 40): an entry reads and writes in one step. -/
def execEngineEntryComplete (s : State) : Out :=
  match s.ev with
  | some (.engineEntryComplete q) =>
    match runningEntry s q with
    | some e => .next (if partialsOut e then s else runEntry s q e)
    | none => .next s
  | _ => .fault .noEvent

end Sys2Proof.Machine
end

