-- ==== Sys2Proof/Machine/Collect.lean ====
section
/-! DEFINITION. MCAST and RRED, the deliveries and the reductions of the die mesh, and the work lists with the Spar (R351 to
R360). -/

namespace Sys2Proof.Machine

open Sys2Proof

/-! ## Spans (R351) -/

def spanBay0 (d : DWord) : Nat := fld d 0 4
def spanBay1 (d : DWord) : Nat := fld d 4 4
def spanRow0 (d : DWord) : Nat := fld d 8 3
def spanRow1 (d : DWord) : Nat := fld d 11 3
def spanSlot (d : DWord) : Nat := fld d 16 4
def spanMask (d : DWord) : Nat := fld d 32 32

/-- A span descriptor is valid. -/
def spanOk (d : DWord) : Bool :=
  spanBay0 d ≤ spanBay1 d && spanBay1 d ≤ 9 && spanRow0 d ≤ spanRow1 d && spanMask d != 0 && spanSlot d != 0
    && fld d 14 2 == 0 && fld d 20 12 == 0

/-- The numbers from a to b. -/
def upTo (a b : Nat) : List Nat := numsFrom a (b + 1 - a)

/-- The participants of a span on a die, in the order of their numbers j. -/
def participants (die : Nat) (d : DWord) : List Nat :=
  (upTo (spanBay0 d) (spanBay1 d)).flatMap fun b =>
    (upTo (spanRow0 d) (spanRow1 d)).flatMap fun r =>
      ((List.range 32).filter fun c => (spanMask d).testBit c).map fun c => ((die * 16 + b) * 16 + r) * 64 + c

/-! ## Checks at issue (R352) -/

/-- The bytes of MCAST and RRED, their counter, and the tag. -/
def spanBytes (o : Opnds) : Nat := ((o.imm.extractLsb' 7 10).toNat + 1) * 16
def spanTag (o : Opnds) : Nat := (o.imm.extractLsb' 17 4).toNat

/-- The issuer's number in a span: none where it is no participant. A keeper takes part for its core, whatever SLOT the
span addresses (R352, log 66). -/
def spanIndex (s : State) (d : DWord) : Option Nat :=
  let x := curCtx s
  if isKeeper x || x.slot == some (spanSlot d) then (participants (dieOf x.core) d).idxOf? x.core else none

/-- The checks of MCAST and RRED. -/
def spanFails (i : Instr) (s : State) (member : Bool) : List LaneFail :=
  let x := curCtx s
  let v := valsOf i (curLane s (execHead s))
  (if isStrand x then [] else [issueFail 21 10]) ++ alignFail v.s1 16 ++ alignFail v.s2 16
    ++ rangeFail (issueLimit s) v.s1.toNat (spanBytes i.opnds) 1
    ++ (if spanOk v.x then (if member && (spanIndex s v.x).isNone then [issueFail 19 8] else []) else [issueFail 19 7])

/-- MCAST and RRED wait for their queue operands and their checks. -/
def runSpan (i : Instr) (s : State) (member : Bool) (go : State → Out) : Out :=
  match queueGate i.opnds s with
  | .wait => retry s
  | .fail fs => raiseFails i s fs
  | .go =>
    match spanFails i s member with
    | f :: fs => raiseIssue i s (f :: fs)
    | [] => go s

/-- The bytes that the issuer reads from its scratch. -/
def spanRead (i : Instr) (s : State) : List Byte :=
  spaceBytes s (.scratch (curCtx s).core) (valsOf i (curLane s (execHead s))).s1.toNat (spanBytes i.opnds)

/-! ## MCAST (R353) -/

/-- The deliveries of bytes to cores. -/
def deliveriesTo (d : Delivery) (cores : List Nat) : List Ev := cores.map fun k => .routerDelivery { d with core := k }

/-- MCAST (R353): one delivery to every participant. -/
def execMcast (o : Opnds) (s : State) : Out :=
  let i := Instr.mcast o
  runSpan i s false fun s =>
    let x := curCtx s
    let v := valsOf i (curLane s (execHead s))
    let d : Delivery := { core := 0, slot := spanSlot v.x, off := v.s2.toNat, bytes := spanRead i s, task := x.task,
                          cc := (ccOf i), src := x.core, id := s.free, flags := 0 }
    .next (pushFlight (complete i (modExec s fun _ a => consume o a)) (deliveriesTo d (participants (dieOf x.core) v.x)))

/-! ## Deliveries (R353, R356) -/

/-- The size of a core's scratch for a slot 1-15 (R142, R281). -/
def slotScratch (s : State) (core : Nat) : Nat := scratchSize s core - (if replayOn s core then 16384 else 0)

/-- The context that a pre-emption took from the delivery's slot, while nothing else was bound there. -/
def leftAt (s : State) (core slot : Nat) (task : BitVec 24) : Option Nat :=
  (s.ctxs.find? fun e => e.2.alive && e.2.left == some slot && e.2.task == task && onCore e.2 core
    && !e.2.rebound.contains core).map (·.1)

/-- The bytes of a delivery are written at their place. -/
def writeDelivery (s : State) (d : Delivery) : State := spaceStore s (.scratch d.core) d.off d.bytes

/-- A delivery is written, caught or discarded; whether it is discarded (R353). -/
def landDelivery (s : State) (d : Delivery) : State × Bool :=
  if slotScratch s d.core < d.off + d.bytes.length then (s, true)
  else
    match boundAt s d.core d.slot with
    | some c => if (getCtx s c).task = d.task then (writeDelivery s d, false) else (s, true)
    | none =>
      match leftAt s d.core d.slot d.task with
      | some c => (modCore s d.core fun k => { k with spill := k.spill ++ [.deliver c d] }, false)
      | none => (s, true)

/-- Another delivery of the same MCAST or reduction to the same Truss. -/
def sameGroup (d : Delivery) (e : Ev) : Bool :=
  match e with
  | .routerDelivery k => k.id == d.id && trussOf k.core == trussOf d.core
  | _ => false

/-- The Truss's counter counts once every delivery to its cores has been made; until then the others keep the flags. -/
def countDelivery (s : State) (d : Delivery) (flags : Nat) : State :=
  if s.flight.any (sameGroup d) then
    { s with flight := s.flight.map fun e => match e with
        | .routerDelivery k => if sameGroup d e then .routerDelivery { k with flags := orCc k.flags flags } else e
        | _ => e }
  else ccCount s (trussOf d.core * 64) d.cc flags

/-- ROUTER_DELIVERY (R353, R356): a filter discards a delivery of a dead tag without a count. -/
def execRouterDelivery (s : State) : Out :=
  match s.ev with
  | some (.routerDelivery d) =>
    if tagDead s d.core d.task then .next s
    else
      let r := landDelivery s d
      .next (countDelivery r.1 d (if r.2 then orCc d.flags ccFault else d.flags))
  | _ => .fault .noEvent

/-- A delivery waits for the earlier ones of its sender on its Truss, and for room where it is caught. -/
def deliveryWaits (s : State) (earlier : List Ev) (d : Delivery) : Bool :=
  (earlier.any fun e => match e with
    | .routerDelivery k => k.src == d.src && trussOf k.core == trussOf d.core && k.id != d.id
    | _ => false)
  || ((boundAt s d.core d.slot).isNone && (leftAt s d.core d.slot d.task).isSome && !spillRoom s d.core)

/-! ## RRED (R354, R355) -/

/-- Changes a reduction of a die. -/
def modRed (s : State) (die id : Nat) (f : Reduction → Reduction) : State :=
  modDie s die fun d => { d with reds := d.reds.map fun r => if r.id = id then f r else r }

/-- Contribution j of a reduction has not been consumed. -/
def partHeld (r : Reduction) (p : RedPart) : Bool := r.step ≤ p.j

/-- A reduction holds a buffer at the router of a Truss. -/
def holdsBuffer (die truss : Nat) (r : Reduction) : Bool :=
  let cs := participants die r.desc
  r.parts.any fun p => partHeld r p && trussOf (getAt 0 cs p.j) == truss

/-- The reduction that an RRED joins: the oldest of the same descriptor, tag and TASK that lacks participant j. -/
def redFor (s : State) (die : Nat) (desc : DWord) (tag : Nat) (task : BitVec 24) (j : Nat) : Option Reduction :=
  (getDie s die).reds.find? fun r => r.desc == desc && r.tag == tag && r.task == task && !r.joined.contains j

/-- A router has a buffer for a contribution: one that its reduction holds there already, or one of 8 that is free. -/
def routerRoom (s : State) (die truss : Nat) (r : Option Reduction) : Bool :=
  (match r with | some e => holdsBuffer die truss e | none => false)
    || ((getDie s die).reds.filter (holdsBuffer die truss)).length < 8

/-- A contribution joins its reduction, or starts one. -/
def joinRed (s : State) (die : Nat) (desc : DWord) (tag : Nat) (task : BitVec 24) (p : RedPart) : State :=
  match redFor s die desc tag task p.j with
  | some r => modRed s die r.id fun e => { e with joined := p.j :: e.joined, parts := e.parts ++ [p] }
  | none =>
    modDie s die fun d =>
      { d with reds := d.reds ++ [{ id := d.rseq, desc, tag, task, joined := [p.j], parts := [p] }], rseq := d.rseq + 1 }

/-- RRED in its two forms. -/
def runRred (i : Instr) (s : State) (all : Bool) : Out :=
  runSpan i s true fun s =>
    let x := curCtx s
    let v := valsOf i (curLane s (execHead s))
    let o := i.opnds
    let die := dieOf x.core
    let j := (spanIndex s v.x).getD 0
    if !routerRoom s die (trussOf x.core) (redFor s die v.x (spanTag o) x.task j) then retry s
    else
      let p : RedPart := { j, bytes := spanRead i s, spec := { all, off := v.s2.toNat, cc := ccOf i, src := x.core } }
      .next (joinRed (complete i (modExec s fun _ a => consume o a)) die v.x (spanTag o) x.task p)

/-- RRED.last (R352, R354). -/
def execRredLast (o : Opnds) (s : State) : Out := runRred (.rredLast o) s false

/-- RRED.all (R352, R354). -/
def execRredAll (o : Opnds) (s : State) : Out := runRred (.rredAll o) s true

/-- Contribution j that the routers hold. -/
def partOf (r : Reduction) (j : Nat) : Option RedPart := r.parts.find? fun p => p.j == j

/-- The number of contributions that a step needs: the first two together, then one. -/
def redReady (die : Nat) (r : Reduction) : Bool :=
  let p := (participants die r.desc).length
  if p ≤ 1 then (partOf r 0).isSome
  else if r.step = 0 then (partOf r 0).isSome && (partOf r 1).isSome
  else (partOf r r.step).isSome

/-- Element by element sums of two contributions, with the flags of the additions (R354). -/
def addParts : Nat → List Byte → List Byte → List Byte × FFlags
  | 0, _, _ => ([], {})
  | n + 1, a, b =>
    let v := fAdd fp32 { mode := .rne } (fDecode fp32 (leNat (a.take 4))) (fDecode fp32 (leNat (b.take 4)))
    let t := addParts n (a.drop 4) (b.drop 4)
    (leBytes 4 v.bits ++ t.1, orFlags v.flags t.2)

/-- A contribution differs from that of participant 0 in FN, bytes, s2 or counter. -/
def differs (h : RedSpec) (n : Nat) (p : RedPart) : Bool :=
  p.spec.all != h.all || p.spec.off != h.off || p.spec.cc != h.cc || p.bytes.length != n

/-- Contribution j is taken into the sum. -/
def takePart (h : RedSpec) (r : Reduction) (p : RedPart) : Reduction :=
  if r.bad || differs h r.acc.length p then { r with bad := true, step := p.j + 1 }
  else
    let v := addParts (r.acc.length / 4) r.acc p.bytes
    { r with acc := v.1, flags := orCc r.flags (ccFlags v.2), step := p.j + 1 }

/-- One step of a reduction whose contributions stand ready. -/
def stepRed (r : Reduction) : Reduction :=
  match r.head with
  | some h =>
    match partOf r r.step with
    | some p => takePart h r p
    | none => r
  | none =>
    match partOf r 0 with
    | none => r
    | some p0 =>
      let r1 := { r with head := some p0.spec, acc := p0.bytes, step := 1 }
      match partOf r 1 with
      | some p1 => takePart p0.spec r1 p1
      | none => r1

/-- A result of canonical NaNs. -/
def nanBytes (n : Nat) : List Byte := (List.range (n / 4)).flatMap fun _ => leBytes 4 (fNaN fp32)

/-- A reduction delivers its result (R354, R355). -/
def deliverRed (s : State) (die : Nat) (r : Reduction) : State :=
  let cs := participants die r.desc
  let s1 := modDie s die fun d => { d with reds := d.reds.filter fun e => e.id != r.id }
  match r.head with
  | none => s1
  | some h =>
    let d : Delivery :=
      { core := 0, slot := spanSlot r.desc, off := h.off, bytes := if r.bad then nanBytes r.acc.length else r.acc,
        task := r.task, cc := h.cc, src := h.src, id := s.free, flags := if r.bad then orCc r.flags ccFault else r.flags }
    pushFlight s1 (deliveriesTo d (if h.all then cs else cs.drop (cs.length - 1)))

/-- REDUCTION_STEP (R354). -/
def execReductionStep (s : State) : Out :=
  match s.ev with
  | some (.reductionStep die id) =>
    match (getDie s die).reds.find? fun r => r.id == id && redReady die r with
    | none => .next s
    | some r =>
      let r1 := stepRed r
      if (participants die r.desc).length ≤ r1.step then .next (deliverRed s die r1)
      else .next (modRed s die id fun _ => r1)
  | _ => .fault .noEvent

/-! ## Work lists (R357, R358) -/

def wlCtl (s : State) (core : Nat) : DWord := coreReg s core 0x1A0
def wlHeadOf (s : State) (core : Nat) : Nat := wlHead (coreReg s core 0x1A1)
def wlCountOf (s : State) (core : Nat) : Nat := wlCount (coreReg s core 0x1A1)
def wlSize (s : State) (core : Nat) : Nat := 2 ^ wlLog (wlCtl s core)
def setWl (s : State) (core head count : Nat) : State :=
  setCoreReg s core 0x1A1 (BitVec.ofNat 64 (head % 4096 + count * 65536))

/-- The scratch offset of the entry k places from the head. -/
def wlPlace (s : State) (core k : Nat) : Nat :=
  wlBase (wlCtl s core) * 64 + 8 * ((wlHeadOf s core + k) % wlSize s core)
def wlEntry (s : State) (core k : Nat) : Nat := spaceNat s (.scratch core) (wlPlace s core k) 8

/-- An entry appended at the tail. -/
def wlAppend (s : State) (core v : Nat) : State :=
  let s1 := spaceStore s (.scratch core) (wlPlace s core (wlCountOf s core)) (leBytes 8 v)
  setWl s1 core (wlHeadOf s core) (wlCountOf s core + 1)
/-- An entry taken from the head or the tail. -/
def wlTake (s : State) (core : Nat) (head : Bool) : State × Nat :=
  let n := wlCountOf s core
  if head then (setWl s core ((wlHeadOf s core + 1) % wlSize s core) (n - 1), wlEntry s core 0)
  else (setWl s core (wlHeadOf s core) (n - 1), wlEntry s core (n - 1))

/-! ## The Spar (R359) -/

/-- The neighbours of a core, in their order. -/
def sparNeighbours (core : Nat) : List Nat :=
  let c := core % 64
  let t := core / 64
  let r := t % 16
  [t * 64 + (c + 1) % 32, t * 64 + (c + 31) % 32] ++ (if 0 < r then [core - 64] else [])
    ++ (if r < 7 then [core + 64] else [])

/-- A list takes part. -/
def sparIn (s : State) (core : Nat) : Bool := wlEn (wlCtl s core) && wlBatch (wlCtl s core) != 0
/-- A list lies above its high-water mark, or below its low-water mark. -/
def sparOver (s : State) (core : Nat) : Bool := wlHwm (wlCtl s core) < wlCountOf s core
def sparUnder (s : State) (core : Nat) : Bool := wlCountOf s core < wlLwm (wlCtl s core)

/-- The core with the lowest count; the first on a tie. -/
def fewest (s : State) : List Nat → Option Nat
  | [] => none
  | k :: t => match fewest s t with
    | some j => if wlCountOf s j < wlCountOf s k then some j else some k
    | none => some k
/-- The core with the highest count; the first on a tie. -/
def fullest (s : State) : List Nat → Option Nat
  | [] => none
  | k :: t => match fullest s t with
    | some j => if wlCountOf s k < wlCountOf s j then some j else some k
    | none => some k

/-- The pair that an operation on a list makes: from and to. -/
def sparPair (s : State) (core : Nat) : Option (Nat × Nat) :=
  if !sparIn s core then none
  else
    let ns := (sparNeighbours core).filter (sparIn s)
    let give := if sparOver s core then (fewest s (ns.filter (sparUnder s))).map fun b => (core, b) else none
    match give with
    | some p => some p
    | none => if sparUnder s core then (fullest s (ns.filter (sparOver s))).map fun a => (a, core) else none

/-- Moves n entries from a head to a tail, in head order. -/
def sparMove (a b : Nat) : Nat → State → State
  | 0, s => s
  | n + 1, s => let r := wlTake s a true; sparMove a b n (wlAppend r.1 b r.2)

/-- The moves that follow operations on lists, `fuel` events at most; each move is an operation on both of its lists
(log 41). -/
def sparRun : Nat → List Nat → State → State
  | 0, _, s => s
  | _, [], s => s
  | fuel + 1, k :: t, s =>
    match sparPair s k with
    | none => sparRun fuel t s
    | some (a, b) =>
      let m := Nat.min (wlBatch (wlCtl s a)) (Nat.min (wlCountOf s a - wlLwm (wlCtl s a)) (wlHwm (wlCtl s b) - wlCountOf s b))
      sparRun fuel (t ++ [a, b]) (sparMove a b m s)

/-- No bay has more list events to come than this: each move takes entries from above a high-water mark, and leaves none
above another. -/
def sparBound (s : State) (core : Nat) : Nat :=
  (s.cores.filter fun e => bayOf e.1 == bayOf core).foldl (fun n e => n + 2 * wlCountOf s e.1) 1

/-- An operation has left a list. -/
def sparAfter (s : State) (core : Nat) : State := sparRun (sparBound s core) [core] s

/-- WPUSH (R358). -/
def execWpush (o : Opnds) (s : State) : Out :=
  let i := Instr.wpush o
  let x := curCtx s
  if !isStrand x then trapExec i s 21 10
  else
    let k := x.core
    let v := wlCtl s k
    let e := (valsOf i (curLane s (execHead s))).s2
    let done (z : State) (r : Nat) : Out := .next (complete i (modExec z fun _ a => putX i (BitVec.ofNat 64 r) a))
    if !wlEn v then done s 3
    else if e.extractLsb' 32 32 = 0xFFFFFFFF then done (sparAfter s k) 2
    else if wlCountOf s k = wlSize s k then done (sparAfter s k) 1
    else if accessesOut s s.cur.ctx (execLanes s) .bay then retry s
    else done (sparAfter (wlAppend s k e.toNat) k) 0

/-- WPOP in its two forms (R282, R284, R358). -/
def runWpop (i : Instr) (s : State) (head : Bool) : Out :=
  let x := curCtx s
  let put (z : State) (v : Nat) : Out := .next (complete i (modExec z fun _ a => setLanePair i.opnds.x.toNat (BitVec.ofNat 64 v) a))
  if !isStrand x then trapExec i s 21 10
  else if muted s then
    match replayTake s 5 with
    | some (s1, d) => put s1 (leNat (d.take 8))
    | none => replayStop s
  else
    let k := x.core
    let r : State × Nat :=
      if !wlEn (wlCtl s k) then (s, 2 ^ 64 - 1)
      else if wlCountOf s k == 0 then (sparAfter s k, 2 ^ 64 - 1)
      else let t := wlTake s k head; (sparAfter t.1 k, t.2)
    put (logLane r.1 s.cur.ctx (curPc s) 5 0 (leBytes 8 r.2)) r.2

/-- WPOP.tail (R358). -/
def execWpopTail (o : Opnds) (s : State) : Out := runWpop (.wpopTail o) s false

/-- WPOP.head (R358). -/
def execWpopHead (o : Opnds) (s : State) : Out := runWpop (.wpopHead o) s true

end Sys2Proof.Machine
end

