-- ==== Sys2Proof/Machine/Copy.lean ====
section
/-! DEFINITION. The copy engines, TSEND and TGET, FPUT, FGET and XFENCE, and the start of an entry (R324, R459 to R465, R487
to R489). -/

namespace Sys2Proof.Machine

open Sys2Proof

/-! ## CPY and CPYR (R462) -/

/-- The issuing lane. -/
def oneLane (s : State) : Nat := execHead s

/-- CPY (R462). -/
def execCpy (o : Opnds) (s : State) : Out :=
  let i := Instr.cpy o
  let e := entryOf i s (oneLane s)
  let n := e.s2.toNat % 2 ^ 32
  match alignFail e.x 32 ++ alignFail e.s1 32 ++ (if n % 32 = 0 ∧ n ≤ 2 ^ 31 then [] else [issueFail 8 0 e.x]) with
  | f :: fs => raiseIssue i s (f :: fs)
  | [] => enqueue i s (copyQueue e.core) e

/-- CPY.join (R464). -/
def execCpyJoin (o : Opnds) (s : State) : Out :=
  let i := Instr.cpyJoin o
  enqueueJoin i s (copyQueue (curCore s (oneLane s)) :: maskQueues s (o.imm.extractLsb' 0 3).toNat)

/-- The fields of a descriptor (R462): DST, SRC, ROWB, ROWS, DSTR and SSTR. -/
structure CopyDesc where
  dst  : Nat
  src  : Nat
  rowb : Nat
  rows : Nat
  dstr : Nat
  sstr : Nat
  deriving DecidableEq, Repr

def copyDesc (b : List Byte) : CopyDesc :=
  { dst := at_ b 0 8, src := at_ b 8 8, rowb := at_ b 16 4, rows := at_ b 20 4, dstr := at_ b 24 4, sstr := at_ b 28 4 }

/-- CPYR (R462): the descriptor is read at issue, as MSEND reads its payload. -/
def execCpyr (o : Opnds) (s : State) : Out :=
  let i := Instr.cpyr o
  let l := oneLane s
  let e := entryOf i s l
  let off : Word := e.s2.setWidth 32
  match (msgFail s l off 32 32).toList with
  | f :: fs => raiseIssue i s (f :: fs)
  | [] =>
    let b := msgBytes s l off 32
    let d := copyDesc b.1
    if b.2 then raiseIssue i s [issueFail 14 0 (off.setWidth 64)]
    else if [d.dst, d.src, d.rowb, d.dstr, d.sstr].any (· % 32 != 0) then raiseIssue i s [issueFail 8 0 (off.setWidth 64)]
    else enqueue i s (copyQueue e.core) { e with desc := b.1 }

/-! ## TSEND and TGET (R463) -/

/-- The Truss that a node id of kind 0 names, in a package; the core field is ignored. -/
def trussNode (s : State) (own n : Nat) : Option Nat :=
  let m := n - n / 256 % 64 * 256
  if validNode m && nodeKindOf m == 0 then some (keyNamed s own m / 64) else none

/-- TSEND and TGET: their checks at issue. -/
def runTile (i : Instr) (s : State) : Out :=
  let e := entryOf i s (oneLane s)
  let a := e.s2.toNat % 2 ^ 32
  let n := e.s2.toNat / 2 ^ 32
  match alignFail e.x 32 ++ alignFail (BitVec.ofNat 64 a) 32
      ++ (if n % 32 = 0 ∧ 32 ≤ n ∧ n ≤ 65536 then [] else [issueFail 8 0 (BitVec.ofNat 64 a)])
      ++ (if (trussNode s (pkgOf e.core) (e.s1.toNat % 2 ^ 32)).isSome then [] else [issueFail 19 6]) with
  | f :: fs => raiseIssue i s (f :: fs)
  | [] => enqueue i s (copyQueue e.core) e

/-- TSEND (R463). -/
def execTsend (o : Opnds) (s : State) : Out := runTile (.tsend o) s

/-- TGET (R463). -/
def execTget (o : Opnds) (s : State) : Out := runTile (.tget o) s

/-- The Truss of a TSEND or TGET entry. -/
def tileTruss (s : State) (e : QEnt) : Nat := (trussNode s (pkgOf e.core) (e.s1.toNat % 2 ^ 32)).getD 0

/-- The Truss accepts an entry: a resident course of its task, and a range within S (R463). -/
def tileAccepted (s : State) (e : QEnt) : Bool :=
  let t := tileTruss s e
  (residents s t).any (fun c => c.2.task == e.task)
    && decide (e.s2.toNat % 2 ^ 32 + e.s2.toNat / 2 ^ 32 ≤ spaceSize s (.local t))

/-! ## FGET (R488) -/

/-- FGET (R488): on an L-core the entry keeps b6. -/
def execFget (o : Opnds) (s : State) : Out :=
  let i := Instr.fget o
  let l := oneLane s
  let e := entryOf i s l
  let d := e.s1.toNat % 2 ^ 32
  let n := e.s2.toNat % 2 ^ 32
  let far := if coreKind e.core = .lcore then [] else rangeFail (issueLimit s) d n 1
  match alignFail e.x 32 ++ alignFail (BitVec.ofNat 64 d) 32
      ++ (if n % 32 = 0 ∧ n ≤ 2 ^ 20 then [] else [issueFail 8 0 e.x]) ++ far with
  | f :: fs => raiseIssue i s (f :: fs)
  | [] => enqueue i s (copyQueue e.core)
      { e with desc := leBytes 8 (laneB (curLane s l) 6).toNat, posts := (getCore s e.core).jNext }

/-! ## Sectors (R460) -/

/-- A sector that was read: its bytes and whether it is poisoned. -/
abbrev Sector := List Byte × Bool

/-- A global source sector; none where a check fails. -/
def readSector (s : State) (e : QEnt) (va : Nat) : Option Sector :=
  ((entryPa s e (va % 2 ^ 64)).bind fun pa => physRead s e pa 32).map fun r => (leBytes 32 r.1, r.2)

/-- The physical address of a global destination sector; none where a check fails. -/
def sectorPa (s : State) (e : QEnt) (va : Nat) : Option Nat :=
  match translate s e.core e.ttb (BitVec.ofNat 64 va) .write e.priv with
  | .error _ => none
  | .ok (p, _, pa) =>
    if (attrFail (pkgOf e.core) p pa false false).isSome then none
    else if !accPasses s (pkgOf e.core) e.task pa 32 .write then none
    else some pa

/-- Writes a global sector: poisoned as its source, or clean. -/
def writeSector (s : State) (pa : Nat) (d : Sector) : State :=
  if targetOf pa = .window then countDrop s (windowEngine pa)
  else
    let s1 := storeHome (if d.2 then settleSector s pa else s) pa d.1
    if d.2 then poisonSector s1 pa else cleanSector s1 pa

/-- Writes a sector of a space in SRAM. -/
def writeLocal (s : State) (sp : Space) (a : Nat) (d : Sector) : State :=
  let s1 := spaceStore s sp a d.1
  let p := spaceAt s sp a
  if d.2 then sramPoison s1 p.1 p.2 else sramClean s1 p.1 p.2

/-- Where an entry reads a sector, and where it writes one. -/
inductive Place where
  | virt
  | local (sp : Space)
  deriving DecidableEq, Repr

def readPlace (s : State) (e : QEnt) (p : Place) (a : Nat) : Option Sector :=
  match p with
  | .virt => readSector s e a
  | .local sp => some (spaceBytes s sp a 32, spaceBad s sp a 32)

/-- Writes a sector into z at a place, which is translated in s. -/
def writePlace (s z : State) (e : QEnt) (p : Place) (a : Nat) (d : Sector) : Option State :=
  match p with
  | .virt => (sectorPa s e (a % 2 ^ 64)).map fun pa => writeSector z pa d
  | .local sp => some (writeLocal z sp a d)

/-- What an entry translated at a place in s stays in the TLBs of z (R430). -/
def keepPlace (z s : State) (e : QEnt) (p : Place) (a : Nat) : State :=
  match p with
  | .virt => keepWalk z s e.core e.ttb (BitVec.ofNat 64 a)
  | .local _ => z

/-- How far an entry has come: its flags, the bytes written, and whether it has stopped. -/
structure CopyRun where
  st    : State
  flags : Nat := 0
  bytes : Nat := 0
  stop  : Bool := false

/-- One sector of an entry. -/
def copySector (e : QEnt) (ps pd : Place) (r : CopyRun) (src dst : Nat) : CopyRun :=
  if r.stop then r
  else
    let s1 := keepPlace r.st r.st e ps src
    match readPlace r.st e ps src with
    | none => { r with st := s1, flags := orCc r.flags ccFault, stop := true }
    | some d =>
      let s2 := keepPlace s1 r.st e pd dst
      match writePlace r.st s2 e pd dst d with
      | none => { r with st := s2, flags := orCc r.flags ccFault, stop := true }
      | some z => { r with st := z, flags := if d.2 then orCc r.flags ccPoison else r.flags, bytes := r.bytes + 32 }

/-- n sectors in increasing address order. -/
def copyRow (e : QEnt) (ps pd : Place) : Nat → Nat → Nat → CopyRun → CopyRun
  | 0, _, _, r => r
  | n + 1, src, dst, r => copyRow e ps pd n (src + 32) (dst + 32) (copySector e ps pd r src dst)

/-- Rows of a CPYR entry. -/
def copyRows (e : QEnt) (d : CopyDesc) : Nat → Nat → CopyRun → CopyRun
  | 0, _, r => r
  | n + 1, k, r => copyRows e d n (k + 1) (copyRow e .virt .virt (d.rowb / 32) (d.src + k * d.sstr) (d.dst + k * d.dstr) r)

/-- The message space of an FGET entry (R216). -/
def msgPlace (e : QEnt) : Place := match coreKind e.core with | .lcore => .virt | _ => .local (entLoc e)
/-- The place of a message address: on an L-core it counts from b6. -/
def msgBase (e : QEnt) : Nat := match coreKind e.core with | .lcore => at_ e.desc 0 8 | _ => 0

/-- The sectors of an FGET entry. -/
def fgetSectors (e : QEnt) : Nat := e.s2.toNat % 2 ^ 32 / 32
/-- Where sector k of an FGET entry comes from, and goes to. -/
def fgetSrc (e : QEnt) (k : Nat) : Nat := e.x.toNat + 32 * k
def fgetDst (e : QEnt) (k : Nat) : Nat := msgBase e + e.s1.toNat % 2 ^ 32 + 32 * k
/-- How far an FGET entry has come. -/
def fgetSoFar (s : State) (e : QEnt) : CopyRun := { st := s, flags := e.flags, bytes := 32 * e.sectors, stop := e.halted }

/-- A CPY, CPYR or FGET entry's sectors; those of FGET from the first that is not done. -/
def copyRun (s : State) (e : QEnt) : CopyRun :=
  match e.instr with
  | .cpy _ => copyRow e .virt .virt (e.s2.toNat % 2 ^ 32 / 32) e.s1.toNat e.x.toNat { st := s }
  | .cpyr _ => let d := copyDesc e.desc; copyRows e d d.rows 0 { st := s }
  | .fget _ =>
    copyRow e .virt (msgPlace e) (fgetSectors e - e.sectors) (fgetSrc e e.sectors) (fgetDst e e.sectors) (fgetSoFar s e)
  | _ => { st := s }

/-- The destination that a completion message names (R461). -/
def copyDst (e : QEnt) : Nat :=
  match e.instr with
  | .cpyr _ => (copyDesc e.desc).dst
  | .fget _ => e.s1.toNat
  | _ => e.x.toNat

/-- An entry completes on its counter, or with a message to its issuer's engine (R461). -/
def copyDone (s : State) (q : QueueId) (e : QEnt) (flags bytes : Nat) : State :=
  let imm := e.instr.opnds.imm
  if !imm.getLsbD 7 then finishEntry s q e flags
  else
    let s1 := dropEntry s q e.id
    if e.killed then s1
    else
      enterSend s1 { dst := e.core, cls := (imm.extractLsb' 8 3).toNat, rel := true, fsens := false, txr := e.txr, src := e.core,
                     flow := 0, task := e.task, stamp := 0,
                     payload := padBytes 48 (leBytes 8 (copyDst e)
                       ++ leBytes 4 ((if Nat.land flags ccFault = 0 then 0 else 1) + (if Nat.land flags ccPoison = 0 then 0 else 2))
                       ++ leBytes 4 bytes) }

/-- The counter of the Truss that a TSEND or TGET entry names. -/
def tileCount (s : State) (e : QEnt) (flags : Nat) : State :=
  if e.killed then s else ccCount s (tileTruss s e * 64) (e.instr.opnds.imm.extractLsb' 7 7).toNat flags

/-- Reads the sectors of a TGET entry: each with its place. -/
def tileSectors (s : State) (e : QEnt) (sp : Space) (a n : Nat) : List Sector :=
  (List.range n).map fun k => (readPlace s e (.local sp) (a + 32 * k)).getD ([], false)

/-- Writes the sectors of a TGET entry until one fails. -/
def tileWrite (e : QEnt) : List Sector → Nat → CopyRun → CopyRun
  | [], _, r => r
  | d :: t, dst, r =>
    let s1 := keepPlace r.st r.st e .virt dst
    match writePlace r.st s1 e .virt dst d with
    | none => { r with st := s1, flags := orCc r.flags ccFault, stop := true }
    | some z => tileWrite e t (dst + 32) { r with st := z, bytes := r.bytes + 32 }

/-- A TSEND or TGET entry that was accepted. -/
def tileRun (s : State) (q : QueueId) (e : QEnt) (send : Bool) : State :=
  let sp := Space.local (tileTruss s e)
  let a := e.s2.toNat % 2 ^ 32
  let n := e.s2.toNat / 2 ^ 32 / 32
  if send then
    let r := copyRow e .virt (.local sp) n e.x.toNat a { st := s }
    finishEntry (tileCount r.st e r.flags) q e r.flags
  else
    let ds := tileSectors s e sp a n
    let flags := if ds.any (·.2) then ccPoison else 0
    let r := tileWrite e ds e.x.toNat { st := tileCount s e flags, flags }
    finishEntry r.st q e r.flags

/-- The deliveries of a TSEND or TGET entry are discarded: its task has been killed (R258, R463). -/
def tileDiscarded (s : State) (e : QEnt) : Bool := e.killed || tagDead s e.core e.task

/-- A TSEND or TGET entry ends: it runs where the Truss accepted it and its deliveries are not discarded (R463). -/
def tileEnd (s : State) (q : QueueId) (e : QEnt) (send : Bool) : State :=
  if !e.sent then finishEntry s q e ccFault
  else if tileDiscarded s e then finishEntry s q e 0
  else tileRun s q e send

/-- COPY_ENTRY_COMPLETE (R460, R461, R463). -/
def execCopyEntryComplete (s : State) : Out :=
  match s.ev with
  | some (.copyEntryComplete q) =>
    match runningEntry s q with
    | none => .next s
    | some e =>
      match e.instr with
      | .tsend _ => .next (tileEnd s q e true)
      | .tget _ => .next (tileEnd s q e false)
      | _ => let r := copyRun s e; .next (copyDone r.st q e r.flags r.bytes)
  | _ => .fault .noEvent

/-! ## FGET sectors of another package (R479, R488) -/

/-- The physical address and the attribute of sector k of an FGET entry, where it lies in another package's memory and its
translation passes. -/
def farSector (s : State) (e : QEnt) (k : Nat) : Option (Nat × Nat) :=
  match translate s e.core e.ttb (BitVec.ofNat 64 (fgetSrc e k)) .read e.priv with
  | .error _ => none
  | .ok (p, _, pa) =>
    if (attrFail (pkgOf e.core) p pa false false).isNone && farFrom (pkgOf e.core) pa then some (pa, p.attr) else none

/-- An FGET entry runs that has a sector of another package before it (log 150). -/
def fgetFar (s : State) (e : QEnt) : Bool :=
  match e.instr with
  | .fget _ => !e.halted && (e.asked || (List.range (fgetSectors e - e.sectors)).any fun k => (farSector s e (e.sectors + k)).isSome)
  | _ => false

/-- An earlier journal entry of the issuer's lane shares bytes with a sector (R479). -/
def postsOverlap (s : State) (e : QEnt) (pa : Nat) : Bool :=
  (getCore s e.core).journal.any fun j =>
    j.id < e.posts && j.ctx == e.ctx && j.lane == e.lane && !j.refused && overlaps (j.pa, jBytes j) (pa, 32)

/-- The next sector of an FGET entry that has one of another package before it: its request leaves, or it is copied; none
while it waits. -/
def fgetStep (s : State) (q : QueueId) (e : QEnt) : Option State :=
  if e.asked then none
  else
    match farSector s e e.sectors with
    | some (pa, attr) =>
      if postsOverlap s e pa then none
      else
        let acc : LaneAcc := { lane := e.lane, va := BitVec.ofNat 64 (fgetSrc e e.sectors), pa, attr, data := 0 }
        let a : Access := { ctx := e.ctx, op := .sector, x := 0, lanes := [acc], ticket := 0, pc := 0, entry := some (q, e.id) }
        some (pushFlight (modEntry (keepPlace s s e .virt (fgetSrc e e.sectors)) q e.id fun k => { k with asked := true })
          [.fabricRequestArrival { src := pkgOf e.core, dst := paPkg pa, acc := a }])
    | none =>
      let r := copySector e .virt (msgPlace e) (fgetSoFar s e) (fgetSrc e e.sectors) (fgetDst e e.sectors)
      some (modEntry r.st q e.id fun k => { k with sectors := r.bytes / 32, flags := r.flags, halted := r.stop })

/-- The answer to a sector's request: it is written, or the entry stops with FAULT (R460, R488). -/
def sectorBack (s : State) (q : QueueId) (id : Nat) (a : RemoteAns) : State :=
  match (queueOf s q).find? fun e => e.id == id with
  | none => s
  | some e =>
    let fail (z : State) : State := modEntry z q id fun k => { k with asked := false, halted := true, flags := orCc k.flags ccFault }
    match a.refused, a.vals with
    | [], v :: _ =>
      let dst := fgetDst e e.sectors
      let s1 := keepPlace s s e (msgPlace e) dst
      match writePlace s s1 e (msgPlace e) dst (leBytes 32 v.2, a.bad) with
      | none => fail s1
      | some z => modEntry z q id fun k =>
          { k with asked := false, sectors := k.sectors + 1, flags := if a.bad then orCc k.flags ccPoison else k.flags }
    | _, _ => fail s

/-- ACCESS_PERFORMED (R145, R147, R482, R488): the lanes held on an access of their own package go on; the answer of another
package lets the instruction issue again and end, or brings a sector of FGET. A recall has done its work when it was sent
(log 118). -/
def execAccessPerformed (s : State) : Out :=
  match s.ev with
  | some (.accessPerformed a) =>
    match a.acc.entry with
    | some (q, id) => .next (sectorBack s q id a)
    | none => .next (if a.own then releaseAccess s a.acc.ctx (a.acc.lanes.map (·.lane)) else grantAccess s a)
  | some (.coherence _ _) => .next s
  | _ => .fault .noEvent

/-- The Truss accepts or refuses a TSEND or TGET entry as it starts (R463). -/
def startsAccepted (s : State) (e : QEnt) : Bool :=
  match e.instr with
  | .tsend _ | .tget _ => tileAccepted s e
  | _ => false

/-- ENGINE_ENTRY_START (R324, R328): the next entry of a queue starts; a join that is over leaves every queue. -/
def execEngineEntryStart (s : State) : Out :=
  match s.ev with
  | some (.engineEntryStart q) =>
    match nextEntry s q with
    | none => .next s
    | some e =>
      if isJoin e then .next ((joinQueues e).foldl (fun z k => dropEntry z k e.id) s)
      else .next (modEntry s q e.id fun k => { k with started := true, sent := startsAccepted s e })
  | _ => .fault .noEvent

/-! ## FPUT (R487) -/

/-- The bytes that FPUT stores from each lane. -/
def fputBytes (o : Opnds) : Nat := ((o.imm.extractLsb' 0 8).toNat + 1) * 16

/-- A page of a destination must be ordinary or shared-coherent (R429). -/
def fputAttr (r : Except LaneFail Passed) : Except LaneFail Passed :=
  match r with
  | .ok p => if 2 ≤ p.acc.attr ∧ p.acc.attr ≤ 4 then
      .error { lane := p.acc.lane, fail := { vector := 12, reason := 4 }, addr := p.acc.va } else .ok p
  | .error f => .error f

/-- The checks of a lane's destination: the block alignment, and each page. -/
def fputChecks (s : State) (l : Nat) (d n : Nat) : List (Except LaneFail Passed) :=
  let b := Nat.min n 128
  if d % b ≠ 0 then [.error { lane := l, fail := { vector := 8, reason := 0 }, addr := BitVec.ofNat 64 d }]
  else (checkPages s l d n .write).map fputAttr

/-- The blocks of a lane, with the bytes of each. -/
def fputBlocks (l d : Nat) (pages : List Passed) (b : Nat) : Nat → List Byte → List (LaneAcc × List Byte)
  | 0, _ => []
  | n + 1, bs =>
    let pa := match pages.find? fun p => p.acc.va.toNat / 4096 == d / 4096 with
      | some p => p.acc.pa / 4096 * 4096 + d % 4096
      | none => 0
    ({ lane := l, va := BitVec.ofNat 64 d, pa, attr := 0, data := 0 }, bs.take b)
      :: fputBlocks l (d + b) pages b n (bs.drop b)

/-- Stores or enters blocks in order, as far as there is room; the rest. -/
def putBlocks (s : State) (group : Nat) : List (LaneAcc × List Byte) → State × List (LaneAcc × List Byte)
  | [] => (s, [])
  | (a, bs) :: t =>
    if postRoom s a then
      let op := MemOp.store .w64
      putBlocks (if ownPkg s a
          then pushFlight s [.relaxedStorePerform { ctx := s.cur.ctx, op, acc := a, bytes := bs, group }]
          else enterJournal s s.cur.ctx op a bs group) group t
    else (s, (a, bs) :: t)

/-- Stores what it can, and completes or waits for room (R487). -/
def fputGo (i : Instr) (s : State) (l : List (LaneAcc × List Byte)) : Out :=
  match putBlocks s (s.free + 1) l with
  | (s1, []) => .next (complete i s1)
  | (s1, r) => .next (waitAt s1 (.fput r))

/-- FPUT (R487). -/
def execFput (o : Opnds) (s : State) : Out :=
  let i := Instr.fput o
  match (curLane s (execHead s)).wait with
  | .fput left => fputGo i s left
  | _ =>
    let ls := execLanes s
    let n := fputBytes o
    let dst (l : Nat) : Nat := (valsOf i (curLane s l)).x.toNat
    let off (l : Nat) : Word := (valsOf i (curLane s l)).s2.setWidth 32
    let rs := ls.map fun l => (l, fputChecks s l (dst l) n)
    match rs.flatMap fun r => failsOf r.2 ++ (msgFail s r.1 (off r.1) n 16).toList with
    | f :: fs => raiseFails i (keepMsg s ls off n) (f :: fs)
    | [] =>
      if ls.any fun l => msgWaits s l (off l) n then retry s
      else
        let s1 := keepAll (msgForce s ls off n) (rs.flatMap (·.2))
        match poisonPayload s1 ls off n with
        | f :: fs => raiseMem i s1 (f :: fs)
        | [] =>
          if muted s then .next (complete i s1)
          else
            let b := Nat.min n 128
            fputGo i s1 (rs.flatMap fun r =>
              fputBlocks r.1 (dst r.1) (passesOf r.2) b (n / b) (msgBytes s1 r.1 (off r.1) n).1)

/-! ## XFENCE (R489) -/

/-- XFENCE (R489). -/
def execXfence (o : Opnds) (s : State) : Out :=
  let i := Instr.xfence o
  if journalOut s s.cur.ctx (execLanes s) none then retry s else .next (complete i s)

/-- XFENCE.pkg (R489). -/
def execXfencePkg (o : Opnds) (s : State) : Out :=
  let i := Instr.xfencePkg o
  let pkg (l : Nat) : Nat := ((valsOf i (curLane s l)).s2.extractLsb' 0 8).toNat
  if (execLanes s).any fun l => journalOut s s.cur.ctx [l] (some (pkg l)) then retry s else .next (complete i s)

end Sys2Proof.Machine
end

