-- ==== Sys2Proof/Machine/Detail.lean ====
section
/-! DEFINITION. The detail record of an instruction and the mark record (R265, R266, R273). -/

namespace Sys2Proof.Machine

open Sys2Proof

/-- The queue state of a lane: fill and in-flight nibbles (R265). -/
def queueNibbles (a : Lane) : Nat :=
  (List.range 4).foldl (fun n q => n + (laneQ a q).fill * 2 ^ (8 * q) + (laneQ a q).inflight * 2 ^ (8 * q + 4)) 0

/-- Address entries of 8 bytes, two to a unit (R265). -/
def addrEntries (l : List (Nat × DWord × Bool)) : List Byte :=
  l.flatMap fun e => leBytes 8
    ((if e.2.2 then e.2.1.toNat % 2 ^ 32 + 2 ^ 62 else e.2.1.toNat % 2 ^ 57) + e.1 % 32 * 2 ^ 57 + 2 ^ 63)

/-- The addresses that an instruction accesses in the lanes that execute it (R265). -/
def traceAddrs (s : State) (i : Instr) : List (Nat × DWord × Bool) :=
  let glob := (execLanes s).map fun l => (l, memAddr i.opnds (curLane s l), false)
  match i with
  | .ldl _ o | .stl _ o => (execLanes s).map fun l => (l, (locAddr o (curLane s l)).setWidth 64, true)
  | .stq _ o => glob.filter fun e => !(qHead (laneQ (curLane s e.1) (2 + o.x.toNat))).skip
  | .ld _ _ | .st _ _ | .ldq _ _ | .atom _ _ _ | .cas _ _ | .red _ _ _ | .afn _ _ _ | .spin _ _ => glob
  | _ => []

/-- The detail record of an instruction that the selected slot issues (R266); `s0` is the state before it issued. -/
def detailRecord (s0 s : State) (i : Instr) : State :=
  let x := curCtx s0
  let lane := s0.cur.lanes.headD 0
  let core := headCore x lane
  if (getCore s0 core).bezel.selected == x.slot && x.slot.isSome then
    let shown (ls : List Nat) : Nat :=
      if isStrand x then (if ls.isEmpty then 0 else 1) else (maskOf ls).toNat
    let cell := match i with | .br _ => (0, 55, 0) | _ => i.cell?.getD (0, 0, 0)
    let addrs := traceAddrs s0 i
    writeRecord s core 1 x
      (leBytes 8 (curPc s0).toNat ++ leBytes 4 (shown s0.cur.lanes)
        ++ leBytes 4 (shown (s0.cur.lanes.filter fun l => (curLane s0 l).annul != 0))
        ++ leBytes 4 (queueNibbles (curLane s0 lane))
        ++ leBytes 4 (cell.1 + cell.2.1 * 16 + cell.2.2 * 1024 + addrs.length * 2 ^ 16) ++ leBytes 8 0
        ++ addrEntries addrs)
  else s


/-- The mark record of a TMARK (R265, R273). -/
def markRecord (s : State) (v : Word) (imm : DWord) : State :=
  let x := curCtx s
  writeRecord s x.core 4 x (leBytes 8 (curPc s).toNat ++ leBytes 4 v.toNat ++ leBytes 4 (imm.toNat % 65536))

end Sys2Proof.Machine
end

