-- ==== Sys2Proof/Machine/Course.lean ====
section
/-! DEFINITION. Courses: the mark stack, fusion and re-fusion, the cross-lane instructions, the barrier and the cache mode
(R285 to R310, R500). -/

namespace Sys2Proof.Machine

open Sys2Proof

/-- A course that is not split. -/
def fused (x : Ctx) : Bool := !isStrand x && !x.split

/-- The course fault (R310). -/
def courseFault (i : Instr) (s : State) (reason : Nat) : Out := trapExec i s 21 reason

/-- Some active lane annuls the instruction while another executes it. -/
def mixedAnnul (s : State) : Bool := (execLanes s).length != s.cur.lanes.length

/-! ## Issuing (R241, R298) -/

/-- The point of a context at an address of its form: the address in the other form, and the number (R241, R397). -/
def pointAt (x : Ctx) (pc : DWord) : Option (DWord × Nat) :=
  match ctxForm x with
  | .k => (x.points.find? fun p => p.1 == pc).map fun p => (p.2.1, p.2.2)
  | .w => (x.points.find? fun p => p.2.1 == pc).map fun p => (p.1, p.2.2)

/-- A lane's record after the instruction at an address has issued: the passage of a point, or one instruction more. -/
def countIssue (x : Ctx) (pc : DWord) (a : Lane) : Lane :=
  match pointAt x pc with
  | some (other, n) => { a with point := n, pointOther := other, noeq := false, icnt := 1 }
  | none => { a with icnt := Nat.min (a.icnt + 1) 0xFFFFFFFF }

/-- A lane whose instruction at an address is complete, in or out of a handler: points, replay and watch records. -/
def issuedAt (x : Ctx) (pc : DWord) (handler : Bool) (a : Lane) : Lane :=
  { countIssue x pc a with replay := a.replay + 1, passBp := false, inst := none, wskip := if handler then a.wskip else none }

/-- A course has an issue of |ACT| lanes: each lane's heavy-divergence count advances or is reset, and the course splits
when one has reached HDN (R14, R298). The settings are a Truss's, and the count of a Gable course does not move (log 134). -/
def countHdc (z s : State) : State :=
  let c := z.cur.ctx
  let x := getCtx s c
  let v := trussReg s (trussOf x.core) 0x190
  if x.kind != .course || (getCtx z c).split || x.split || !x.alive then s
  else
    let low := decide (z.cur.lanes.length ≤ fld v 0 5)
    let next (a : Lane) : Nat := if low then Nat.min 255 (stHdc a.status + 1) else 0
    let s1 := modCtx s c fun y => modAllLanes y fun a => { a with status := stSetHdc a.status (next a) }
    if fld v 8 8 ≠ 0 ∧ x.marks ≠ [] ∧ ((liveLanes x).any fun l => decide (fld v 8 8 ≤ next (getLane x l))) = true
    then splitCourse s1 c 4 false 0 else s1

/-! ## The mark stack (R115, R290, R295) -/

/-- MARK (R115, R290, R295). -/
def execMark (o : Opnds) (s : State) : Out :=
  let i := Instr.mark o
  let x := curCtx s
  let label := jTarget i s
  if badTarget (ctxForm x) label then trapExec i s 3 0 0 label
  else if isStrand x then .next (complete i s)
  else if x.split then
    if (execLanes s).any fun l => (getLane x l).depth == 255 then
      trap i s { vector := 21, reason := 8, mask := maskOf ((execLanes s).filter fun l => (getLane x l).depth == 255) }
    else .next (complete i (modExec s fun _ a => { a with depth := a.depth + 1 }))
  else if mixedAnnul s then .next (splitCourse s s.cur.ctx 1 false (nextPc i s))
  else if x.marks.length = 16 then .next (splitCourse s s.cur.ctx 2 false (nextPc i s))
  else
    .next (complete i (modCtx s s.cur.ctx fun y => { y with marks := { rj := label, mask := maskOf s.cur.lanes } :: y.marks }))

/-- The lanes of a mask become the active ones, at a pc. -/
def activate (x : Ctx) (mask : Word) (pc : DWord) : Ctx :=
  { x with lanes := x.lanes.mapIdx fun l a => { a with actv := inMask mask l && a.live, pc, wait := .none } }

/-- JOIN (R115, R290, R295). -/
def execJoin (o : Opnds) (s : State) : Out :=
  let i := Instr.join o
  let x := curCtx s
  if isStrand x then .next (complete i s)
  else if x.split then
    match (execLanes s).filter fun l => (getLane x l).depth == 0 with
    | [] => .next (complete i (modExec s fun _ a => { a with depth := a.depth - 1 }))
    | l :: ls => trap i s { vector := 21, reason := 4, mask := maskOf (l :: ls) }
  else if mixedAnnul s then .next (splitCourse s s.cur.ctx 1 false (nextPc i s))
  else
    match x.marks with
    | [] => courseFault i s 4
    | t :: ts =>
      if curPc s ≠ t.rj then courseFault i s 5
      else
        let s1 := complete i s
        .next (modCtx s1 s.cur.ctx fun y =>
          if t.dmask ≠ 0 then { activate y t.dmask t.dpc with marks := { t with dmask := 0 } :: ts }
          else { activate y t.mask (nextPc i s) with marks := ts })

/-- The course goes on with the highest mark that has a lane of LM left; a mark with none is popped (R292, log 35). -/
def refillMarks (x : Ctx) : List Mark → Ctx
  | [] => { x with marks := [] }
  | t :: ts =>
    if t.dmask ≠ 0 then { activate x t.dmask t.dpc with marks := { t with dmask := 0 } :: ts }
    else if (liveLanes x).any fun l => inMask t.mask l then { activate x t.mask t.rj with marks := t :: ts }
    else refillMarks x ts

/-- Lanes have left ACT: the course goes on with its top mark when ACT is empty (R292). -/
def refillAct (x : Ctx) : Ctx :=
  if (actLanes x).isEmpty && !(liveLanes x).isEmpty then refillMarks x x.marks else x

/-! ## CLASP and fusion (R288, R289) -/

/-- The number of lanes that CLASP names. -/
def claspCount (n : BitVec 2) : Nat := 8 * 2 ^ n.toNat

/-- CLASP (R288). A wait that has ended answers 1; a course of the named set answers 0. A strand that names a set without its own
core waits (log 144). -/
def execClasp (n : BitVec 2) (o : Opnds) (s : State) : Out :=
  let i := Instr.clasp n o
  let x := curCtx s
  let base := (o.imm.extractLsb' 0 5).toNat
  let w := claspCount n
  let l := execHead s
  let truss := trussOf (curCore s l)
  let same := x.core == truss * 64 + base && x.lanes.length == w
  gated i s <|
  if (getLane x l).wait = .woken 1 then runLanes i s fun _ a _ => putX i 1 a
  else if base % w ≠ 0 ∨ 32 < base + w ∨ x.slot = some 0 then courseFault i s 1
  else if isStrand x then
    let slot := x.slot.getD 0
    let bad := (setCores (truss * 64 + base) w).any fun k =>
      match boundAt s k slot with
      | none => true
      | some c => !isStrand (getCtx s c)
    if bad then courseFault i s 1 else .next (waitAt s (.clasp base w))
  else if !same then courseFault i s 3
  else if x.split then .next (waitExec i s (.clasp base w))
  else runLanes i s fun _ a _ => putX i 0 a

/-- The strands that wait in slot k of every core of a set, lane by lane; none where some does not wait in CLASP. -/
def claspParts (s : State) (truss slot base n : Nat) : Option (List Nat) :=
  let l := (setCores (truss * 64 + base) n).filterMap fun k =>
    match boundAt s k slot with
    | some c =>
      let x := getCtx s c
      (match (getLane x 0).wait with
       | .clasp _ _ => if isStrand x then some c else none
       | _ => none)
    | none => none
  if l.length = n then some l else none

/-- An event on its way, with its contexts and lanes renamed. -/
def renameEv (f : Nat → Option (Nat × Nat)) (e : Ev) : Ev :=
  match e with
  | .queueLoadFill q => match f q.ctx with | some (c, l) => .queueLoadFill { q with ctx := c, lane := l } | none => e
  | .storeQueuePerform q =>
    match f q.ctx with | some (c, l) => .storeQueuePerform { q with ctx := c, lane := l } | none => e
  | .relaxedStorePerform p =>
    match f p.ctx with
    | some (c, l) => .relaxedStorePerform { p with ctx := c, acc := { p.acc with lane := l } }
    | none => e
  | _ => e

/-- What a strand has on its way passes to a lane of a new context: accesses, journal entries and engine entries. -/
def renameAll (s : State) (cores : List Nat) (truss : Nat) (f : Nat → Option (Nat × Nat)) : State :=
  let ent (e : QEnt) : QEnt := match f e.ctx with | some (c, l) => { e with ctx := c, lane := l } | none => e
  let s1 := { s with flight := s.flight.map (renameEv f), due := s.due.map (renameEv f) }
  let s2 := modTruss s1 truss fun t =>
    { t with matrix := t.matrix.map ent, gather := t.gather.map ent, copy := t.copy.map ent }
  cores.foldl (fun z k => modCore z k fun c =>
    { c with slice := c.slice.map ent,
             journal := c.journal.map fun e => match f e.ctx with
               | some (d, l) => { e with ctx := d, lane := l }
               | none => e }) s2

/-- The place of a context in a list, as a lane of a new context. -/
def renameTo (ps : List Nat) (c d : Nat) : Option (Nat × Nat) :=
  match ps.idxOf? c with
  | some l => some (d, l)
  | none => none

/-- FUSION (R289): the participants fault, are refused, or become the lanes of a new course. -/
def fuse (s : State) (truss slot base n : Nat) : State :=
  match claspParts s truss slot base n with
  | none => s
  | some ps =>
    let x (c : Nat) : Ctx := getCtx s c
    let a (c : Nat) : Lane := getLane (x c) 0
    let p0 := ps.headD 0
    let x0 := x p0
    let a0 := a p0
    let alike := ps.all fun c =>
      (a c).wait == .clasp base n && (a c).pc == a0.pc && (x c).kernel == x0.kernel && (x c).task == x0.task
    if !alike then ps.foldl (fun z c => trapAt z c [0] { vector := 21, reason := 3 }) s
    else
      match ps.filter fun c => stRM (a c).status != stRM a0.status || stTxr (a c).status != stTxr a0.status with
      | d :: ds => (d :: ds).foldl (fun z c => trapAt z c [0] { vector := 21, reason := 2 }) s
      | [] =>
        let cores := setCores (truss * 64 + base) n
        match freeNum s truss, wsFit s ps cores (wsBytes x0.need), decide ((heldCourses s truss).length < 1024) with
        | some num, some off, true =>
          let d := s.nextCtx
          let lanes := ps.map fun c =>
            { a c with wait := .none, pc := a0.pc, b := a0.b, slim := a0.slim, ttb := a0.ttb, replay := 0,
                       status := stSetHdc (a c).status 0 }
          let lease := birthLease s x0.core 0
          let y : Ctx := { x0 with kind := .course, core := truss * 64 + base, slot := some slot, lanes, wsOn := true,
                                   wsptr := BitVec.ofNat 32 off, num, lease, wsize := wsBytes x0.need,
                                   readyAt := trussCycle s truss, launch := none, bundle := 0 }
          let y := { y with points := readPoints s { core := x0.core, ttb := a0.ttb, priv := false, task := x0.task } x0.kernel }
          let s1 := addCtx (clearLeft s cores slot) y
          let s2 := renameAll s1 cores truss (renameTo ps · d)
          ps.foldl (fun z c => setCtx z c {}) s2
        | _, _, _ => ps.foldl (fun z c => modCtx z c fun y => modLane y 0 fun b => { b with wait := .woken 1 }) s

/-! ## Re-fusion (R296, R297) -/

/-- The lane waits at the rejoin, in CLASP or at BAR. -/
def parted (a : Lane) : Bool :=
  match a.wait with
  | .rejoin | .clasp _ _ | .bar => true
  | _ => false

/-- A course has arrived at BAR. -/
def arrivedAt (x : Ctx) : Bool := x.alive && x.lanes.any fun a => a.live && (match a.wait with | .arrived _ => true | _ => false)

/-- A half of a pair waits for a half that cannot come: it has ended, has split, or has arrived at BAR (R307). -/
def pairBroken (s : State) (x : Ctx) : Bool :=
  x.pairAt.isSome && (match x.mate with
    | some m => !(getCtx s m).alive || (getCtx s m).split || arrivedAt (getCtx s m)
    | none => true)

/-- REFUSION is due: every lane of LM of a split course waits, and at BAR its accesses are performed (R308), or a pair has
broken. -/
def refuses (s : State) (c : Nat) (x : Ctx) : Bool :=
  let ls := liveLanes x
  x.alive && (pairBroken s x
    || (!isStrand x && x.split && !ls.isEmpty && (ls.all fun l => parted (getLane x l))
        && !((ls.all fun l => (getLane x l).wait == .bar) && accessesOut s c ls .bay)))

/-- The lanes of a course that re-fuses at a CLASP or at BAR: each CLASP is complete there, with its records and 0 in its x;
at BAR the course has arrived (R297, R308). -/
def joinLanes (s : State) (c : Nat) (ls : List Nat) : State :=
  let x := getCtx s c
  let a0 := getLane x (ls.headD 0)
  match a0.wait, a0.inst with
  | .clasp _ _, some i =>
    let z (l : Nat) : State := { s with cur := { ctx := c, lanes := [l] } }
    let s1 := modCtx s c fun y => modLanes y ls fun _ a =>
      { putX i 0 (issuedAt x a.pc a.inHandler a) with pc := nextPc i (z (ls.headD 0)) }
    ls.foldl (fun y l => detailRecord (z l) (countSlot y x.core (x.slot.getD 0) 0) i) s1
  | .bar, _ => modCtx s c fun y => modLanes y ls fun _ a => { a with wait := .arrived true }
  | _, _ => s

/-- REFUSION (R296, R297, R307). -/
def refuse (s : State) (c : Nat) : State :=
  let x := getCtx s c
  if pairBroken s x then
    let s1 := trapWhole (setCtx s c { x with pairAt := none }) c { vector := 21, reason := 9 }
    match x.mate with
    | some m =>
      let y := getCtx s m
      if !y.alive then s1
      else if arrivedAt y && !y.split then becomeReady (trapWhole s1 m { vector := 21, reason := 9 }) m
      else trapAt s1 m ((liveLanes y).filter fun l => !(getLane y l).inHandler) { vector := 21, reason := 9 }
    | none => s1
  else
    let ls := liveLanes x
    let h := ls.headD 0
    let a0 := getLane x h
    let alike := ls.all fun l => (getLane x l).wait == a0.wait && (getLane x l).pc == a0.pc
    let clasp := match a0.wait with | .clasp _ _ => true | _ => false
    if !alike || (clasp && ls.any fun l => (getLane x l).depth != 0) then trapAt s c ls { vector := 21, reason := 3 }
    else
      match ls.filter fun l => stRM (getLane x l).status != stRM a0.status || stTxr (getLane x l).status != stTxr a0.status with
      | d :: ds => trapAt s c (d :: ds) { vector := 21, reason := 2 }
      | [] =>
        let marks := match a0.wait with | .rejoin => if x.rd = 1 then x.marks else [] | _ => []
        let s1 := joinLanes s c ls
        let b0 := getLane (getCtx s1 c) h
        let whole (a : Lane) : Lane :=
          { a with pc := b0.pc, b := b0.b, slim := b0.slim, ttb := b0.ttb, depth := 0, status := stSetHdc a.status 0 }
        let s2 := modCtx s1 c fun y =>
          { modAllLanes y fun a => if a.live then { whole a with actv := true, wait := match a.wait with | .arrived r => .arrived r | _ => .none }
                                   else whole a with split := false, rjv := false, marks }
        if arrivedAt (getCtx s2 c) then deactivate s2 c 1 else s2

/-- REFUSION. -/
def execRefusion (s : State) : Out :=
  match s.ev with
  | some (.refusion c) => .next (refuse s c)
  | _ => .fault .noEvent

/-! ## UNCLASP (R299) -/

/-- UNCLASP in its two forms. -/
def runUnclasp (i : Instr) (s : State) (keep : Bool) : Out :=
  let x := curCtx s
  if isStrand x then courseFault i s 1
  else if x.split then .next (complete i s)
  else if keep && x.marks.isEmpty then courseFault i s 4
  else
    let s1 := splitCourse (complete i s) s.cur.ctx 5 false (nextPc i s)
    .next (if keep then s1 else modCtx s1 s.cur.ctx fun y => { y with rjv := false, rd := 0, marks := [] })

/-- UNCLASP (R299). -/
def execUnclasp (o : Opnds) (s : State) : Out := runUnclasp (.unclasp o) s false

/-- UNCLASP_JOIN (R299). -/
def execUnclaspJoin (o : Opnds) (s : State) : Out := runUnclasp (.unclaspJoin o) s true

/-! ## LANE and WIDTH (R302) -/

/-- LANE: the lane number (R302). -/
def execLane (o : Opnds) (s : State) : Out :=
  let x := curCtx s
  runLanes (.lane o) s fun l a _ =>
    putX (.lane o) (BitVec.ofNat 64 (if isStrand x then 0 else if x.half then 32 + l else l)) a

/-- LANE_ACT: the active mask (R302). -/
def execLaneAct (o : Opnds) (s : State) : Out :=
  let x := curCtx s
  runLanes (.laneAct o) s fun l a _ =>
    putX (.laneAct o) ((if isStrand x then 1 else if x.split then 1 <<< l else maskOf (actLanes x) : Word).setWidth 64) a

/-- LANE_LIVE: the lane mask (R302). -/
def execLaneLive (o : Opnds) (s : State) : Out :=
  let x := curCtx s
  runLanes (.laneLive o) s fun _ a _ =>
    putX (.laneLive o) ((if isStrand x then 1 else maskOf (liveLanes x) : Word).setWidth 64) a

/-- WIDTH (R302). -/
def execWidth (o : Opnds) (s : State) : Out :=
  let x := curCtx s
  runLanes (.width o) s fun _ a _ => putX (.width o) (BitVec.ofNat 64 (logicalWidth x)) a

/-! ## Cross-lane instructions (R303 to R307) -/

/-- A participant: its logical lane, its operands, and its STATUS. -/
structure Part where
  lane   : Nat
  s1     : Word
  s2     : Word
  status : DWord
  deriving DecidableEq, Repr

/-- The participants of one half. -/
def partsOf (i : Instr) (x : Ctx) (lanes : List Nat) : List Part :=
  lanes.map fun l =>
    let v := valsOf i (getLane x l)
    { lane := if x.half then 32 + l else l, s1 := v.s1.setWidth 32, s2 := v.s2.setWidth 32, status := (getLane x l).status }

/-- Writes the results to the lanes of one half. -/
def writeParts (i : Instr) (x : Ctx) (lanes : List Nat) (f : Part → Word × FFlags) : Ctx :=
  (partsOf i x lanes).foldl (fun y p =>
    let r := f p
    modLane y (p.lane % 32) fun a => putX i (r.1.setWidth 64) { a with status := raiseFlags a.status r.2 }) x

/-- Both halves of a pair take course fault 9 (R307). -/
def pairMismatch (s : State) (c m : Nat) : Out :=
  let clear (z : State) (k : Nat) : State := modCtx z k fun y => modAllLanes { y with pairAt := none } fun a => { a with wait := .none }
  .next (trapWhole (trapWhole (clear (clear s c) m) c { vector := 21, reason := 9 }) m { vector := 21, reason := 9 })

/-- A cross-lane instruction: `f` gives the result of a participant from all of them, with the logical width. -/
def crossLane (i : Instr) (s : State) (f : Nat → List Part → Part → Word × FFlags) : Out :=
  let c := s.cur.ctx
  let x := curCtx s
  let ls := execLanes s
  if muted s then .next (stopCtx s 8 1)
  else if !isStrand x && x.split then courseFault i s 6
  else
    match x.mate with
    | none =>
      let ps := partsOf i x ls
      .next (complete i (setCtx s c (writeParts i x ls (f (logicalWidth x) ps))))
    | some m =>
      let y := getCtx s m
      match y.pairAt with
      | none => .next (waitAt (modCtx s c fun z => { z with pairAt := some (curPc s, ls) }) .pair)
      | some (pc, ms) =>
        if pc ≠ curPc s then pairMismatch s c m
        else
          let lower := if x.half then partsOf i y ms ++ partsOf i x ls else partsOf i x ls ++ partsOf i y ms
          let g := f (logicalWidth x) lower
          let s1 := setCtx (setCtx s c (writeParts i x ls g)) m (writeParts i { y with pairAt := none } ms g)
          let s2 := modCtx s1 m fun z =>
            modAllLanes (modLanes z (actLanes z) fun _ => stepAnnul) fun a => { a with pc := nextPc i s, wait := .none }
          .next (complete i s2)

/-- The source lane of SHFL (R304); none where it lies below lane 0. -/
def shflSource (m : ShflMode) (d width : Nat) (p : Part) : Option Nat :=
  match m with
  | .pick => some p.s1.toNat
  | .lo => if d ≤ p.lane then some (p.lane - d) else none
  | .hi => some (p.lane + d)
  | .mix => some (Nat.xor p.lane d)
  | .rot => some ((p.lane + d) % width)

/-- SHFL (R304). -/
def execShfl (m : ShflMode) (o : Opnds) (s : State) : Out :=
  crossLane (.shfl m o) s fun width ps p =>
    let src := shflSource m (o.imm.extractLsb' 0 6).toNat width p
    let v := match src with
      | some k => ((ps.find? fun q => q.lane == k).map (·.s2)).getD p.s2
      | none => p.s2
    (v, {})

/-- The result of VOTE, the same for every participant (R305). -/
def voteValue (m : VoteMode) (ps : List Part) : Word :=
  let set := ps.filter fun p => p.s2 != 0
  match m with
  | .every => if set.length = ps.length then 1 else 0
  | .some => if set.isEmpty then 0 else 1
  | .mask => maskOf ((set.filter fun p => p.lane < 32).map (·.lane))
  | .same => if ps.all fun p => p.s2 == ((ps.head?.map (·.s2)).getD 0) then 1 else 0
  | .maskhi => maskOf ((set.filter fun p => 32 ≤ p.lane).map (·.lane - 32))
  | .count => BitVec.ofNat 32 set.length

/-- VOTE (R305). -/
def execVote (m : VoteMode) (o : Opnds) (s : State) : Out :=
  crossLane (.vote m o) s fun _ ps _ => (voteValue m ps, {})

/-- One combination of RSEG and SCAN, with its flags (R306). -/
def combine (f : LaneOp) (r : RMode) (a b : Word) : Word × FFlags :=
  let fp (x : Rounded) : Word × FFlags := (BitVec.ofNat 32 x.bits, x.flags)
  match f with
  | .add => (a + b, {})
  | .and => (a &&& b, {})
  | .or => (a ||| b, {})
  | .xor => (a ^^^ b, {})
  | .min => (if b.slt a then b else a, {})
  | .max => (if a.slt b then b else a, {})
  | .minn => (if b.ult a then b else a, {})
  | .maxn => (if a.ult b then b else a, {})
  | .fadd => fp (fAdd fp32 r (fDecode fp32 a.toNat) (fDecode fp32 b.toNat))
  | .fmin => fp (fMinMax fp32 false a.toNat b.toNat)
  | .fmax => fp (fMinMax fp32 true a.toNat b.toNat)

/-- The exclusive identity of an operation (R306). -/
def combineId : LaneOp → Word
  | .add | .or | .xor | .maxn | .fadd => 0
  | .and | .minn => 0xFFFFFFFF
  | .min => 0x7FFFFFFF
  | .max => 0x80000000
  | .fmin => 0x7F800000
  | .fmax => 0xFF800000

/-- The combination of a list of values from the left, with the flags of its steps; a single value comes back as it is, with no
flag, a NaN too (R27, R306, log 136). -/
def combineAll (f : LaneOp) (r : RMode) : List Word → Word × FFlags
  | [] => (combineId f, {})
  | v :: vs => vs.foldl (fun acc w =>
      let n := combine f r acc.1 w
      (n.1, orFlags acc.2 n.2)) (v, {})

/-- The values of the segment that holds a lane: from its start to the next one (R306). -/
def segmentOf (ps : List Part) (lane : Nat) : List Word :=
  let starts := (ps.mapIdx fun k p => if k = 0 ∨ p.s1.getLsbD 0 = true then some p.lane else none).filterMap id
  let from_ := (starts.filter (· ≤ lane)).foldl Nat.max 0
  let next := starts.find? (lane < ·)
  (ps.filter fun p => from_ ≤ p.lane && (match next with | some n => p.lane < n | none => true)).map (·.s2)

/-- RSEG (R306). -/
def execRseg (f : LaneOp) (o : Opnds) (s : State) : Out :=
  crossLane (.rseg f o) s fun _ ps p => combineAll f (rmOf (stRM p.status)) (segmentOf ps p.lane)

/-- SCAN (R306). -/
def execScan (f : LaneOp) (o : Opnds) (s : State) : Out :=
  crossLane (.scan f o) s fun _ ps p =>
    let upto := (ps.filter fun q => if o.imm.getLsbD 0 then q.lane < p.lane else q.lane ≤ p.lane).map (·.s2)
    combineAll f (rmOf (stRM p.status)) upto

/-! ## The barrier (R308) -/

/-- The courses of the bundle of a course that have not ended: itself alone where no launch made it. -/
def bundleOf (s : State) (c : Nat) : List Nat :=
  let x := getCtx s c
  match x.launch with
  | none => [c]
  | some _ => (s.ctxs.filter fun e => e.2.alive && e.2.launch == x.launch && e.2.bundle == x.bundle).map (·.1)

/-- BAR (R308): a fused course arrives after its accesses; a lane of a split one waits. -/
def execBar (o : Opnds) (s : State) : Out :=
  let i := Instr.bar o
  let x := curCtx s
  if muted s then .next (stopCtx s 8 1)
  else if isStrand x then courseFault i s 7
  else if x.split then
    match (execLanes s).filter fun l => (getLane x l).depth != 0 with
    | [] => .next (waitExec i s .bar)
    | l :: ls => trap i s { vector := 21, reason := 7, mask := maskOf (l :: ls) }
  else if (getLane x (execHead s)).wait = .woken 0 ∨ (getLane x (execHead s)).wait = .woken 1 then .next (complete i s)
  else
    match x.mate.map fun m => (m, (getCtx s m).pairAt.isSome) with
    | some (m, true) => pairMismatch s s.cur.ctx m
    | _ =>
      if maskOf s.cur.lanes ≠ maskOf (liveLanes x) then courseFault i s 7
      else if accessesOut s s.cur.ctx (liveLanes x) .bay then retry s
      else .next (deactivate (modCtx s s.cur.ctx fun y =>
        modLanes y (liveLanes y) fun _ a => { a with wait := .arrived false }) s.cur.ctx 1)

/-- BAR_RELEASE is due for a course: all of its bundle that has not ended has arrived. -/
def barReady (s : State) (c : Nat) : Bool :=
  arrivedAt (getCtx s c) && (bundleOf s c).all fun d => arrivedAt (getCtx s d)

/-- BAR_RELEASE (R308). -/
def execBarRelease (s : State) : Out :=
  match s.ev with
  | some (.barRelease c) =>
    .next ((bundleOf s c).foldl (fun z d =>
      becomeReady (modCtx z d fun x => modAllLanes x fun a =>
        match a.wait with | .arrived r => { a with wait := .woken (if r then 1 else 0) } | _ => a) d) s)
  | _ => .fault .noEvent

/-! ## The cache mode (R309) -/

/-- No slot 1-15 of a Truss is bound, and no engine entry is in progress. -/
def quiescent (s : State) (truss : Nat) : Bool :=
  let t := getTruss s truss
  let cores := setCores (truss * 64) 32
  t.matrix.isEmpty && t.gather.isEmpty && t.copy.isEmpty
    && cores.all fun k => (getCore s k).slice.isEmpty && (boundOn s k).all fun e => e.2.slot == some 0

/-- Every line of the caches of a Truss is written back and leaves them, its code included. -/
def flushTruss (s : State) (truss : Nat) : State :=
  let s1 := modTruss (flushCache s (.truss truss)) truss fun t => { t with code := [] }
  (setCores (truss * 64) 32).foldl (fun z k =>
    if (getCore z k) = {} then z else modCore (flushCache z (.core k)) k fun c => { c with code := [] }) s1

/-- CMODE in its two forms. -/
def runCmode (i : Instr) (s : State) (shared : Bool) : Out :=
  let truss := trussOf (curCtx s).core
  if !isKeeper (curCtx s) || !curPriv s then privTrap i s
  else if !quiescent s truss then trapExec i s 20 8
  else
    let s1 := flushTruss s truss
    .next (complete i (setTrussReg s1 truss 0x191 (if shared then 1 else 0)))

/-- CMODE_PRIVATE (R309). -/
def execCmodePrivate (o : Opnds) (s : State) : Out := runCmode (.cmodePrivate o) s false

/-- CMODE_SHARED (R309). -/
def execCmodeShared (o : Opnds) (s : State) : Out := runCmode (.cmodeShared o) s true

end Sys2Proof.Machine
end

