-- ==== Sys2Proof/Machine/Sched.lean ====
section
/-! DEFINITION. The Truss scheduler: readiness, activation, fairness, and LEASE (R387 to R396, R500). -/

namespace Sys2Proof.Machine

open Sys2Proof

/-! ## LEASE (R388) -/

/-- LEASEV as a register of 32 bits. -/
def leasev (x : Ctx) : Word := (strandReg x {} 0x006).setWidth 32

/-- LEASE in its two forms: an opportunity of the scheduler (R394). -/
def runLease (i : Instr) (s : State) (read : Bool) : Out :=
  let x := curCtx s
  if isStrand x then runLanes i s fun _ a _ => putX i 0 a
  else
    let old := leasev x
    let s1 := complete i (modExec s fun _ a => putX i (old.setWidth 64) a)
    let told (z : State) : State := if x.kind == .course then pushDue z [.courseActivation (trussOf x.core)] else z
    if read then .next (told s1)
    else
      let n := Nat.min ((valsOf i (curLane s (execHead s))).s2.toNat % 2 ^ 32) 65535
      let s2 := modCtx s1 s.cur.ctx fun y =>
        { y with lease := if n = 0 then { y.lease with decl := false, lines := y.lease.est }
                          else { y.lease with decl := true, lines := 8 * n } }
      .next (told s2)

/-- LEASE (R388). -/
def execLease (o : Opnds) (s : State) : Out := runLease (.lease o) s false

/-- LEASE.rd (R388). -/
def execLeaseRd (o : Opnds) (s : State) : Out := runLease (.leaseRd o) s true

/-! ## Readiness (R393) -/

/-- A lane's wait keeps its course from being ready. -/
def waitOpen (s : State) (x : Ctx) (a : Lane) : Bool :=
  match a.wait with
  | .mwait any cls ks => !mwaitHolds s x any cls ks
  | .sleep _ _ | .spin _ | .yldCc _ _ _ _ | .arrived _ | .parked _ | .migr _ _ _ | .quit _ => true
  | _ => false

/-- A course that may be chosen at all: resident, not active, not held, not stopped. -/
def idleCourse (x : Ctx) : Bool :=
  x.alive && !x.pending && x.kind == .course && x.slot.isNone && !x.held && !x.lanes.any (·.stopped)

/-- A course is ready. -/
def courseReady (s : State) (x : Ctx) : Bool :=
  idleCourse x && (x.split || !x.lanes.any (waitOpen s x))

/-- A course that waits in SPIN. -/
def courseSpins (x : Ctx) : Bool :=
  idleCourse x && !x.split && x.lanes.any fun a => match a.wait with | .spin _ => true | _ => false

/-- The other half of a pair, while it has not ended (log 133). -/
def liveMate (s : State) (c : Nat) : Option Nat := (getCtx s c).mate.filter fun m => (getCtx s m).alive

/-- A course and the other half of its pair. -/
def halves (s : State) (c : Nat) : List Nat := c :: (liveMate s c).toList

/-- The course, or the pair that it leads, is ready. -/
def unitReady (s : State) (c : Nat) : Bool := (halves s c).all fun d => courseReady s (getCtx s d)

/-- The course is due by its skips or its age (R395, R500). -/
def unitDue (s : State) (c : Nat) : Bool :=
  (halves s c).any (fun d => (getCtx s d).due || decide (64 ≤ (getCtx s d).skip))
    && (halves s c).all fun d => courseReady s (getCtx s d) || courseSpins (getCtx s d)

/-- The courses of a Truss that are chosen for themselves: a pair is chosen by its lower half. -/
def unitsOf (s : State) (t : Nat) : List Nat := ((residents s t).filter fun e => !e.2.half || (liveMate s e.1).isNone).map (·.1)

/-- The lines that an activation adds to TLSUM. -/
def unitLines (s : State) (c : Nat) : Nat := ((halves s c).map fun d => (getCtx s d).lease.lines).foldl (· + ·) 0

/-- The unit with the earliest ready time, the lower course number first. -/
def earliest (s : State) : List Nat → Option Nat
  | [] => none
  | c :: t =>
    match earliest s t with
    | none => some c
    | some d =>
      let x := getCtx s c
      let y := getCtx s d
      if x.readyAt < y.readyAt ∨ (x.readyAt = y.readyAt ∧ x.num < y.num) then some c else some d

/-! ## Slots -/

/-- The cores of a course. -/
def coresOfCtx (x : Ctx) : List Nat := setCores x.core (ctxWidth x)

/-- A slot is free on every core of a list. -/
def slotFree (s : State) (cores : List Nat) (k : Nat) : Bool := cores.all fun c => (boundAt s c k).isNone

/-- The slots that a unit holds when its first is k. -/
def unitSlots (s : State) (c k : Nat) : List Nat := if (liveMate s c).isSome then [k, k + 8] else [k]

/-- A slot is being emptied for another due unit on one of the cores (R395, R396). -/
def slotClaimed (s : State) (c : Nat) (cores : List Nat) (k : Nat) : Bool :=
  s.ctxs.any fun e => e.1 != c && unitDue s e.1 && cores.any (onCore e.2)
    && (e.2.claim.map fun j => (unitSlots s e.1 j).contains k) == some true

/-- The lowest slot that a unit can take (R374, R500). -/
def freeSlotFor (s : State) (c : Nat) : Option Nat :=
  let cores := coresOfCtx (getCtx s c)
  ((List.range (if (liveMate s c).isSome then 8 else 16)).drop 1).find? fun k =>
    (unitSlots s c k).all fun j => slotFree s cores j && !slotClaimed s c cores j

/-- A slot's class in this rotation is that of the context that leaves it: the one that takes it has none yet (R395). -/
def unclass (s : State) (cores : List Nat) (k : Nat) : State :=
  cores.foldl (fun z c => modCore z c fun e =>
    { e with bezel := { e.bezel with rot := tset 0 e.bezel.rot k (8 + tget 0 e.bezel.rot k % 4) } }) s

/-- A course is bound to a slot, and a new interval starts there (R266, R281, R389, R394). -/
def activateAt (s : State) (c k : Nat) : State :=
  let x := getCtx s c
  let cores := coresOfCtx x
  let s1 := setCtx (clearLeft s cores k) c
    { x with slot := some k, skip := 0, due := false, claim := none, left := none, rebound := [], last := none, readyAt := trussCycle s (trussOf x.core),
             lanes := x.lanes.map fun a => { a with replay := 0 }, lease := { x.lease with filter := [], h := 0 } }
  let s2 := cores.foldl (fun z core => setSlotCounts z core k [0, x.lease.lines, 0, 0, 0]) s1
  pushDue (unclass s2 cores k) [.contextResume c]

/-- A unit is activated: one activation more that the waiting courses of its Truss were passed over (R395). -/
def activateUnit (s : State) (c k : Nat) : State :=
  let us := halves s c
  let t := trussOf (getCtx s c).core
  let s1 := match liveMate s c with
    | none => activateAt s c k
    | some m => activateAt (activateAt s c k) m (k + 8)
  ((residents s1 t).filter fun e => e.2.slot.isNone && !us.contains e.1).foldl
    (fun z e => modCtx z e.1 fun x => { x with skip := x.skip + us.length }) s1

/-! ## Fairness (R395) -/

/-- A slot that no displacement empties: a split strand or a stopped course holds it. -/
def slotKept (s : State) (cores : List Nat) (k : Nat) : Bool :=
  cores.any fun core => match boundAt s core k with
    | some d => isStrand (getCtx s d) || (getCtx s d).lanes.any (·.stopped)
    | none => false

/-- The courses that hold a slot on some core of a list. -/
def occupants (s : State) (cores : List Nat) (k : Nat) : List Nat := (cores.filterMap fun core => boundAt s core k).dedup

/-- A course was not ready on memory or on message in its last rotation: the one in progress where its slot has been
served in it, else the one before. -/
def waitingClass (s : State) (d : Nat) : Bool :=
  let x := getCtx s d
  let z := (getCore s x.core).bezel
  let v := match tget 0 z.rot (x.slot.getD 0) with
    | 0 => tget 0 z.prev (x.slot.getD 0)
    | v => v
  v == 2 || v == 3

/-- The slot with the largest value, the lowest first; a slot without a value does not count. -/
def bestSlot (val : Nat → Option Nat) : List Nat → Option (Nat × Nat)
  | [] => none
  | k :: t =>
    match val k, bestSlot val t with
    | none, r => r
    | some v, none => some (k, v)
    | some v, some (j, w) => if w ≤ v then some (k, v) else some (j, w)

/-- The largest of some values. -/
def largest (l : List Nat) : Option Nat := match l with | [] => none | v :: t => some (t.foldl Nat.max v)

/-- The slot that is emptied for a due course: first by the largest lease that waits, then by the longest activity. -/
def emptySlot (s : State) (c : Nat) : Option Nat :=
  let cores := coresOfCtx (getCtx s c)
  let top := if (liveMate s c).isSome then 8 else 16
  let ks := ((List.range top).drop 1).filter fun k => !(unitSlots s c k).any (slotKept s cores)
  let occ (k : Nat) := (unitSlots s c k).flatMap (occupants s cores)
  let byLines := bestSlot (fun k => largest (((occ k).filter (waitingClass s)).map fun d => (getCtx s d).lease.lines)) ks
  match byLines with
  | some (k, _) => some k
  | none =>
    let now := trussCycle s (trussOf (getCtx s c).core)
    (bestSlot (fun k => largest ((occ k).map fun d => now - (getCtx s d).readyAt)) ks).map (·.1)

/-- The courses that hold a slot, and the other halves of their pairs, must leave at their next boundaries. -/
def displaceAll (s : State) (ds : List Nat) : State :=
  (ds.flatMap (halves s)).foldl (fun z d =>
    modCtx z d fun x => if x.slot.isSome then { x with displace := 2 } else x) s

/-- A slot of the cores is being emptied already. -/
def emptying (s : State) (cores : List Nat) : Bool :=
  s.ctxs.any fun e => e.2.alive && e.2.slot.isSome && e.2.displace == 2 && cores.any (onCore e.2)

/-- A due course that spins becomes ready, and its SPIN completes at its activation (R207, R395). -/
def wakeSpinner (s : State) (c : Nat) : State := modCtx s c fun x => modAllLanes x endSpin

/-- A due unit is activated, or a slot is emptied for it and kept for it until it is activated (R396). -/
def serveDue (s : State) (c : Nat) : State :=
  let s1 := (halves s c).foldl wakeSpinner s
  match freeSlotFor s1 c with
  | some k => activateUnit s1 c k
  | none =>
    let cores := coresOfCtx (getCtx s1 c)
    if emptying s1 cores then s1
    else
      match emptySlot s1 c with
      | some k => modCtx (displaceAll s1 ((unitSlots s1 c k).flatMap (occupants s1 cores))) c fun x => { x with claim := some k }
      | none => s1

/-- Due units, in order of their ready times. -/
def dueLoop (t : Nat) : Nat → List Nat → State → State
  | 0, _, s => s
  | fuel + 1, tried, s =>
    match earliest s ((unitsOf s t).filter fun c => !tried.contains c && unitDue s c) with
    | none => s
    | some c => dueLoop t fuel (c :: tried) (serveDue s c)

/-- A lease refusal of a unit is counted (R271, R394). -/
def refuseLease (s : State) (c : Nat) : State :=
  (halves s c).foldl (fun z d => modCtx z d fun x => { x with lease := { x.lease with refusals := x.lease.refusals + 1 } }) s

/-- Ready units, in order of their ready times: those that fit. -/
def fitLoop (t : Nat) : Nat → List Nat → State → State
  | 0, _, s => s
  | fuel + 1, tried, s =>
    match earliest s ((unitsOf s t).filter fun c => !tried.contains c && unitReady s c) with
    | none => s
    | some c =>
      fitLoop t fuel (c :: tried)
        (match freeSlotFor s c with
          | none => s
          | some k =>
            if admitLimit s t < trussSum s t + unitLines s c then refuseLease s c else activateUnit s c k)

/-- One opportunity of the Truss scheduler (R394). -/
def opportunity (s : State) (t : Nat) : State :=
  let n := (unitsOf s t).length
  fitLoop t n [] (dueLoop t n [] s)

/-- COURSE_ACTIVATION (R394). -/
def execCourseActivation (s : State) : Out :=
  match s.ev with
  | some (.courseActivation t) => .next (opportunity s t)
  | _ => .fault .noEvent

/-- The cycles after which a waiting course of a Truss is due; none where AGE is 0 (R392, R395). -/
def ageLimit (s : State) (t : Nat) : Option Nat :=
  let a := fld (trussReg s t 0x193) 8 5
  if a = 0 then none else some (16 * 2 ^ Nat.max a 10)

/-- The courses that the age rule makes due now. -/
def agedCourses (s : State) (t : Nat) : List Nat :=
  match ageLimit s t with
  | none => []
  | some n =>
    ((residents s t).filter fun e =>
      (courseReady s e.2 || courseSpins e.2) && !e.2.due && decide (n ≤ trussCycle s t - e.2.readyAt)).map (·.1)

/-- FAIRNESS_DUE (R395): an opportunity. -/
def execFairnessDue (s : State) : Out :=
  match s.ev with
  | some (.fairnessDue c) =>
    let x := getCtx s c
    .next (pushDue (setCtx s c { x with due := true }) [.courseActivation (trussOf x.core)])
  | _ => .fault .noEvent

/-- FAIRNESS_DISPLACEMENT (R395, R500): the course leaves its slot at its boundary. -/
def execFairnessDisplacement (s : State) : Out :=
  match s.ev with
  | some (.fairnessDisplacement c) => .next (startLeave s c (getCtx s c).displace)
  | _ => .fault .noEvent

end Sys2Proof.Machine
end

