-- ==== Sys2Proof/Machine/Strands.lean ====
section
/-! DEFINITION. Starting, ending and waiting: SPAWN, QUIT, REAP, SLEEP, WAKE, YLD, SPIN, WSP, CINV and CWB, with the events
that belong to them (R196 to R211). -/

namespace Sys2Proof.Machine

open Sys2Proof

/-! ## Spawn records (R196 to R199) -/

/-- The new context's start from a record (R198). -/
def spawnBirth (s : State) (r : SpawnRec) (core : Nat) : Birth :=
  { core, pc := r.pc, b := r.b, slim := r.slim, ttb := r.ttb, task := r.task, txr := r.txr, rm := r.rm, kernel := r.kernel,
    parentNode := nodeId s r.src, parentWord := r.parent }

/-- The first registers that a record gives a lane. -/
def spawnRegs (r : SpawnRec) (l : Nat) : Option (List Word) := (r.lanes.find? fun e => e.1 == l).map (·.2)

/-- Starts a record's context where one is free (R196, R199, R457); a course has width 16 where its kernel declares it (log
33). -/
def startRecord (s : State) (r : SpawnRec) : Option State :=
  if r.course then
    let t := trussOf r.target
    let w := kernWidth r.kernel
    if t % 16 = 8 then
      (gableTakes s t).map fun p => addGable s (spawnBirth s r p.1) p.2 w (spawnRegs r)
    else
      match trussTakes s t w (kernelNeed r.kernel .k), freeNum s t with
      | some p, some num => some (addCourse s (spawnBirth s r p.1) num w p.2 (spawnRegs r))
      | _, _ => none
  else if coreKind r.target = .lcore then
    (lFree s r.target).map fun c => addGable s (spawnBirth s r r.target) c 32 fun l => if l = 0 then spawnRegs r 0 else none
  else
    (slotTakes s r.target (kernelNeed r.kernel .k)).map fun p =>
      addStrand s (spawnBirth s r r.target) p.1 p.2 ((spawnRegs r 0).getD [])

/-- The core that queues a record: core 0 of the unit for a course (R199). -/
def spawnHome (r : SpawnRec) : Nat := if r.course then trussOf r.target * 64 else r.target

/-- A record reaches its target: it starts, is queued behind earlier ones, or is refused (R199). -/
def placeRecord (s : State) (r : SpawnRec) : State × Nat :=
  let k := spawnHome r
  let q := (getCore s k).spawnQ
  let queued := if q.length < 32 then (modCore s k fun c => { c with spawnQ := c.spawnQ ++ [r] }, 1) else (s, 2)
  if q.isEmpty then
    match startRecord s r with
    | some s1 => (s1, 0)
    | none => queued
  else queued

/-- SPAWN_RECORD_ARRIVAL (R198, R199, R258, R262). The answer to a record that cannot be delivered is not stated (log 34). -/
def execSpawnRecordArrival (s : State) : Out :=
  match s.ev with
  | some (.spawnRecordArrival r) =>
    if tagDead s r.src r.task || tagDead s r.target r.task then .next s
    else if (getCore s r.target).retired = true then
      .next (pushFlight s [.spawnAnswer r.ctx r.lane ((Config.freeValue s.free 35).toNat % 2 ^ 32) r.target])
    else
      let p := placeRecord s r
      .next (pushFlight (if p.2 = 2 then p.1 else stampTake p.1 r.target r.stamp) [.spawnAnswer r.ctx r.lane p.2 r.target])
  | _ => .fault .noEvent

/-- SPAWN_ANSWER (R197, R251). -/
def execSpawnAnswer (s : State) : Out :=
  match s.ev with
  | some (.spawnAnswer c l v k) => .next (routeAnswer s c l v (.spawnAnswer c l v k))
  | _ => .fault .noEvent

/-- The head of a core's spawn queue can start. -/
def spawnReady (s : State) (core : Nat) : Option State :=
  match (getCore s core).spawnQ with
  | [] => none
  | r :: _ => startRecord s r

/-- SPAWN_QUEUE_START (R199). -/
def execSpawnQueueStart (s : State) : Out :=
  match s.ev with
  | some (.spawnQueueStart core) =>
    match spawnReady s core with
    | some s1 => .next (modCore s1 core fun c => { c with spawnQ := c.spawnQ.drop 1 })
    | none => .next s
  | _ => .fault .noEvent

/-! ## SPAWN -/

/-- The core that a node id names, in a package, as the target of SPAWN (R196, R457). -/
def spawnTarget (s : State) (own : Nat) (course : Bool) (n : Nat) : Option Nat :=
  if course then
    let m := n - n / 256 % 64 * 256
    if validNode m && (nodeKindOf m == 0 || nodeKindOf m == 1) then some (keyNamed s own m) else none
  else if validNode n && nodeKindOf n ≤ 2 then some (keyNamed s own n) else none

/-- The kernel and the entry that a lane names for a target; none where the entry is bad (R197). -/
def spawnEntry (s : State) (l : Nat) (e : DWord) (f : Form) : Option (Kernel × DWord) :=
  let x := curCtx s
  let a := getLane x l
  if e.getLsbD 0 then
    let r : Reader := { core := laneCore x l, ttb := a.ttb, priv := stPriv a.status, task := x.task }
    match readKernel s r (e - 1) with
    | none => none
    | some k => if kernelEntry k f = 0 then none else some (k, kernelEntry k f)
  else if badTarget f e then none else some (x.kernel, e)

/-- The registers g0 to g3 of a lane. -/
def firstRegs (a : Lane) : List Word := (List.range 4).map (laneReg a)

/-- The record that a lane sends (R198). -/
def spawnRecOf (s : State) (course : Bool) (l target : Nat) (k : Kernel) (p : DWord) : SpawnRec :=
  let x := curCtx s
  let a := getLane x l
  let single := x.split || isStrand x
  { target, course, pc := p,
    lanes := if !course then [(0, firstRegs a)]
             else if single then (List.range 32).map fun j => (j, firstRegs a)
             else (execLanes s).map fun j => (j, firstRegs (getLane x j)),
    b := (List.range 8).map (laneB a), slim := a.slim, task := x.task, ttb := a.ttb, rm := stRM a.status,
    txr := stTxr a.status, kernel := k, ctx := s.cur.ctx, lane := if course && !single then none else some l,
    src := laneCore x l, parent := BitVec.ofNat 32 (targetWord x), stamp := 0 }

/-- Sends a record: its engine's stamp advances (R262). -/
def sendRecord (s : State) (r : SpawnRec) : State :=
  let p := stampSend s r.src
  pushFlight p.1 [.spawnRecordArrival { r with stamp := p.2 }]

/-- The status that SPAWN writes to a lane. -/
def spawnStatus (course : Bool) (st : List (Nat × Nat)) (l : Nat) : Nat :=
  if course then (st.head?.map (·.2)).getD 0 else answerVal st l

/-- A result that the replay log keeps: KIND 5 (R282). -/
def logResults (s : State) (val : Nat → Nat) (n : Nat) : State :=
  (execLanes s).foldl (fun z l => logLane z s.cur.ctx (curPc s) 5 l (leBytes n (val l))) s

/-- Ends an instruction whose 32-bit result is an input of the lane (R282). -/
def finishInput (i : Instr) (s : State) (val : Nat → Nat) : Out :=
  .next (complete i (modExec (logResults s val 4) fun l a => putX i (BitVec.ofNat 64 (val l)) (consume i.opnds a)))

/-- A lane's stores on their way are performed before it reads a descriptor as plain loads read it (R146, R197). -/
def forceStores (s : State) (l : Nat) : State :=
  forceFlight s fun e => match e with
    | .relaxedStorePerform p => p.ctx == s.cur.ctx && p.acc.lane == l
    | .storeQueuePerform q => q.ctx == s.cur.ctx && q.lane == l
    | _ => false

/-- A journal entry of a lane covers bytes of a descriptor that it reads (R479). -/
def descWaits (s : State) (l : Nat) (desc : DWord) : Bool :=
  let a := curLane s l
  (List.range 16).any fun k =>
    match translate s (curCore s l) a.ttb (desc + BitVec.ofNat 64 (8 * k)) .read (stPriv a.status) with
    | .ok (_, _, pa) => journalOverlap s s.cur.ctx l pa 8
    | .error _ => false

/-- The lanes of a SPAWN send their records: a bad entry is found before the queue operand holds it (R235). -/
def spawnSend (i : Instr) (s : State) (course : Bool) (node : Nat → Nat) (e : Nat → DWord) (tgt : Nat → Option Nat) : Out :=
  let ls := execLanes s
  let form (k : Nat) : Form := kindForm (coreKind k)
  let bad := ls.filter fun l => match tgt l with
    | some k => (spawnEntry s l (e l) (form k)).isNone
    | none => false
  match bad with
  | h :: hs => trap i s { vector := 3, addr := e h, mask := maskOf (h :: hs) }
  | [] => gated i s <|
    if muted s then replayInput i s else
    let good := ls.filter fun l => (tgt l).isSome
    let go := if course then good.filter fun l => l == ls.headD 0 else good
    let sc := relScope s (good.map node)
    if accessesOut s s.cur.ctx ls sc then retry s
    else if course && go.isEmpty then finishInput i s fun _ => 3
    else
      let recs := go.filterMap fun l =>
        match tgt l with
        | some k => (spawnEntry s l (e l) (form k)).map fun p => spawnRecOf s course l k p.1 p.2
        | none => none
      let st := if course then [] else (ls.filter fun l => !good.contains l).map fun l => (l, 3)
      .next (recs.foldl sendRecord (waitAt s (.answer recs.length st [])))

/-- SPAWN in its two forms (R197): the lanes that name a descriptor read it after their own stores. -/
def runSpawn (i : Instr) (s : State) (course : Bool) : Out :=
  match answerOf s with
  | some (0, st, _) => finishInput i s (spawnStatus course st)
  | some _ => .next s
  | none =>
      let node (l : Nat) : Nat := (valsOf i (curLane s l)).s1.toNat % 2 ^ 32
      let e (l : Nat) : DWord := (valsOf i (curLane s l)).s2
      let tgt (l : Nat) : Option Nat := spawnTarget s (pkgOf (curCore s l)) course (node l)
      let ds := (execLanes s).filter fun l => (tgt l).isSome && (e l).getLsbD 0
      if ds.any fun l => descWaits s l (e l - 1) then retry s
      else spawnSend i (ds.foldl forceStores s) course node e tgt

/-- SPAWN.ctx (R196). -/
def execSpawnCtx (o : Opnds) (s : State) : Out := runSpawn (.spawnCtx o) s false

/-- SPAWN.course (R196). -/
def execSpawnCourse (o : Opnds) (s : State) : Out := runSpawn (.spawnCourse o) s true

/-! ## The end of a context (R200, R201) -/

/-- The core whose keeper takes a context's exit record. -/
def exitCore (x : Ctx) : Nat := match x.kind with | .course => trussOf x.core * 64 | _ => x.core

/-- The exit record of a context (R201). -/
def exitRecord (x : Ctx) (c : Nat) (forced : Bool) (code : Word) : ExitRec :=
  let crs := !isStrand x
  { w0 := BitVec.ofNat 32 (2 ^ 31 + (if forced then 2 ^ 30 else 0)
      + (if crs then 2 ^ 29 + x.num % 1024 * 2 ^ 16 else x.slot.getD 0 % 16)),
    w1 := if forced then 0xFFFFFFFF else code, w2 := x.task.setWidth 32, w3 := x.wsptr, ctx := c }

/-- The tables of an L-core context go with its course: the next course there has none loaded (R138). -/
def dropTables (s : State) (x : Ctx) : State :=
  match x.kind, x.slot with
  | .gable, some k => modCore s x.core fun e => { e with fmts := tset {} e.fmts k {} }
  | _, _ => s

/-- A context ends: it gives up its slot and its bindings, a pre-emption of it finds none, and its launch counts it (R200,
R233, R254, R266, R375); `quiet` writes no record (R280). The other half of a pair goes on as a course of its own (R500). -/
def endCtx (s : State) (c : Nat) (bad : Bool) (quiet : Bool := false) : State :=
  let x := getCtx s c
  let s0 := markStopped (if quiet then s else summary (countLast s c) c 5) x (stoppedLanes x) false
  let mateAsked := (x.mate.map fun m => (getCtx s m).preempt) == some true
  let s0 := if x.preempt && !mateAsked then preDone s0 (preCore x) true else s0
  let s1 := unbindAll (dropTables (dropSelection s0 x) x) x
  let s2 := modCtx s1 c fun y =>
    { y with alive := false, slot := none, left := none, rebound := [], leaving := 0, preempt := false,
             lanes := y.lanes.map fun a => { a with queues := [], wait := .none } }
  let s3 := courseEnded s2 x.launch bad
  let s4 := if x.kind == .course then pushDue s3 [.courseActivation (trussOf x.core)] else s3
  residencyChanged s4 x.core

/-- A workspace is free again (R202, R508). -/
def freeWs (s : State) (c : Nat) : State :=
  residencyChanged (modCtx s c fun x => { x with wsOn := false }) (getCtx s c).core

/-- A context reached step 3 of QUIT in the cycle in which a course did, with a higher course number (R200). -/
def quitAfter (s : State) (c d : Nat) : Bool :=
  let x := getCtx s c
  let y := getCtx s d
  x.kind == .course && y.kind == .course && y.quitAt == x.quitAt && decide (x.num < y.num)

/-- An entry of a context in its place among those that reached step 3 of QUIT before it (R200). -/
def placeQuit {α : Type} (s : State) (c : Nat) (ctx : α → Nat) (l : List α) (e : α) : List α :=
  match l with
  | [] => [e]
  | a :: t => if quitAfter s c (ctx a) then e :: a :: t else a :: placeQuit s c ctx t e

/-- A course of the same Truss and slot with a lower number may still reach step 3 in the cycle in which a course did, and
the exit queue may not have room for both (R200). -/
def quitRival (s : State) (c : Nat) : Bool :=
  let x := getCtx s c
  let k := exitCore x
  x.kind == .course && x.quitAt == cycOf s k && decide (28 < (getCore s k).exitQ.length) && s.ctxs.any fun e =>
    let y := e.2
    y.alive && y.kind == .course && exitCore y == k && y.slot == x.slot && decide (y.num < x.num)
      && (coresOfCtx y).any fun j => decide ((getCore s j).served ≤ cycOf s j)

/-- The last lane has left: the context ends and posts its exit record. -/
def postExit (s : State) (c : Nat) (code : Word) : State :=
  let x := getCtx s c
  let s1 := modCtx s c fun y => modAllLanes y fun a => { a with live := false, actv := false }
  modCore (endCtx s1 c (code != 0)) (exitCore x) fun k =>
    { k with exitQ := placeQuit s c (·.ctx) k.exitQ (exitRecord x c false code) }

/-- EXIT_RECORD_POST is due: an exit queue has room for the first context that waits, and none may still come before it. -/
def exitDue (s : State) (core : Nat) : Bool :=
  (getCore s core).exitQ.length < 32 && match (getCore s core).exitWait with
    | (c, _) :: _ => !quitRival s c
    | [] => false

/-- EXIT_RECORD_POST (R200). -/
def execExitRecordPost (s : State) : Out :=
  match s.ev with
  | some (.exitRecordPost core) =>
    match (getCore s core).exitWait with
    | (c, code) :: t =>
      if exitDue s core then .next (postExit (modCore s core fun k => { k with exitWait := t }) c code) else .next s
    | [] => .next s
  | _ => .fault .noEvent

/-- QUIT (R200, R292). -/
def execQuit (o : Opnds) (s : State) : Out :=
  let i := Instr.quit o
  let c := s.cur.ctx
  let x := curCtx s
  let ls := execLanes s
  if curPriv s then privTrap i s
  else gated i s <|
  if accessesOut s c ls .sys then retry s
  else if ls.any fun l => (getLane x l).queues.any fun q => q.2.inflight != 0 then retry s
  else
    let code : Word := (valsOf i (curLane s (ls.headD 0))).s2.setWidth 32
    let k := exitCore x
    if (liveLanes x).all fun l => ls.contains l then
      let z := modCtx s c fun y => { y with quitAt := cycOf s k }
      if (getCore s k).exitWait.isEmpty && (getCore s k).exitQ.length < 32 && !quitRival z c then
        .next (postExit (complete i z) c code)
      else
        .next (modCore (waitAt z (.quit code)) k fun e => { e with exitWait := placeQuit z c (·.1) e.exitWait (c, code) })
    else
      .next (modCtx (complete i s) c fun y =>
        let y := modLanes y ls fun _ a => { a with live := false, actv := false, queues := [], wait := .none }
        if y.split then y else refillAct y)

/-! ## REAP (R202) -/

/-- The four words of a record in a quad. -/
def quadOf (r : ExitRec) : QWord := r.w3 ++ r.w2 ++ r.w1 ++ r.w0

/-- Pops the oldest exit record of a core and releases its workspace; zero where there is none. -/
def popExit (s : State) (core : Nat) : State × QWord :=
  match (getCore s core).exitQ with
  | [] => (s, 0)
  | r :: t => (freeWs (modCore s core fun c => { c with exitQ := t }) r.ctx, quadOf r)

/-- Each lane takes a value of its own in increasing lane order. -/
def eachLane {α : Type} (f : State → Nat → State × α) : List Nat → State → State × List (Nat × α)
  | [], s => (s, [])
  | l :: t, s =>
    let r := f s l
    let q := eachLane f t r.1
    (q.1, (l, r.2) :: q.2)

/-- Ends a REAP with the quads of its lanes. -/
def finishReap (i : Instr) (s : State) (vals : List (Nat × QWord)) : Out :=
  let s1 := vals.foldl (fun z v => logLane z s.cur.ctx (curPc s) 5 v.1 (leBytes 32 v.2.toNat)) s
  .next (complete i (modCtx s1 s.cur.ctx fun x =>
    vals.foldl (fun y v => modLane y v.1 (setLaneQuad i.opnds.x.toNat v.2)) x))

/-- A re-executed REAP (R284). -/
def replayReap (i : Instr) (s : State) : Out :=
  match replayTake s 5 with
  | some (s1, d) => .next (complete i (modExec s1 fun _ a => setLaneQuad i.opnds.x.toNat (BitVec.ofNat 128 (leNat (d.take 16))) (consume i.opnds a)))
  | none => replayStop s

/-- REAP.poll (R202). -/
def execReapPoll (o : Opnds) (s : State) : Out :=
  let i := Instr.reapPoll o
  if !curPriv s then privTrap i s
  else if muted s then replayReap i s
  else
    let r := eachLane (fun z l => popExit z (curCore s l)) (execLanes s) s
    finishReap i r.1 r.2

/-- Every lane of REAP.wait finds a record in its queue. -/
def reapHolds (s : State) (x : Ctx) (ls : List Nat) : Bool :=
  ls.all fun l => !(getCore s (laneCore x l)).exitQ.isEmpty

/-- REAP.wait (R202). -/
def execReapWait (o : Opnds) (s : State) : Out :=
  let i := Instr.reapWait o
  if !curPriv s then privTrap i s
  else if muted s then replayReap i s
  else if !reapHolds s (curCtx s) (execLanes s) then .next (waitAt s .reap)
  else
    let r := eachLane (fun z l => popExit z (curCore s l)) (execLanes s) s
    finishReap i r.1 r.2

/-- The context that REAP.force names on a core. -/
def forceTarget (s : State) (core : Nat) (w : Nat) : Option Nat :=
  if w.testBit 31 then courseNum s (trussOf core) (w % 1024)
  else if w % 16 = 0 then none else boundAt s core (w % 16)

/-- Ends a context by force and frees its workspace; a QUIT that it waits in never completes (R202, R203). -/
def forceEnd (s : State) (c : Nat) : State :=
  let s1 := modCore s (exitCore (getCtx s c)) fun k => { k with exitWait := k.exitWait.filter fun e => e.1 != c }
  freeWs (endCtx s1 c true) c

/-- REAP.force (R202): the context stops issuing, and ends when its queues have nothing in flight. -/
def execReapForce (o : Opnds) (s : State) : Out :=
  let i := Instr.reapForce o
  let tgt (l : Nat) : Option Nat := forceTarget s (curCore s l) ((valsOf i (curLane s l)).s2.toNat % 2 ^ 32)
  if !curPriv s then privTrap i s
  else gated i s <|
  if muted s then replayReap i s
  else
    let ts := (execLanes s).filterMap tgt
    if ts.any fun c => queuesBusy (getCtx s c) then
      retry (ts.foldl (fun z c => modCtx z c fun x => { x with leaving := 5 }) s)
    else
      let r := eachLane (fun z l => match tgt l with
        | some c => if (getCtx z c).alive then (forceEnd z c, quadOf (exitRecord (getCtx z c) c true 0)) else (z, 0)
        | none => (z, 0)) (execLanes s) s
      finishReap i (takeQueues i r.1) r.2

/-! ## SLEEP and WAKE (R204, R205) -/

/-- A lane waits in SLEEP. -/
def sleeps (a : Lane) : Bool := match a.wait with | .sleep _ _ => true | _ => false

/-- A context is switched out: pre-empted, with no slot or held. -/
def switchedOut (x : Ctx) : Bool := x.held || (isStrand x && x.slot.isNone)

/-- SLEEP (R204). -/
def execSleep (o : Opnds) (s : State) : Out :=
  let i := Instr.sleep o
  let h := execHead s
  let a := curLane s h
  let clear (z : State) : State := putUniform z (fun _ => false) fun b v => { b with pendWake := v }
  gated i s <|
  if muted s then replayInput i s
  else
    match a.wait with
    | .woken r => finishInput i s fun _ => r
    | w =>
      let t0 := match w with | .sleep t _ => t | _ => cycOf s (curCore s h)
      let t := match w with | .sleep _ t => t | _ => (valsOf i a).s2.toNat % 2 ^ 32
      if a.pendWake then finishInput i (clear s) fun _ => 0
      else if t ≠ 0 ∧ t ≤ cycOf s (curCore s h) - t0 then finishInput i s fun _ => 1
      else .next (deactivate (waitAt s (.sleep t0 t)) s.cur.ctx 1)

/-- The lanes of a context that a wait of one lane stands for. -/
def unitLanes (x : Ctx) (l : Nat) : List Nat := if x.split || isStrand x then [l] else allLanes x

/-- Ends a wait of a lane, or of its whole course, with a result; the course becomes ready. -/
def endWait (s : State) (c l r : Nat) : State :=
  becomeReady (modCtx s c fun x => modLanes x (unitLanes x l) fun _ a => { a with wait := .woken r }) c

/-- A wake meets a lane (R204, R205). -/
def wakeLane (s : State) (c l : Nat) : State :=
  let x := getCtx s c
  if sleeps (getLane x l) && !switchedOut x then endWait s c l 0
  else modCtx s c fun y => modLanes y (unitLanes y l) fun _ a => { a with pendWake := true }

/-- The lane that stands for a course that is not split: the lowest that sleeps, else its first. -/
def sleeper (x : Ctx) : Nat := ((allLanes x).find? fun l => sleeps (getLane x l)).getD 0

/-- The context and lanes that a wake names (R205). -/
def wakeTarget (s : State) (core : Nat) (w : Nat) : Option (Nat × List Nat) :=
  if w.testBit 31 then
    (courseNum s (trussOf core) (w % 1024)).map fun c =>
      let x := getCtx s c
      (c, if x.split then liveLanes x else [sleeper x])
  else if w % 16 = 0 then none
  else (boundAt s core (w % 16)).map fun c =>
    let x := getCtx s c
    (c, if !x.split then [sleeper x] else if x.kind == .course then [laneOn x core] else liveLanes x)

/-- WAKE_ARRIVAL (R205, R258, R262). -/
def execWakeArrival (s : State) : Out :=
  match s.ev with
  | some (.wakeArrival k) =>
    match engineKind k.target with
    | .core _ =>
      match wakeTarget s k.target k.word.toNat with
      | some (c, ls) => .next (ls.foldl (fun z l => wakeLane z c l) (stampTake s k.target k.stamp))
      | none => .next s
    | _ => .next s
  | _ => .fault .noEvent

/-- SLEEP_TIMEOUT is due for a lane (R204). -/
def sleepOver (s : State) (x : Ctx) (l : Nat) : Bool :=
  match (getLane x l).wait with
  | .sleep t0 t => t != 0 && decide (t ≤ cycOf s (laneCore x l) - t0) && !switchedOut x && x.alive
  | _ => false

/-- SLEEP_TIMEOUT (R204). -/
def execSleepTimeout (s : State) : Out :=
  match s.ev with
  | some (.sleepTimeout c l) => .next (if sleepOver s (getCtx s c) l then endWait s c l 1 else s)
  | _ => .fault .noEvent

/-- WAKE (R205): it waits as SPAWN does, sends, and completes. -/
def execWake (o : Opnds) (s : State) : Out :=
  let i := Instr.wake o
  let ls := execLanes s
  let v (l : Nat) : DWord := (valsOf i (curLane s l)).s2
  if muted s then .next (complete i s)
  else if accessesOut s s.cur.ctx ls (relScope s (ls.map fun l => (v l).toNat % 2 ^ 32)) then retry s
  else
    let send (z : State) (l : Nat) : State :=
      let n := (v l).toNat % 2 ^ 32
      if validNode n then
        let p := stampSend z (curCore s l)
        pushFlight p.1 [.wakeArrival { target := keyNamed s (pkgOf (curCore s l)) n, src := curCore s l, word := (v l).extractLsb' 32 32, task := (curCtx s).task, stamp := p.2 }]
      else z
    .next (complete i (ls.foldl send s))

/-! ## YLD (R206) -/

/-- YLD (R206): a course deactivates and stays ready. -/
def execYld (o : Opnds) (s : State) : Out :=
  .next (deactivate (complete (.yld o) s) s.cur.ctx 1)

/-- A completion counter has reached t (R326). -/
def ccReached (s : State) (core n t : Nat) : Bool :=
  decide ((fld (ccReg s core n) 0 32 + 2 ^ 32 - t) % 2 ^ 32 < 2 ^ 31)

/-- YLD.cc (R206): a transfer that the mark stack could not absorb splits the course first (R291). -/
def execYldCc (o : Opnds) (s : State) : Out :=
  let i := Instr.yldCc o
  let x := curCtx s
  let h := execHead s
  let v := valsOf i (curLane s h)
  let n := v.x.toNat % 128
  let cont := curPc s + jUnit o.form * o.imm
  if coreKind x.core = .eave ∧ 16 ≤ n then trapExec i s 1 5
  else if badTarget (ctxForm x) cont then trapExec i s 3 0 0 cont
  else gated i s <|
    match landTransfer s (nextPc i s) (fun _ => cont) fun _ a => a with
    | none => .next (splitCourse s s.cur.ctx 1 true (nextPc i s))
    | some _ =>
      let s1 := waitAt (takeQueues i s) (.yldCc n (v.s2.toNat % 2 ^ 32) cont (nextPc i s))
      .next (deactivate { s1 with cur := { s1.cur with done := true } } s.cur.ctx 1)

/-- YLD_CC_WAKE is due for a lane (R206). -/
def yldDue (s : State) (x : Ctx) (l : Nat) : Bool :=
  match (getLane x l).wait with
  | .yldCc n t _ _ => x.alive && ccReached s (laneCore x l) n t
  | _ => false

/-- YLD_CC_WAKE (R206): the context goes on at its continuation. -/
def execYldCcWake (s : State) : Out :=
  match s.ev with
  | some (.yldCcWake c l) =>
    let x := getCtx s c
    match (getLane x l).wait with
    | .yldCc _ _ cont next =>
      let s1 := { s with cur := { ctx := c, lanes := if x.split || isStrand x then [l] else actLanes x } }
      match landTransfer s1 next (fun _ => cont) fun _ a => a with
      | some s2 => .next (becomeReady s2 c)
      | none => .next s
    | _ => .next s
  | _ => .fault .noEvent

/-! ## SPIN (R207) -/

/-- Every lane read the value that it compares with. -/
def spinSame (w : Width) (accs : List LaneAcc) (vals : List (Nat × Nat)) : Bool :=
  accs.all fun a => (vals.find? fun v => v.1 == a.lane).map (·.2) == some (a.data.toNat % 2 ^ wBits w)

/-- The lines that a SPIN watches. -/
def spinLines (accs : List LaneAcc) : List Nat := (accs.map fun a => a.pa / lineBytes).dedup

/-- SPIN (R207). -/
def execSpin (w : Width) (o : Opnds) (s : State) : Out :=
  let i := Instr.spin w o
  let op := MemOp.spin w
  match (curLane s (execHead s)).wait with
  | .woken _ => .next (complete i s)
  | .granted ans => finishRemote i s ans
  | _ =>
    let rs := accessChecks i s op true
    let s1 := keepAll s rs
    match failsOf rs with
    | f :: fs => raiseMem i s1 (f :: fs)
    | [] =>
      let accs := (passesOf rs).map (·.acc)
      match watchReport i s1 false (watchKinds op) (accs.map fun a => (a.lane, a.va, opBytes op)) with
      | some r => r
      | none =>
        if accs.any fun a => !ownPkg s a then
          if accs.any fun a => journalOverlap s s.cur.ctx a.lane a.pa (opBytes op) then retry s
          else .next (pushFlight (waitAt (forceAll (touchAll s1 accs) op accs) .access)
            [.fabricRequestArrival { src := pkgOf (curCtx s).core, dst := 0, acc := accessOf s op o.x accs }])
        else
          let r := performLanes (forceAll (touchAll s1 accs) op accs) (curCore s) s.cur.ctx op accs
          if spinSame w accs r.2 then .next (deactivate (waitAt r.1 (.spin (spinLines accs))) s.cur.ctx 1)
          else .next (complete i r.1)

/-- SPIN_WAKE (R207). -/
def execSpinWake (s : State) : Out :=
  match s.ev with
  | some (.spinWake c l line) =>
    match (getLane (getCtx s c) l).wait with
    | .spin ls => .next (if ls.contains line then endWait s c l 0 else s)
    | _ => .next s
  | _ => .fault .noEvent

/-! ## WSP (R208, R209) -/

/-- The split strand of a core whose workspace lies at an offset and that no slot holds. -/
def unboundStrand (s : State) (core off : Nat) : Option Nat :=
  (s.ctxs.find? fun e =>
    e.2.alive && isStrand e.2 && e.2.wsOn && e.2.slot.isNone && e.2.core == core && e.2.wsptr.toNat == off).map (·.1)

/-- Binds a strand to a slot: a new interval starts, and its replay count is 0 (R208, R266, R281). -/
def bindStrand (s : State) (core slot c : Nat) : State :=
  let s1 := modCtx (clearLeft s [core] slot) c fun x =>
    modAllLanes { x with slot := some slot, held := false, left := none, rebound := [] } fun a => { a with replay := 0 }
  let s2 := modCore s1 core fun k => { k with bezel := { k.bezel with since := tset 0 k.bezel.since slot 0 } }
  pushDue (setSlotCounts s2 core slot [0, 0, 0, 0, 0]) [.contextResume c]

/-- The strand and slot that a lane's WSP.bind names; none for the fault of R209. -/
def wspPick (s : State) (i : Instr) (l : Nat) : Option (Nat × Nat) :=
  let v := valsOf i (curLane s l)
  let core := curCore s l
  let slot := v.s1.toNat % 16
  if slot = 0 ∨ slotCount (coreKind core) ≤ slot ∨ (boundAt s core slot).isSome = true then none
  else (unboundStrand s core (v.s2.toNat % 2 ^ 32)).map fun c => (slot, c)

/-- WSP.bind (R208). -/
def execWspBind (o : Opnds) (s : State) : Out :=
  let i := Instr.wspBind o
  if !curPriv s then privTrap i s
  else gated i s <|
    match (execLanes s).filter fun l => (wspPick s i l).isNone with
    | h :: hs => trap i s { vector := 20, reason := 4, mask := maskOf (h :: hs) }
    | [] =>
      .next (complete i (takeQueues i ((execLanes s).foldl (fun z l => match wspPick s i l with
        | some p => bindStrand z (curCore s l) p.1 p.2
        | none => z) s)))

/-- WSP.read (R208). -/
def execWspRead (o : Opnds) (s : State) : Out :=
  let i := Instr.wspRead o
  if !curPriv s then privTrap i s
  else
    runLanes i s fun l a v =>
      let r : Word := match boundAt s (curCore s l) (v.s2.toNat % 16) with
        | some c => (getCtx s c).wsptr
        | none => 0xFFFFFFFF
      putX i (r.setWidth 64) a

/-! ## Fusion (R289) -/

/-- FUSION; a course that it forms changes what is resident (R370). -/
def execFusion (s : State) : Out :=
  match s.ev with
  | some (.fusion truss slot base n) =>
    let t := fuse s truss slot base n
    .next (if t.nextCtx = s.nextCtx then t else residencyChanged t (truss * 64))
  | _ => .fault .noEvent

/-! ## CINV and CWB (R210) -/

/-- The caches that a lane's CINV and CWB act on. -/
def cinvCaches (s : State) (core : Nat) : List CacheAt :=
  match coreKind core with
  | .eave => []
  | .lcore => [.core core]
  | .dcore =>
    if trussShared s (trussOf core) then [.truss (trussOf core)]
    else
      let g := groupCores s core
      if g.contains core then g.map .core else [.core core]

/-- The line of a lane's address, where its translation and permission allow the access. -/
def cinvLine (s : State) (i : Instr) (l : Nat) (k : AccKind) : Option Nat :=
  let a := curLane s l
  match translate s (curCore s l) a.ttb (valsOf i a).s2 k (stPriv a.status) with
  | .ok (_, _, pa) => some pa
  | .error _ => none

/-- The translation of a lane's address stays in the TLBs (R430). -/
def keepLine (z s : State) (i : Instr) (l : Nat) : State :=
  let a := curLane s l
  keepWalk z s (curCore s l) a.ttb (valsOf i a).s2

/-- The line at an address is written back, and leaves the cache or stays clean. -/
def cinvOne (s : State) (c : CacheAt) (pa : Nat) (drop : Bool) : State :=
  match cacheFind s c pa with
  | none => s
  | some l =>
    if drop then dropLine s c l
    else
      let s1 := writeBack s l
      setCacheLines s1 c ((cacheLines s1 c).map fun k => if k.line = l.line then { k with dirty := k.dirty.map fun _ => false } else k)

/-- CINV.data and CWB.line: each lane's line in its caches. -/
def runLine (i : Instr) (s : State) (drop : Bool) : Out :=
  .next (complete i ((execLanes s).foldl (fun z l => match cinvLine s i l .read with
    | some pa => (cinvCaches s (curCore s l)).foldl (fun y c => cinvOne y c pa drop) (keepLine z s i l)
    | none => keepLine z s i l) s))

/-- CINV.data (R210). -/
def execCinvData (o : Opnds) (s : State) : Out := runLine (.cinvData o) s true

/-- CWB.line (R210). -/
def execCwbLine (o : Opnds) (s : State) : Out := runLine (.cwbLine o) s false

/-- Code words without those that `gone` names by their address. -/
def keepCode (gone : Nat → Bool) (code : Tab Nat) : Tab Nat := code.filter fun e => !gone e.1

/-- The fetch paths of a core lose the words that `gone` names: its own, those of the portions that it looks up, and the
Truss code buffer (R210). -/
def dropCode (s : State) (core : Nat) (gone : Nat → Bool) : State :=
  let s1 := (fetchCores s core).foldl (fun z k => modCore z k fun c => { c with code := keepCode gone c.code }) s
  match coreKind core with
  | .dcore => modTruss s1 (trussOf core) fun t => { t with code := keepCode gone t.code }
  | _ => s1

/-- CINV.code: the line leaves every fetch path of the context (R210, R211). -/
def execCinvCode (o : Opnds) (s : State) : Out :=
  let i := Instr.cinvCode o
  let cores := coresOfCtx (curCtx s)
  .next (complete i ((execLanes s).foldl (fun z l => match cinvLine s i l .fetch with
    | some pa => cores.foldl (fun y k => dropCode y k fun a => a / lineBytes == pa / lineBytes) (keepLine z s i l)
    | none => keepLine z s i l) s))

/-- The caches of the executing lanes. -/
def laneCaches (s : State) : List CacheAt := ((execLanes s).flatMap fun l => cinvCaches s (curCore s l)).dedup

/-- CINV.all (R210). -/
def execCinvAll (o : Opnds) (s : State) : Out :=
  let i := Instr.cinvAll o
  if !curPriv s then privTrap i s
  else
    let s1 := (laneCaches s).foldl flushCache s
    .next (complete i ((coresOfCtx (curCtx s)).foldl (fun z k => dropCode z k fun _ => true) s1))

/-- CWB.all (R210). -/
def execCwbAll (o : Opnds) (s : State) : Out :=
  .next (complete (.cwbAll o) ((laneCaches s).foldl cleanCache s))

end Sys2Proof.Machine
end

