-- ==== Sys2Proof/Machine/Migration.lean ====
section
/-! DEFINITION. Migration between the forms: MIGR, the decision of the migration unit, the move, and the requests of MIGREQ
(R241, R397 to R406). -/

namespace Sys2Proof.Machine

open Sys2Proof

/-! ## Points (R241, R397) -/

/-- Who reads the kernel of a context: as plain loads under its TTB. -/
def ctxReader (x : Ctx) : Reader := { core := x.core, ttb := (getLane x 0).ttb, priv := false, task := x.task }

/-- The point record of the running kernel at an address of the context's form: the read may fail, and there may be
none. -/
def recordAt (s : State) (x : Ctx) (pc : DWord) : Option (Option PointRec) :=
  (pointRecs s (ctxReader x) x.kernel x.kernel.neq x.kernel.eqrec).map fun l =>
    l.find? fun p => (match ctxForm x with | .k => p.kpc | .w => p.wpc) == pc

/-! ## The decision (R401) -/

/-- The class of a context is L. -/
def isL (x : Ctx) : Bool := ctxForm x == .w

/-- A queue of a live lane holds an entry. -/
def queuesHeld (x : Ctx) : Bool := x.lanes.any fun a => a.live && a.queues.any fun q => q.2.fill + q.2.inflight != 0

/-- An engine or copy queue holds an entry of a context. -/
def entriesHeld (s : State) (c : Nat) : Bool :=
  let x := getCtx s c
  let t := getTruss s (trussOf x.core)
  let own (l : List QEnt) : Bool := l.any fun e => e.ctx == c
  own t.matrix || own t.gather || own t.copy || (setCores x.core (ctxWidth x)).any fun k => own (getCore s k).slice

/-- A journal holds an entry of a context. -/
def journalHeld (s : State) (c : Nat) : Bool :=
  (journalCores (getCtx s c)).any fun k => (getCore s k).journal.any fun e => e.ctx == c

/-- Reasons 7, 3, 4 and 8 of R401; 0 for none. -/
def ownDecline (s : State) (c : Nat) (toL : Bool) : Nat :=
  let x := getCtx s c
  let act := actLanes x
  if isStrand x || x.lanes.any (·.inHandler) then 7
  else if x.split || x.mate.isSome || maskOf act != maskOf (liveLanes x) || act.any (fun l => (getLane x l).annul != 0)
      || queuesHeld x then 3
  else if bindsAny s x || journalHeld s c || entriesHeld s c then 4
  else if kernelEntry x.kernel (if toL then .w else .k) = 0 then 8
  else 0

/-- A place that can take a course: its core, the context or the workspace offset, and whether the lease fits. -/
structure Spot where
  core : Nat
  at_  : Nat
  fits : Bool
  deriving DecidableEq, Repr

/-- The L-cores of a course's bay that have a free context. -/
def spotsL (s : State) (x : Ctx) : List Spot :=
  (List.range 8).filterMap fun n =>
    let k := (bayOf x.core * 16 + 8) * 64 + n
    (lFree s k).map fun c =>
      let used := ((boundOn s k).filter fun e => !isStrand e.2).foldl (fun m e => m + e.2.lease.lines) 0
      { core := k, at_ := c, fits := used + x.lease.lines ≤ 512 }

/-- The Trusses of a course's bay that can take it. -/
def spotsD (s : State) (x : Ctx) : List Spot :=
  (List.range 8).filterMap fun site =>
    let t := bayOf x.core * 16 + site
    (trussTakes s t x.lanes.length (kernelNeed x.kernel .k)).map fun p =>
      { core := p.1, at_ := p.2, fits := trussSum s t + x.lease.lines ≤ admitLimit s t }

/-- R401 without reasons 5 and 6: the first place where the lease fits, or the reason of the decline. -/
def decide_ (s : State) (c : Nat) (toL : Bool) : Except Nat Spot :=
  match ownDecline s c toL with
  | 0 =>
    let spots := if toL then spotsL s (getCtx s c) else spotsD s (getCtx s c)
    if spots.isEmpty then .error 1
    else
      match spots.find? (·.fits) with
      | some p => .ok p
      | none => .error 2
  | r => .error r

/-! ## The move (R402, R403) -/

/-- A word of a live value on its way: its lane, its place in the target form, and its value. -/
structure LiveWord where
  lane : Nat
  loc  : Nat
  k    : Nat
  val  : Nat
  deriving DecidableEq, Repr

/-- A location of a live entry is a stack slot (R399). -/
def isStack (loc : Nat) : Bool := loc.testBit 15

/-- The address of word k of a stack slot in a lane (R398). -/
def slotVa (a : Lane) (loc k : Nat) : DWord :=
  laneB a 7 + (laneReg a 31).setWidth 64 + BitVec.ofNat 64 (4 * (loc % 2 ^ 15) + 4 * k)

/-- A word of a stack slot as a plain load or store: none where a check fails. -/
def slotAcc (s : State) (c : Nat) (l : Nat) (op : MemOp) (va : DWord) : Option LaneAcc :=
  let s1 := { s with cur := { ctx := c, lanes := [l] } }
  let x := getCtx s c
  let core := laneCore x l
  match checkLane s1 l op va true with
  | .error _ => none
  | .ok p =>
    if !accPasses s (pkgOf core) x.task p.acc.pa 4 (opKind op) then none
    else if (homeFail s core op p.acc).isSome then none
    else some p.acc

/-- Reads one word of a live value (R402, step 3), and finds its place in the target form: none where a check fails. -/
def readWord (s : State) (c : Nat) (l src dst k : Nat) : Option (State × LiveWord) :=
  let x := getCtx s c
  let a := getLane x l
  let canWrite := !isStack dst || (slotAcc s c l (.store .w32) (slotVa a dst k)).isSome
  let out (z : State) (v : Nat) : Option (State × LiveWord) := if canWrite then some (z, { lane := l, loc := dst, k, val := v }) else none
  if isStack src then
    match slotAcc s c l (.load .w32) (slotVa a src k) with
    | none => none
    | some acc => let r := performLane s (laneCore x l) c (.load .w32) acc; out r.1 r.2
  else out s (laneReg a (src % 64 + k)).toNat

/-- Reads words in order; none where one fails. -/
def readWords (c : Nat) : List (Nat × Nat × Nat × Nat) → State → Option (State × List LiveWord)
  | [], s => some (s, [])
  | (l, src, dst, k) :: t, s =>
    match readWord s c l src dst k with
    | none => none
    | some (s1, w) => (readWords c t s1).map fun r => (r.1, w :: r.2)

/-- The live entries of a record as source, target and size (R399); none where a read fails. -/
def liveEntries (s : State) (r : Reader) (p : PointRec) (toL : Bool) : Option (List (Nat × Nat × Nat)) :=
  ((List.range p.nlive).mapM fun j => readAs r s (p.addr + BitVec.ofNat 64 (32 + 8 * j)) 8).map fun l =>
    l.map fun e => if toL then (at_ e 0 2, at_ e 2 2, at_ e 4 1) else (at_ e 2 2, at_ e 0 2, at_ e 4 1)

/-- The rejoin pairs of a record as addresses, source first; none where a read fails. -/
def rejoinPairs (s : State) (r : Reader) (k : Kernel) (p : PointRec) (toL : Bool) : Option (List (DWord × DWord)) :=
  ((List.range p.nrj).mapM fun j => readAs r s (p.addr + BitVec.ofNat 64 (32 + 8 * p.nlive + 16 * j)) 16).map fun l =>
    l.map fun e =>
      let kp := k.kbase + BitVec.ofNat 64 (at_ e 0 8)
      let wp := k.wbase + BitVec.ofNat 64 (at_ e 8 8)
      if toL then (kp, wp) else (wp, kp)

/-- A rejoin address in the other form. -/
def rejoinTo (ps : List (DWord × DWord)) (v : DWord) : DWord := ((ps.find? fun p => p.1 == v).map (·.2)).getD v

/-- STATUS in the target form: FORM, and HDC 0. -/
def statusTo (toL : Bool) (st : DWord) : DWord :=
  let st := stSetHdc st 0
  if toL then st ||| 0x100 else st &&& ~~~(0x100 : DWord)

/-- Places a word in its lane of the moved course: a register, or a plain store to its stack slot. -/
def placeWord (c : Nat) (old : Ctx) (s : State) (w : LiveWord) : State :=
  if isStack w.loc then
    match slotAcc s c w.lane (.store .w32) (slotVa (getLane old w.lane) w.loc w.k) with
    | some acc => (performLane s (coresOf s c w.lane) c (.store .w32) { acc with data := BitVec.ofNat 128 w.val }).1
    | none => s
  else modCtx s c fun x => modLane x w.lane (setLaneReg (w.loc % 64 + w.k) (BitVec.ofNat 32 w.val))

/-- The relaxed stores of a context that are on their way are performed on its old side (log 44). -/
def performOwn (s : State) (c : Nat) : State :=
  let own (e : Ev) : Bool := match e with | .relaxedStorePerform p => p.ctx == c | _ => false
  (s.flight.filter own).foldl takeFlight { s with flight := s.flight.filter fun e => !own e }

/-- A course in its new place, with every register 0 (R402, steps 2, 5 and 7). -/
def movedCtx (s : State) (x : Ctx) (toL : Bool) (p : Spot) (rec_ : PointRec) (rjs : List (DWord × DWord)) : Ctx :=
  let f : Form := if toL then .w else .k
  let need := kernelNeed x.kernel f
  let pc := if toL then rec_.wpc else rec_.kpc
  let other := if toL then rec_.kpc else rec_.wpc
  let lane (a : Lane) : Lane :=
    { a with regs := [], queues := [], actv := a.live, pc, status := statusTo toL a.status, wait := .none, annul := 0,
             depth := 0, hold := 0, point := rec_.num, pointOther := other, noeq := false, icnt := 0,
             teq := BitVec.ofNat 64 rec_.num }
  let y : Ctx := { x with
    kind := if toL then .gable else .course, core := p.core, slot := if toL then some p.at_ else none,
    lanes := x.lanes.map lane, need, wsptr := BitVec.ofNat 32 p.at_, wsize := if toL then 0 else wsBytes need,
    num := if toL then 4 * (p.core % 64) + p.at_ else (freeNum s (trussOf p.core)).getD 0,
    marks := x.marks.map fun m => { m with rj := pcBits f (rejoinTo rjs m.rj), dmask := 0, dpc := 0 },
    left := none, rebound := [], last := none, due := false, claim := none, skip := 0, displace := 0, leaving := 0, single := 0, migReq := none, score := [],
    tickets := 0, readyAt := trussCycle s (trussOf p.core), lease := { x.lease with filter := [], h := 0 } }
  { y with points := readPoints s (ctxReader y) y.kernel }

/-- Tables A and B of a context, as its migration takes them from the format context of the slot that it holds or held last:
a foreign one gives tables that are not loaded (R402, step 6). -/
def tablesOf (s : State) (x : Ctx) : FmtTable × FmtTable :=
  match x.tables, (x.slot <|> x.last) with
  | some t, _ => t
  | none, none => ({}, {})
  | none, some k =>
    let f := tget {} (getCore s x.core).fmts k
    if f.owner = fmtOwner x then (f.a, f.b) else ({}, {})

/-- The tables reach the L-core context, or wait for the course's next slot. -/
def placeTables (s : State) (c : Nat) (toL : Bool) (p : Spot) (t : FmtTable × FmtTable) : State :=
  if toL then
    let s1 := modCore s p.core fun k =>
      { k with fmts := tset {} k.fmts p.at_ { a := t.1, b := t.2, owner := fmtOwner (getCtx s c) } }
    modCtx s1 c fun x => { x with tables := none }
  else modCtx s c fun x => { x with tables := some t }

/-- A migration that MIGR started goes on after the MIGR of the target form, with 1 in its x: where that cannot be read,
one word and the x of the source (log 45). -/
def afterMigr (s : State) (c xr : Nat) : State :=
  let x := getCtx s c
  let pc := (getLane x 0).pc
  let go (z : State) (r : Nat) (next : DWord) : State :=
    modCtx z c fun y => modAllLanes y fun a => if a.live then { setLaneReg r 1 a with pc := next } else { a with pc := next }
  match peekInstr s c 0 with
  | some (.migrL o, next) | some (.migrD o, next) | some (.migrAny o, next) => go s o.x.toNat next
  | _ => go s xr (canonPc (pc + 4))

/-- The move of an honoured migration: none where a read fails (reason 6). -/
def migMove (s : State) (c : Nat) (toL : Bool) (p : Spot) (tabs : FmtTable × FmtTable) (k xr : Nat) : Option State :=
  let x := getCtx s c
  match recordAt s x (getLane x 0).pc with
  | some (some rec_) =>
    match liveEntries s (ctxReader x) rec_ toL, rejoinPairs s (ctxReader x) x.kernel rec_ toL with
    | some es, some rjs =>
      let words := (liveLanes x).flatMap fun l =>
        es.flatMap fun e => (List.range e.2.2).map fun j => (l, e.1, e.2.1, j)
      match readWords c words (performOwn s c) with
      | none => none
      | some (s1, ws) =>
        let s2 := setCtx (dropTables s1 x) c (movedCtx s1 x toL p rec_ rjs)
        let s3 := ws.foldl (placeWord c x) s2
        let s4 := placeTables s3 c toL p tabs
        let s5 := if k < 2 then afterMigr s4 c xr
                  else modCtx s4 c fun y => { y with migHere := some (getLane y 0).pc }
        let s6 := if x.kind == .course then pushDue s5 [.courseActivation (trussOf x.core)] else s5
        let s7 := residencyChanged s6 x.core
        some (if toL then s7 else pushDue s7 [.courseActivation (trussOf p.core)])
    | _, _ => none
  | _ => none

/-! ## Deciding (R400, R401, R404, R405) -/

/-- The migration that a course waits for: its kind, x and the address after its MIGR. -/
def migrOf (x : Ctx) : Option (Nat × Nat × DWord) :=
  (actLanes x).findSome? fun l => match (getLane x l).wait with
    | .migr k r next => some (k, r, next)
    | _ => none

/-- A declined MIGR completes with twice the reason in its x (R400), an issue of its course (R298, R397); another migration
leaves its course in place. -/
def declined (s : State) (c : Nat) (m : Nat × Nat × DWord) (reason : Nat) : State :=
  let x := getCtx s c
  if 2 ≤ m.1 then
    modCtx s c fun y =>
      modAllLanes { y with migReq := none, migTried := true } fun a => match a.wait with
        | .migr _ _ _ => { a with wait := .none }
        | _ => a
  else
    let done (a : Lane) : Lane :=
      stepAnnul (if a.annul = 0 then setLaneReg m.2.1 (BitVec.ofNat 32 (2 * reason)) a else a)
    countHdc { s with cur := { ctx := c, lanes := actLanes x } } <| modCtx s c fun y =>
      modAllLanes (modLanes y (actLanes y) fun _ => done) fun a =>
        { issuedAt x a.pc a.inHandler a with pc := m.2.2, wait := .none }

/-- MIGCTL of a course's bay. -/
def migctl (s : State) (x : Ctx) : DWord := bayReg s (bayOf x.core) 0x1E0
/-- SITE of a course. -/
def siteOf (x : Ctx) : Nat := trussOf x.core % 16

/-- The message that asks the host for a decision (R405). -/
def askHost (s : State) (c : Nat) (toL : Bool) : State :=
  let x := getCtx s c
  let k := if isL x then x.core else trussOf x.core * 64
  let pc := (getLane x 0).pc
  let num := match pointAt x pc with
    | some p => p.2
    | none => ((recordAt s x pc).join.map (·.num)).getD 0
  let s1 := postNote s k k 3
    (leBytes 2 x.num ++ leBytes 1 (siteOf x) ++ leBytes 1 (if toL then 0 else 1) ++ leBytes 2 num)
  modBay s1 (bayOf x.core) fun b =>
    { b with pend := b.pend ++ [{ ctx := c, target := if toL then 0 else 1, host := true }] }

/-- The state in which the unit decides: the course is deactivated (R390, R400). -/
def offSlot (s : State) (c : Nat) : State :=
  modCtx s c fun x => if x.kind == .course then { x with lease := leaseEnd x.lease, slot := none, last := x.slot <|> x.last } else x

/-- A decline: a course that held its slot gives it up where a MIGR asked, and stays in it where none did; one that waited
for the host is ready again. -/
def migStay (s : State) (c : Nat) (m : Nat × Nat × DWord) (fresh : Bool) (reason : Nat) : State :=
  let s1 := declined s c m reason
  if !fresh then becomeReady s1 c
  else if m.1 < 2 then leaveSlot s1 c 1
  else if (getCtx s c).slot.isNone then becomeReady s1 c
  else s1

/-- An honoured migration: the summary record carries END 4 (R402, step 8); that of a course which waited for the host is
one of an empty interval (log 67). -/
def migGo (s : State) (c : Nat) (m : Nat × Nat × DWord) (fresh : Bool) (p : Spot) : State :=
  let x := getCtx s c
  let s1 := if fresh then offSlot (dropSelection (summary s c 4) x) c else writeSummary s c 4 [0, x.lease.lines, 0, 0, 0]
  (migMove s1 c (m.1 % 2 == 0) p (tablesOf s x) m.1 m.2.1).getD (migStay s c m fresh 6)

/-- MIGRATION (R401, R405): with DHA the host decides what the unit would honour, and the course is not ready until it
does. -/
def execMigration (s : State) : Out :=
  match s.ev with
  | some (.migration c) =>
    let x := getCtx s c
    match migrOf x with
    | none => .next s
    | some m =>
      let toL := m.1 % 2 == 0
      match decide_ (offSlot s c) c toL with
      | .error r => .next (migStay s c m true r)
      | .ok p =>
        if (migctl s x).getLsbD 30 then .next (leaveSlot (askHost s c toL) c 1)
        else .next (migGo s c m true p)
  | _ => .fault .noEvent

/-- A pending decision names a context. -/
def migPending (s : State) (c : Nat) : Bool := (getBay s (bayOf (getCtx s c).core)).pend.any fun p => p.ctx == c

/-- MIGRATION is due: the course's queues have drained and its loads have returned; a pre-emption comes first. -/
def migrDue (s : State) (c : Nat) (x : Ctx) : Bool :=
  x.alive && (migrOf x).isSome && x.leaving == 0 && !x.held && !x.preempt && !queuesBusy x && x.score.isEmpty
    && !migPending s c

/-! ## MIGR (R400, R406) -/

/-- MIGR in its three forms: `toL` is the target class. -/
def runMigr (i : Instr) (s : State) (toL : Bool) : Out :=
  let x := curCtx s
  let done (v : Nat) : State := complete i (modExec s fun _ a => putX i (BitVec.ofNat 64 v) a)
  match recordAt s x (curPc s) with
  | none => trapExec i s 23 2
  | some none => trapExec i s 23 1
  | some (some _) =>
    if isStrand x then .next (done 14)
    else if s.cur.lanes.any fun l => (getLane x l).inHandler then .next (deactivate (done 14) s.cur.ctx 1)
    else if isL x = toL || x.migHere == some (curPc s) then .next (deactivate (done 1) s.cur.ctx 1)
    else if x.split then .next (done 6)
    else .next (waitAt s (.migr (if toL then 0 else 1) i.opnds.x.toNat (nextPc i s)))

/-- MIGR.l (R400). -/
def execMigrL (o : Opnds) (s : State) : Out := runMigr (.migrL o) s true

/-- MIGR.d (R400). -/
def execMigrD (o : Opnds) (s : State) : Out := runMigr (.migrD o) s false

/-- MIGR.any (R400). -/
def execMigrAny (o : Opnds) (s : State) : Out := runMigr (.migrAny o) s (!isL (curCtx s))

/-! ## Migrations that no MIGR starts (R404) -/

/-- The single-lane trigger, or the tail trigger. -/
def migTrigger (s : State) (c : Nat) (x : Ctx) : Bool :=
  let v := migctl s x
  let bundle := (bundleOf s c).map (getCtx s)
  let late := bundle.filter fun y => !arrivedAt y
  x.kind == .course && v.getLsbD 29 && !v.getLsbD 31
    && ((fld v 16 8 != 0 && bundle.any arrivedAt && decide (late.length ≤ fld v 16 8))
        || (fld v 12 4 != 0 && decide (2 ^ fld v 12 4 ≤ x.single)))

/-- The migration that starts at the boundary of a course that stands at a point: to L or to D. -/
def migStart (s : State) (c : Nat) (x : Ctx) : Option Bool :=
  if isStrand x || x.split || x.migTried || (pointAt x (getLane x ((actLanes x).headD 0)).pc).isNone then none
  else
    match x.migReq with
    | some t => if t = 2 ∨ (if t = 0 then !isL x else isL x) = true then some (!isL x) else none
    | none => if migTrigger s c x then some true else none

/-- The course that MIGREQ names in a bay. -/
def migNamed (s : State) (bay : Nat) (v : DWord) : Option Nat :=
  if 8 < fld v 12 4 then none else courseNum s (bay * 16 + fld v 12 4) (fld v 16 10)

/-- MIGREQ_GO (R404). -/
def execMigreqGo (s : State) : Out :=
  match s.ev with
  | some (.migreqGo bay v) =>
    match migNamed s bay v with
    | some c => .next (if fld v 0 2 = 3 then s else modCtx s c fun x => { x with migReq := some (fld v 0 2) })
    | none => .next s
  | _ => .fault .noEvent

/-- MIGREQ_ANS (R405). -/
def execMigreqAns (s : State) : Out :=
  match s.ev with
  | some (.migreqAns bay v) =>
    match migNamed s bay v with
    | none => .next s
    | some c =>
      match migrOf (getCtx s c) with
      | some m =>
        if !migPending s c then .next s
        else
          let s1 := modBay s bay fun b => { b with pend := b.pend.filter fun p => p.ctx != c }
          .next (match decide_ s1 c (m.1 % 2 == 0) with
            | .error r => migStay s1 c m false (if v.getLsbD 29 then r else 5)
            | .ok p => if v.getLsbD 29 then migGo s1 c m false p else migStay s1 c m false 5)
      | none => .next s
  | _ => .fault .noEvent

end Sys2Proof.Machine
end

