-- ==== Sys2Proof/Machine/Workspace.lean ====
section
/-! DEFINITION. Workspaces as bytes: where the register area and the control area hold each field of a context, and what an
edit of those bytes changes when the device next loads them (R18, R19, R279, R286). -/

namespace Sys2Proof.Machine

open Sys2Proof

/-- A field of a workspace (R19, R286). -/
inductive WsField where
  | queueData (q e : Nat)
  | queueDesc (q : Nat)
  | breg (n : Nat)
  | pc | status | slim | task | ttb | lnid | lndim | leasev | waitWord | t0 | timeout | cont | epc | estatus | tcause | tpc
  | teq | txpc | taddr | tmask | refpend
  | tscr (n : Nat)
  | wskip | point | replay | lstate | cstate | srj
  | markRj (e : Nat)
  | markMask (e : Nat)
  | markDmask (e : Nat)
  | markDpc (e : Nat)
  | reg (k : Nat)
  deriving DecidableEq, Repr

/-- A field in its place: the lane whose copy it is, its byte offset and its size. -/
structure WsPlace where
  field : WsField
  lane  : Nat
  off   : Nat
  len   : Nat
  deriving DecidableEq, Repr

/-- The register area in the model's numbering of a workspace's bytes, which begins with the control area (log 58). -/
def regArea : Nat := 0x800

/-- Bytes 0x0A0 to 0x1BF of a control area, but for STATUS and ESTATUS (R19). -/
def midPlaces (l : Nat) : List WsPlace :=
  (List.range 8).map (fun n => { field := .breg n, lane := l, off := 0x0A0 + 8 * n, len := 8 : WsPlace })
    ++ ([(.pc, 0x0E0, 8), (.slim, 0x0F0, 4), (.task, 0x0F4, 4), (.ttb, 0x0F8, 8), (.lnid, 0x100, 8), (.lndim, 0x108, 8),
        (.leasev, 0x110, 4), (.waitWord, 0x114, 4), (.t0, 0x118, 8), (.timeout, 0x120, 4), (.cont, 0x128, 8), (.epc, 0x130, 8),
        (.tcause, 0x140, 8), (.tpc, 0x148, 8), (.teq, 0x150, 8), (.txpc, 0x158, 8), (.taddr, 0x160, 8), (.tmask, 0x168, 4),
        (.refpend, 0x16C, 4), (.tscr 0, 0x170, 8), (.tscr 1, 0x178, 8), (.wskip, 0x180, 8), (.point, 0x188, 8),
        (.replay, 0x190, 4)] : List (WsField × Nat × Nat)).map fun e => { field := e.1, lane := l, off := e.2.1, len := e.2.2 }

/-- A mark-stack entry in its 24 bytes (R286). -/
def markPlaces (l off e : Nat) : List WsPlace :=
  [{ field := .markRj e, lane := l, off, len := 8 }, { field := .markMask e, lane := l, off := off + 8, len := 4 },
    { field := .markDmask e, lane := l, off := off + 12, len := 4 }, { field := .markDpc e, lane := l, off := off + 16, len := 8 }]

/-- The copy of the control area in the workspace of a lane on a D-core or an Eave core. -/
def dPlaces (x : Ctx) (l : Nat) : List WsPlace :=
  ((List.range 4).flatMap fun q =>
      (List.range 8).map fun e => { field := .queueData q e, lane := l, off := 0x20 * q + 4 * e, len := 4 : WsPlace })
    ++ (List.range 4).map (fun q => { field := .queueDesc q, lane := l, off := 0x080 + 8 * q, len := 8 : WsPlace })
    ++ midPlaces l
    ++ [{ field := .status, lane := l, off := 0x0E8, len := 8 }, { field := .estatus, lane := l, off := 0x138, len := 8 },
        { field := .lstate, lane := l, off := 0x1C0, len := 4 }]
    ++ (if isStrand x then []
        else [{ field := .cstate, lane := l, off := 0x1C4, len := 4 }, { field := .srj, lane := l, off := 0x1C8, len := 8 }]
          ++ (if l < 8 then markPlaces l 0x1D0 l ++ markPlaces l 0x1E8 (l + 8) else []))

/-- The control store of an L-core context. -/
def lPlaces (x : Ctx) : List WsPlace :=
  let ls := allLanes x
  midPlaces 0
    ++ ls.flatMap (fun l => [{ field := .status, lane := l, off := 0x200 + 16 * l, len := 8 },
        { field := .estatus, lane := l, off := 0x208 + 16 * l, len := 8 },
        { field := .lstate, lane := l, off := 0x480 + 4 * l, len := 4 }])
    ++ [{ field := .cstate, lane := 0, off := 0x404, len := 4 }, { field := .srj, lane := 0, off := 0x408, len := 8 }]
    ++ (List.range 16).flatMap fun e => markPlaces 0 (0x500 + 32 * e) e

/-- The fields of the workspace bytes of a lane: gk lies at byte 4k of its register area. The control store of an L-core
context is that of its lane 0. -/
def wsPlaces (x : Ctx) (l : Nat) : List WsPlace :=
  (match coreKind x.core with
    | .lcore => if l = 0 then lPlaces x else []
    | _ => dPlaces x l)
    ++ (List.range x.need).map fun k => { field := .reg k, lane := l, off := regArea + 4 * k, len := 4 }

/-- Bits of a number. -/
def bitsOf (v lo n : Nat) : Nat := v / 2 ^ lo % 2 ^ n

/-- Mark-stack entry e, counted from the bottom; the stack has its top first (R290). -/
def markAt (x : Ctx) (e : Nat) : Option Mark := x.marks.reverse[e]?

/-- WKIND of a lane (R286): 2 for one that waits in CLASP, in a strand of no course too where it is asked of the wait (log 143). -/
def wkind (a : Lane) : Nat := match a.wait with | .rejoin => 1 | .clasp _ _ => 2 | .bar | .arrived _ => 3 | _ => 0

/-- The value that a field holds. A strand of no course shows LSTATE 0 whatever it waits in (R19, log 143), and the keeper of an
L-core the width code of a strand of width 1 in its CSTATE (log 135). -/
def wsGet (x : Ctx) (l : Nat) (f : WsField) : Nat :=
  let a := getLane x l
  let bit (b : Bool) (n : Nat) : Nat := if b then 2 ^ n else 0
  match f with
  | .queueData q e => (tget {} (laneQ a q).ents e).data.toNat
  | .queueDesc q =>
    let w := laneQ a q
    w.cons + w.prod * 2 ^ 3 + w.fill * 2 ^ 6 + w.inflight * 2 ^ 10
      + (List.range 8).foldl (fun n e =>
          let t := tget {} w.ents e
          n + bit (t.cause != 0) (14 + e) + t.cause.toNat * 2 ^ (22 + 2 * e) + bit t.skip (38 + e)) 0
  | .breg n => (laneB a n).toNat
  | .pc => a.pc.toNat
  | .status => a.status.toNat
  | .slim => a.slim.toNat
  | .task => x.task.toNat
  | .ttb => a.ttb.toNat
  | .lnid => a.lnid.toNat
  | .lndim => a.lndim.toNat
  | .leasev => if isStrand x then 0 else x.lease.lines % 2 ^ 20 + bit x.lease.decl 31
  | .waitWord =>
    bit a.pendWake 0 + bit a.inHandler 1 + (match a.wait with | .sleep _ _ => 4 | _ => 0) + bit a.wskip.isSome 3 + bit a.stopped 4
  | .t0 => match a.wait with | .sleep t _ => t | _ => 0
  | .timeout => match a.wait with | .sleep _ t => t | _ => 0
  | .cont => match a.wait with | .yldCc _ _ c _ => c.toNat | _ => 0
  | .epc => a.epc.toNat
  | .estatus => a.estatus.toNat
  | .tcause => a.tcause.toNat
  | .tpc => a.tpc.toNat
  | .teq => a.teq.toNat
  | .txpc => a.txpc.toNat
  | .taddr => a.taddr.toNat
  | .tmask => a.tmask.toNat
  | .refpend => ((a.refpend.map (·.idx)).dedup).foldl (fun n i => n + 2 ^ i) 0
  | .tscr n => if n = 0 then a.tscr0.toNat else a.tscr1.toNat
  | .wskip => (a.wskip.getD 0).toNat
  | .point => a.point % 4096 + bit a.noeq 12 + a.icnt % 2 ^ 32 * 2 ^ 32
  | .replay => a.replay
  | .lstate =>
    (if a.inHandler then a.annulSaved else a.annul) + (if isStrand x then 0
      else bit a.live 2 + bit a.actv 3 + wkind a * 16 + a.depth * 256)
  | .cstate =>
    x.marks.length + bit x.split 5 + bit x.rjv 6 + x.rd * 128 + x.cause * 256
      + (match x.lanes.length with | 8 => 0 | 16 => 1 | _ => if x.mate.isSome then 3 else 2) * 4096 + bit x.half 14
  | .srj => x.srj.toNat
  | .markRj e => ((markAt x e).map (·.rj.toNat)).getD 0
  | .markMask e => ((markAt x e).map (·.mask.toNat)).getD 0
  | .markDmask e => ((markAt x e).map (·.dmask.toNat)).getD 0
  | .markDpc e => ((markAt x e).map (·.dpc.toNat)).getD 0
  | .reg k => (laneReg a k).toNat

/-- A queue as a descriptor describes it. -/
def queueSet (w : Queue) (v : Nat) : Queue :=
  let cons := bitsOf v 0 3
  let fill := bitsOf v 6 4
  { w with cons, prod := bitsOf v 3 3, fill, inflight := bitsOf v 10 4,
           ents := (List.range 8).foldl (fun t e =>
             tset {} t e { tget {} t e with
               cause := if v.testBit (14 + e) then BitVec.ofNat 2 (bitsOf v (22 + 2 * e) 2) else 0, skip := v.testBit (38 + e),
               filled := decide ((e + 8 - cons) % 8 < fill) }) w.ents }

/-- The wait that WKIND names: a CLASP issues again and waits there (R286, R296). -/
def waitSet (a : Lane) (k : Nat) : Wait :=
  if k = wkind a then a.wait
  else match k with
    | 1 => .rejoin
    | 3 => .bar
    | _ => .none

/-- An address as a lane keeps it for its pc (R10, R13). -/
def lanePc (a : Lane) (v : Nat) : DWord := pcBits (if a.status.getLsbD 8 then .w else .k) (BitVec.ofNat 64 v)

/-- A lane with a field changed; reserved bits read 0, and FORM of STATUS stays (R7, R13). -/
def laneSet (strand : Bool) (f : WsField) (v : Nat) (a : Lane) : Lane :=
  match f with
  | .queueData q e =>
    let w := laneQ a q
    setLaneQ q { w with ents := tset {} w.ents e { tget {} w.ents e with data := BitVec.ofNat 32 v } } a
  | .queueDesc q => setLaneQ q (queueSet (laneQ a q) v) a
  | .breg n => setLaneB n (BitVec.ofNat 64 v) a
  | .pc => { a with pc := lanePc a v }
  | .status => { a with status := statusBack strand a.status (BitVec.ofNat 64 v) }
  | .slim => { a with slim := BitVec.ofNat 32 v }
  | .ttb => { a with ttb := BitVec.ofNat 64 v &&& 0xFFFFFFFFFFFFF000 }
  | .lnid => { a with lnid := BitVec.ofNat 64 v }
  | .lndim => { a with lndim := BitVec.ofNat 64 v }
  | .waitWord =>
    { a with pendWake := v.testBit 0, inHandler := v.testBit 1, stopped := v.testBit 4,
             wskip := if v.testBit 3 then some (a.wskip.getD 0) else none,
             wait := match a.wait, v.testBit 2 with
               | .sleep _ _, false => .none
               | .sleep t n, true => .sleep t n
               | _, true => .sleep 0 0
               | w, false => w }
  | .t0 => match a.wait with | .sleep _ n => { a with wait := .sleep v n } | _ => a
  | .timeout => match a.wait with | .sleep t _ => { a with wait := .sleep t v } | _ => a
  | .cont => match a.wait with | .yldCc n t _ p => { a with wait := .yldCc n t (lanePc a v) p } | _ => a
  | .epc => { a with epc := BitVec.ofNat 64 v }
  | .estatus => { a with estatus := BitVec.ofNat 64 v &&& statusFields }
  | .tcause => { a with tcause := BitVec.ofNat 64 v &&& 0xFFFFFFFF0007FFFF }
  | .tpc => { a with tpc := BitVec.ofNat 64 v }
  | .teq => { a with teq := BitVec.ofNat 64 v &&& 0xFFFFFFFF00000FFF }
  | .txpc => { a with txpc := BitVec.ofNat 64 v }
  | .taddr => { a with taddr := BitVec.ofNat 64 v }
  | .tmask => { a with tmask := BitVec.ofNat 32 v }
  | .refpend => { a with refpend := a.refpend.filter fun r => v.testBit r.idx }
  | .tscr n => if n = 0 then { a with tscr0 := BitVec.ofNat 64 v } else { a with tscr1 := BitVec.ofNat 64 v }
  | .wskip => { a with wskip := a.wskip.map fun _ => BitVec.ofNat 64 v }
  | .point => { a with point := bitsOf v 0 12, noeq := v.testBit 12, icnt := bitsOf v 32 32 }
  | .replay => { a with replay := v }
  | .lstate =>
    let b := if a.inHandler then { a with annulSaved := bitsOf v 0 2 } else { a with annul := bitsOf v 0 2 }
    if strand then b
    else { b with live := v.testBit 2, actv := v.testBit 3, depth := bitsOf v 8 8, wait := waitSet a (bitsOf v 4 2) }
  | .reg k => setLaneReg k (BitVec.ofNat 32 v) a
  | .task | .leasev | .cstate | .srj | .markRj _ | .markMask _ | .markDmask _ | .markDpc _ => a

/-- A mark stack of a depth: entries that it did not hold are empty. -/
def marksSet (ms : List Mark) (d : Nat) : List Mark :=
  let r := ms.reverse.take d
  (r ++ List.replicate (d - r.length) ({ rj := 0, mask := 0 } : Mark)).reverse

/-- A mark-stack entry, counted from the bottom, changes. -/
def markSet (x : Ctx) (e : Nat) (f : Mark → Mark) : Ctx := { x with marks := (setAt x.marks.reverse e f).reverse }

/-- A field takes a value. On an L-core a field that is held once is that of every lane. -/
def wsSet (x : Ctx) (p : WsPlace) (v : Nat) : Ctx :=
  match p.field with
  | .task => { x with task := BitVec.ofNat 24 v }
  | .leasev => { x with lease := { x.lease with lines := bitsOf v 0 20, decl := v.testBit 31 } }
  | .cstate =>
    { x with marks := marksSet x.marks (bitsOf v 0 5), split := v.testBit 5, rjv := v.testBit 6, rd := bitsOf v 7 1,
             cause := bitsOf v 8 3 }
  | .srj => { x with srj := pcBits (ctxForm x) (BitVec.ofNat 64 v) }
  | .markRj e => markSet x e fun m => { m with rj := pcBits (ctxForm x) (BitVec.ofNat 64 v) }
  | .markMask e => markSet x e fun m => { m with mask := BitVec.ofNat 32 v }
  | .markDmask e => markSet x e fun m => { m with dmask := BitVec.ofNat 32 v }
  | .markDpc e => markSet x e fun m => { m with dpc := pcBits (ctxForm x) (BitVec.ofNat 64 v) }
  | .status => modLane x p.lane (laneSet (x.split || isStrand x) p.field v)
  | .estatus | .lstate | .reg _ => modLane x p.lane (laneSet (isStrand x) p.field v)
  | f =>
    match x.kind with
    | .gable => modAllLanes x (laneSet false f v)
    | _ => modLane x p.lane (laneSet (isStrand x) f v)

/-- The byte at an offset of a lane's workspace, as the device last left it; reserved bytes are 0. -/
def wsByte (x : Ctx) (l off : Nat) : Byte :=
  match (wsPlaces x l).find? fun p => p.off ≤ off && off < p.off + p.len with
  | some p => BitVec.ofNat 8 (wsGet x p.lane p.field / 256 ^ (off - p.off))
  | none => 0

/-- The byte that the keeper reads there: its own latest edit, where it has made one. -/
def wsSeen (x : Ctx) (l off : Nat) : Byte :=
  match x.edits.reverse.find? fun e => e.1 == l && e.2.1 == off with
  | some e => e.2.2
  | none => wsByte x l off

/-- The context after the device has loaded its latches from a workspace that the keeper has edited: each field with an
edited byte takes the value that its bytes hold (R279, R286). -/
def applyEdits (x : Ctx) : Ctx :=
  if x.edits.isEmpty then x
  else
    let touched (p : WsPlace) (l : Nat) : Bool := x.edits.any fun e => e.1 == l && p.off ≤ e.2.1 && e.2.1 < p.off + p.len
    let load (y : Ctx) (l : Nat) : Ctx :=
      (wsPlaces x l).foldl (fun z p =>
        if touched p l then wsSet z p (leNat ((List.range p.len).map fun k => wsSeen x l (p.off + k))) else z) y
    { (allLanes x).foldl load x with edits := [] }

end Sys2Proof.Machine
end

