-- ==== Sys2Proof/Machine/Preempt.lean ====
section
/-! DEFINITION. Interrupts, pre-emption and resume, kills and their notices, debug requests and stops, and the answers to
parked faults (R248 to R259, R275 to R280, R376, R434). -/

namespace Sys2Proof.Machine

open Sys2Proof

/-! ## Interrupts (R248, R249) -/

/-- The timer compares: TCMP is not 0 and CYC has just reached it; a TCMP written at or below CYC sets nothing (R248, log 140). -/
def timerDue (s : State) (core : Nat) : Bool :=
  let t := (coreReg s core 0x143).toNat
  t != 0 && cycOf s core == t

/-- TIMER_COMPARE (R248). -/
def execTimerCompare (s : State) : Out :=
  match s.ev with
  | some (.timerCompare core) => .next (raiseIpend s core 0)
  | _ => .fault .noEvent

/-- MANAGEMENT_PROCESSOR_REQUEST (R248). -/
def execManagementProcessorRequest (s : State) : Out :=
  match s.ev with
  | some (.managementProcessorRequest core) => .next (raiseIpend s core 1)
  | _ => .fault .noEvent

/-- A keeper's wait that an interrupt finds it in or ends: none, an instruction that has not issued, SLEEP, MWAIT, REAP
with FN 1 or SPIN. -/
def interruptible (a : Lane) : Bool :=
  match a.wait with
  | .none | .retry | .sleep _ _ | .mwait _ _ _ | .reap | .spin _ => true
  | _ => false

/-- The keeper of a core takes an interrupt at its boundary, after the rotations that its last instruction holds (R183). -/
def interruptDue (s : State) (core : Nat) : Bool :=
  fld (coreReg s core 0x141 &&& coreReg s core 0x142) 0 4 != 0
    && match boundAt s core 0 with
      | some c =>
        let a := getLane (getCtx s c) 0
        isKeeper (getCtx s c) && !a.inHandler && !a.stopped && a.hold == 0 && interruptible a && (getCtx s c).leaving == 0
      | none => false

/-- INTERRUPT_ENTRY (R249): a wait is abandoned, and its instruction runs again after ERET. -/
def execInterruptEntry (s : State) : Out :=
  match s.ev with
  | some (.interruptEntry core) =>
    match boundAt s core 0 with
    | some c =>
      let a := getLane (getCtx s c) 0
      .next (enterTrap s c [0] { vector := 28, async := true, mask := 1 } a.pc a.pc)
    | none => .next s
  | _ => .fault .noEvent

/-! ## Pre-emption (R250) -/

/-- The context that a PRECTL or DBGCTL request of a core names: a course only from core 0 of its Truss, or from its own
L-core. -/
def namedCtx (s : State) (core : Nat) (v : DWord) : Option Nat :=
  let found :=
    if v.getLsbD 26 || v.getLsbD 27 then courseNum s (trussOf core) (fld v 16 10)
    else if fld v 0 4 = 0 then none else boundAt s core (fld v 0 4)
  found.filter fun c =>
    let x := getCtx s c
    match x.kind with
    | .course => core % 64 == 0
    | .gable => x.core == core
    | .strand => true

/-- The context that PRECTL names: CRS is its bit 26. -/
def preTarget (s : State) (core : Nat) (v : DWord) : Option Nat := namedCtx s core (setFld v 27 1 0)
/-- The context that DBGCTL names: CRS is its bit 27. -/
def dbgTarget (s : State) (core : Nat) (v : DWord) : Option Nat := namedCtx s core (setFld v 26 1 0)

/-- A context that a request finds inactive is held at once; one in a slot, at its next boundary. A course that waits in SPIN out
of its slot goes on waiting when it is released (R207, log 137). -/
def askPreempt (s : State) (c : Nat) : State :=
  let x := getCtx s c
  if x.slot.isSome && !x.held then setCtx s c { x with preempt := true }
  else deferEntries (setCtx s c { x with held := true }) c true

/-- PRECTL_GO (R250). -/
def execPrectlGo (s : State) : Out :=
  match s.ev with
  | some (.prectlGo core v) =>
    let s1 := setCoreReg s core 0x144 (setFld (setFld (coreReg s core 0x144) 31 1 1) 29 1 0)
    match preTarget s core v with
    | none => .next (preDone s1 core true)
    | some c =>
      let s2 := (halves s1 c).foldl askPreempt s1
      .next (if (halves s2 c).any fun d => (getCtx s2 d).preempt then s2 else preDone s2 core false)
  | _ => .fault .noEvent

/-- A sleeper with a pending wake goes on (R204). -/
def wakeSleepers (s : State) (c : Nat) : State :=
  modCtx s c fun x => modAllLanes x fun a =>
    if sleeps a && a.pendWake then { a with wait := .woken 0, pendWake := false } else a

/-- A held course may be activated again; a wake that came in the meantime has ended its sleep (R204). -/
def releaseHeld1 (s : State) (c : Nat) : State :=
  let x := getCtx s c
  if !x.held then s
  else
    let s1 := setCtx s c { x with held := false }
    match x.kind with
    | .course => becomeReady (wakeSleepers s1 c) c
    | _ => pushDue s1 [.contextResume c]

/-- PRECTL_REL (R250). -/
def execPrectlRel (s : State) : Out :=
  match s.ev with
  | some (.prectlRel core v) =>
    match preTarget s core v with
    | some c => if isStrand (getCtx s c) then .next s else .next ((halves s c).foldl releaseHeld1 s)
    | none => .next s
  | _ => .fault .noEvent

/-- A lane stands where a pre-emption can take its context. -/
def atBoundary (a : Lane) : Bool :=
  match a.wait with
  | .access | .granted _ => false
  | _ => true

/-- PREEMPTION is due: the context has reached a boundary. -/
def preemptDue (x : Ctx) : Bool :=
  x.alive && x.preempt && x.slot.isSome && x.leaving != 3 && x.leaving != 5 && x.lanes.all fun a => !a.live || atBoundary a

/-- The engine queues that hold entries of a context (R324). -/
def engineQueues (x : Ctx) : List QueueId :=
  [.matrix (trussOf x.core), .gather (trussOf x.core)] ++ (coresOfCtx x).map .slice

/-- The physical address of the first global byte that an engine entry reads: none where its operands are all local. -/
def operandPa (s : State) (e : QEnt) : Option Nat :=
  match e.instr with
  | .mma _ o | .mmag _ o =>
    if o.imm.getLsbD 7 then
      (e.pages.find? fun p => p.1 == e.s2.toNat / 4096).map fun p => p.2 * 4096 + e.s2.toNat % 4096
    else none
  | .gath lg i32 o =>
    if o.imm.getLsbD 7 then
      entryPa s e ((e.s1.toNat + (locRead s e e.s2.toNat (if i32 then 4 else 2)).1 * 2 ^ lg.toNat) % 2 ^ 64)
    else none
  | _ => none

/-- An operand delivery of a parked entry is on its way, and is caught in the spill ring where that has room (R336). -/
def catchOperand (s : State) (q : QueueId) (e : QEnt) : State :=
  match operandPa s e with
  | none => s
  | some pa =>
    let at_ := pa / 64 * 64
    if targetOf pa = .hbm ∧ memBad s at_ 64 = false ∧ spillRoom s e.core = true then
      modCore s e.core fun c => { c with spill := c.spill ++ [.operand e.ctx q e.id at_ (memBytes s at_ 64)] }
    else s

/-- The groups of a running entry that are done before it is parked: the partial C is in its tile, with the flags so far
(R336); which group boundary is next is not fixed. An entry without groups has done nothing. -/
def subTile (s : State) (q : QueueId) (e : QEnt) : State :=
  let part (sh : Shape) (gath glob : Bool) : State :=
    let g := e.group + choice s 63 % (mmaGroups sh - e.group)
    let r := mmaRun s e sh gath glob g
    modEntry r.1 q e.id fun k => { k with group := g, flags := r.2 }
  match e.instr with
  | .mma sh o => part sh false (o.imm.getLsbD 7)
  | .mmag sh o => part sh true (o.imm.getLsbD 7)
  | _ => s

/-- The park record of a slot on the cores of a context holds an entry (R336). -/
def parkUsed (s : State) (x : Ctx) (slot : Nat) : Bool :=
  (engineQueues x).any fun r => (queueOf s r).any fun k =>
    k.sub && k.parked && k.park == slot && (coresOfCtx x).any (onCore (getCtx s k.ctx))

/-- An entry that runs for a pre-empted context is parked at its next group boundary, unless the park record of the
context's slot is in use; or it goes on to its completion (R336): which of the two is not fixed. -/
def parkEntry (c : Nat) (s : State) (q : QueueId) : State :=
  match runningEntry s q with
  | none => s
  | some e =>
    let x := getCtx s c
    let slot := (x.left.or x.slot).getD 0
    if e.ctx ≠ c ∨ e.sent ∨ parkUsed s x slot ∨ choice s 62 % 2 = 0 then s
    else
      catchOperand (modEntry (subTile s q e) q e.id fun k => { k with started := false, parked := true, sub := true, park := slot })
        q e

/-- PREEMPTION (R23, R250, R336). -/
def execPreemption (s : State) : Out :=
  match s.ev with
  | some (.preemption c) =>
    let s1 := deactivate s c 3
    .next (if (getCtx s1 c).held then (engineQueues (getCtx s1 c)).foldl (parkEntry c) s1 else s1)
  | _ => .fault .noEvent

/-! ## Resume (R253) -/

/-- One spill-ring entry of a context reaches its destination. -/
def replaySpill (s : State) (e : SpillEnt) : State :=
  match e with
  | .answer c (.spawnAnswer _ l v _) => giveAnswer s c l v
  | .answer c (.launchAnswer (.lane _ l) v _) => giveAnswer s c (some l) v
  | .answer _ _ => s
  | .deliver _ d => writeDelivery s d
  | .operand _ q id pa bytes => modEntry s q id fun e => { e with got := e.got ++ [(pa, bytes)] }

/-- An entry of a spill ring belongs to a context. -/
def spillOf (c : Nat) (e : SpillEnt) : Bool := match e with | .answer d _ => d == c | .deliver d _ => d == c | .operand d _ _ _ _ => d == c

/-- The spill-ring entries of a context on one core, in ring order. -/
def replayRing (c : Nat) (s : State) (core : Nat) : State :=
  let own := (getCore s core).spill.filter (spillOf c)
  if own.isEmpty then s
  else own.foldl replaySpill (modCore s core fun k => { k with spill := k.spill.filter fun e => !spillOf c e })

/-- CONTEXT_RESUME (R23, R253, R280, R286): the latches are loaded from the workspace as the keeper has left it, a stopped
context shows as stopped in its slot, deferred entries take their places, and the spill ring is replayed. -/
def execContextResume (s : State) : Out :=
  match s.ev with
  | some (.contextResume c) =>
    let s0 := modCtx s c applyEdits
    let s1 := deferEntries (markStopped s0 (getCtx s0 c) (settledLanes (getCtx s0 c)) true) c false
    .next (wakeSleepers ((coresOfCtx (getCtx s c)).foldl (replayRing c) s1) c)
  | _ => .fault .noEvent

/-! ## Kills (R256, R257, R376) -/

/-- A dead-tag filter of 64 entries with a tag; a full one replaces its oldest. -/
def addTag (l : List (BitVec 24)) (t : BitVec 24) : List (BitVec 24) :=
  if l.contains t then l else let m := l ++ [t]; m.drop (m.length - 64)

/-- The filters of a package change. -/
def modTags (s : State) (pkg : Nat) (f : List (BitVec 24) → List (BitVec 24)) : State :=
  let s1 := modPkg s pkg fun p => { p with deadTags := f p.deadTags }
  (List.range 4).foldl (fun z d => modDie z (pkg * 4 + d) fun e => { e with deadTags := f e.deadTags }) s1

/-- The queue accesses of a context that are on their way are performed (R23, step 2). -/
def drainQueues (s : State) (c : Nat) : State :=
  let own (e : Ev) : Bool := match e with | .queueLoadFill q | .storeQueuePerform q => q.ctx == c | _ => false
  (s.flight.filter own).foldl takeFlight { s with flight := s.flight.filter fun e => !own e }

/-- A context of a killed task ends as REAP with FN 2 ends one, with no exit record; a stopped one writes no trace record
(R257, R280). -/
def killCtx (s : State) (c : Nat) : State :=
  let s1 := drainQueues (modCtx s c fun x => { x with leaving := 5 }) c
  let x := getCtx s1 c
  let s3 := freeWs (endCtx s1 c true (x.lanes.any (·.stopped))) c
  let s4 := modBay s3 (bayOf x.core) fun b => { b with pend := b.pend.filter fun p => p.ctx != c }
  modCore s4 (exitCore x) fun k => { k with exitWait := k.exitWait.filter fun e => e.1 != c }

/-- A queue without the entries of a task that have not started; those that have are marked, and a parked one goes on to
its completion (R337). -/
def killEntries (tag : BitVec 24) (l : List QEnt) : List QEnt :=
  (l.filter fun e => e.task != tag || e.started || e.sub).map fun e =>
    if e.task = tag then { e with killed := true, parked := false } else e

/-- What a core holds of a task goes (R257). -/
def killCore (s : State) (tag : BitVec 24) (c : CoreSt) : CoreSt :=
  { c with
    spill := c.spill.filter fun e => match e with
      | .answer x _ => (getCtx s x).task != tag
      | .deliver _ d => d.task != tag
      | .operand x _ _ _ _ => (getCtx s x).task != tag
    journal := c.journal.filter fun e => e.task != tag
    sendQ := c.sendQ.filter fun e => e.msg.task != tag
    spawnQ := c.spawnQ.filter fun r => r.task != tag
    slice := killEntries tag c.slice
    copy := killEntries tag c.copy }

/-- An event on its way that a kill in a package removes: a message still in its send queue, or a router delivery. -/
def killedEv (pkg : Nat) (tag : BitVec 24) (e : Ev) : Bool :=
  match e with
  | .messageArrival m => m.task == tag && pkgOf m.src == pkg
  | .routerDelivery d => d.task == tag && pkgOf d.core == pkg
  | _ => false

/-- A launch or graph of a tag (R376). -/
def launchTag (l : Launch) : BitVec 24 := BitVec.ofNat 24 (at_ l.msg.payload 24 3)

/-- A kill of a tag in one package. -/
def applyKill (s : State) (pkg : Nat) (tag : BitVec 24) : State :=
  let s1 := modTags s pkg fun l => addTag l tag
  let s2 := (List.range 4).foldl (fun z d => modDie z (pkg * 4 + d) fun e =>
    { e with launches := e.launches.filter fun l => launchTag l != tag,
             graphs := e.graphs.map fun g => (g.1, if g.2.used && g.2.task == tag then { gen := (g.2.gen + 1) % 256 } else g.2),
             reds := e.reds.filter fun r => r.task != tag }) s1
  let cs := (s2.ctxs.filter fun e => e.2.alive && e.2.task == tag && pkgOf e.2.core == pkg).map (·.1)
  let s3 := cs.foldl killCtx s2
  let s4 := (s3.cores.map (·.1)).foldl (fun z k => if pkgOf k = pkg then modCore z k (killCore z tag) else z) s3
  let s5 := (s4.trusses.map (·.1)).foldl (fun z t =>
    if t / 1024 = pkg then modTruss z t fun e =>
      { e with matrix := killEntries tag e.matrix, gather := killEntries tag e.gather, copy := killEntries tag e.copy }
    else z) s4
  let s6 := { s5 with flight := s5.flight.filter fun e => !killedEv pkg tag e }
  (List.range 4).foldl (fun z d => dispatchNodes z (pkg * 4 + d)) s6

/-- The request goes on over every link of the package that has not failed, but for the package that it started in
(R256). -/
def forwardKill (s : State) (k : KillReq) : State :=
  pushFlight s ((List.range 16).filterMap fun l =>
    match Config.wire k.pkg l with
    | none => none
    | some (p, _) =>
      if p = k.origin ∨ (tget {} (getPkg s k.pkg).links l : Link).failed = true then none
      else some (.killRequestArrival { k with pkg := p, core := none, note := none, via := some (k.pkg, l) }))

/-- TKILL of a core: DONE, and no longer BUSY. -/
def tkillDone (s : State) (core : Nat) : State :=
  setCoreReg s core 0x146 (setFld (setFld (coreReg s core 0x146) 31 1 0) 30 1 1)

/-- KILL_REQUEST_ARRIVAL (R256, R257): each package applies a request once. -/
def execKillRequestArrival (s : State) : Out :=
  match s.ev with
  | some (.killRequestArrival k) =>
    if (getPkg s k.pkg).met.contains (k.origin, k.seq) then .next s
    else
      let s1 := forwardKill (modPkg s k.pkg fun p => { p with met := p.met ++ [(k.origin, k.seq)] }) k
      let s2 := if k.clear then modTags s1 k.pkg fun l => l.filter (· != k.tag) else applyKill s1 k.pkg k.tag
      let s3 := match k.core with | some c => tkillDone s2 c | none => s2
      .next (match k.note with | some n => pushDue s3 [.deathNotice n] | none => s3)
  | _ => .fault .noEvent

/-- A request starts at the package of a core. -/
def startKill (s : State) (core : Nat) (tag : BitVec 24) (clear : Bool) (note : Option Notice) : State :=
  let s1 := setCoreReg s core 0x146 (setFld (coreReg s core 0x146) 31 1 1)
  let r := { killOf s1 (pkgOf core) tag clear with core := some core, note }
  pushDue (modPkg s1 (pkgOf core) fun p => { p with killSeq := p.killSeq + 1 }) [.killRequestArrival r]

/-- TKILL_KILL (R256): a kill of tag 0 is ignored. -/
def execTkillKill (s : State) : Out :=
  match s.ev with
  | some (.tkillKill core tag) =>
    if tag = 0 then .next s
    else .next (startKill s core tag false (some { core, dst := nodeId s (hostProxyKey (pkgOf core)) + 160, task := tag, vector := 0, reason := 0 }))
  | _ => .fault .noEvent

/-- The death notice of a context that kills its own task: in a handler it carries the fault record (R259). -/
def ownNotice (core : Nat) (x : Ctx) (a : Lane) : Notice :=
  let n : Notice := { core, dst := x.parentNode, task := x.task, vector := 0, reason := 0 }
  if a.inHandler then
    { n with vector := fld a.tcause 0 8, reason := fld a.tcause 8 8, form := a.tcause.getLsbD 16, async := a.tcause.getLsbD 17,
             noeq := a.tcause.getLsbD 18, tpc := a.tpc, txpc := a.txpc, teq := a.teq, taddr := a.taddr, tmask := a.tmask }
  else n

/-- TKILL_OWN (R256, R259). -/
def execTkillOwn (s : State) : Out :=
  match s.ev with
  | some (.tkillOwn core c l) =>
    let x := getCtx s c
    if x.task = 0 then .next s else .next (startKill s core x.task false (some (ownNotice core x (getLane x l))))
  | _ => .fault .noEvent

/-- TKILL_CLR (R256). -/
def execTkillClr (s : State) : Out :=
  match s.ev with
  | some (.tkillClr core tag) => .next (startKill s core tag true none)
  | _ => .fault .noEvent

/-- The payload of a death or refusal notice (R247, R259). -/
def noticeBytes (s : State) (n : Notice) : List Byte :=
  leBytes 4 (n.task.toNat + n.vector * 2 ^ 24)
    ++ leBytes 4 (n.reason % 256 + (if n.async then 256 else 0) + (if n.form then 512 else 0) + (if n.noeq then 1024 else 0)
        + n.second * 2 ^ 24)
    ++ leBytes 8 n.tpc.toNat ++ leBytes 8 n.txpc.toNat ++ leBytes 8 n.teq.toNat ++ leBytes 8 n.taddr.toNat
    ++ leBytes 4 n.tmask.toNat ++ leBytes 4 (nodeId s n.core)

/-- DEATH_NOTICE (R247, R259): none where the context has no parent. -/
def execDeathNotice (s : State) : Out :=
  match s.ev with
  | some (.deathNotice n) =>
    .next (if n.dst = 0xFFFFFFFF then s else postNote s n.core (keyNamed s (pkgOf n.core) n.dst) 0 (noticeBytes s n))
  | _ => .fault .noEvent

/-! ## Debug requests and stops (R275, R278, R279) -/

/-- Resumes the lanes of a context whose stop is complete, from the workspace as the keeper has left it (R279); every lane
of a split course (R300). -/
def goLanes (s : State) (step : Bool) (c : Nat) : State :=
  let x := getCtx s c
  let ls := settledLanes x
  if ls.isEmpty then s
  else
    let s1 := modCtx s c fun y =>
      modLanes (applyEdits y) ls fun _ a => { a with stopped := false, passBp := true, stepping := step }
    becomeReady (markStopped s1 x ls false) c

/-- GO and STEP of DBGCTL. -/
def dbgGo (s : State) (core : Nat) (v : DWord) (step : Bool) : State :=
  match dbgTarget s core v with
  | some c => if isKeeper (getCtx s c) then s else (halves s c).foldl (fun z d => goLanes z step d) s
  | none => s

/-- DBGCTL_GO (R279). -/
def execDbgctlGo (s : State) : Out :=
  match s.ev with
  | some (.dbgctlGo core v) => .next (dbgGo s core v false)
  | _ => .fault .noEvent

/-- DBGCTL_STEP (R279). -/
def execDbgctlStep (s : State) : Out :=
  match s.ev with
  | some (.dbgctlStep core v) => .next (dbgGo s core v true)
  | _ => .fault .noEvent

/-- DBGCTL_HALT (R279): a stopped or vacant target is left as it is. -/
def execDbgctlHalt (s : State) : Out :=
  match s.ev with
  | some (.dbgctlHalt core v) =>
    match dbgTarget s core v with
    | some c =>
      if isKeeper (getCtx s c) then .next s
      else .next ((halves s c).foldl (fun z d =>
        if (getCtx z d).slot.isNone then z
        else modCtx z d fun y => modAllLanes y fun a => if a.stopped then a else { a with haltReq := true }) s)
    | none => .next s
  | _ => .fault .noEvent

/-- A stop at the boundary of a lane, or of the course that it belongs to. -/
def stopAt (s : State) (c lane cause : Nat) : State :=
  let x := getCtx s c
  if isStrand x || x.split then stopLanes s c [lane] cause (if isStrand x then 1 else 1 <<< lane)
  else stopLanes s c (actLanes x) cause (maskOf (actLanes x))

/-- BREAKPOINT_STOP (R275). -/
def execBreakpointStop (s : State) : Out :=
  match s.ev with
  | some (.breakpointStop c l n) => .next (stopAt s c l (n + 1))
  | _ => .fault .noEvent

/-- HALT_STOP (R279). -/
def execHaltStop (s : State) : Out :=
  match s.ev with
  | some (.haltStop c l) => .next (stopAt s c l 7)
  | _ => .fault .noEvent

/-- SINGLE_STEP_STOP (R279). -/
def execSingleStepStop (s : State) : Out :=
  match s.ev with
  | some (.singleStepStop c l) => .next (stopAt s c l 6)
  | _ => .fault .noEvent

/-! ## Parked faults (R434) -/

/-- The fault that a lane is parked for. -/
def parkedOf (a : Lane) : Option TrapInfo := match a.wait with | .parked t => some t | _ => none

/-- The parked context that an answer names, and its lowest parked lane: on a Truss, the lane of the answer's core. -/
def parkedAt (s : State) (core w : Nat) : Option (Nat × Nat × TrapInfo) :=
  let found := if w.testBit 31 then courseNum s (trussOf core) (w / 65536 % 1024)
               else if w % 16 = 0 then none else boundAt s core (w % 16)
  match found with
  | none => none
  | some c =>
    let x := getCtx s c
    let ls := if x.split && x.kind == .course then [laneOn x core] else liveLanes x
    ls.findSome? fun l => (parkedOf (getLane x l)).map fun t => (c, l, t)

/-- PARKED_FAULT_ANSWER (R434). -/
def execParkedFaultAnswer (s : State) : Out :=
  match s.ev with
  | some (.parkedFaultAnswer m) =>
    let core := m.dst
    match parkedAt s core (at_ m.payload 4 4) with
    | none => .next (countDrop s core)
    | some (c, l, t) =>
      let x := getCtx s c
      let ls := unitLanes x l
      let s2 := modCtx s c fun y => modLanes y ls fun _ a => { a with wait := .none }
      match at_ m.payload 8 1 with
      | 0 => .next (becomeReady s2 c)
      | 1 =>
        let a := getLane x l
        .next (becomeReady (enterTrap s2 c ls t a.pc a.pc) c)
      | _ => .next (countDrop s core)
  | _ => .fault .noEvent

end Sys2Proof.Machine
end

