-- ==== Sys2Proof/Machine/Profile.lean ====
section
/-! DEFINITION. The events of the profiling and trace hardware: the end of a hold, the loss counters, the bezel
selection, the summary period and the trace drain (R183, R266 to R272, R469). -/

namespace Sys2Proof.Machine

open Sys2Proof

/-- MULTI_ROTATION_HOLD_END (R183): the lanes that share the hold are ready again. -/
def execMultiRotationHoldEnd (s : State) : Out :=
  match s.ev with
  | some (.multiRotationHoldEnd c l) =>
    .next (modCtx s c fun x => modLanes x (unitLanes x l) fun _ a => { a with hold := 0 })
  | _ => .fault .noEvent

/-- BEZEL_SELECT (R270): the slot that the comparators name is selected, on every core of a course's set. -/
def execBezelSelect (s : State) : Out :=
  match s.ev with
  | some (.bezelSelect core) =>
    match bezelPick s core with
    | none => .next s
    | some slot =>
      let ks := match boundAt s core slot with
        | some c => selectCores (getCtx s c) core
        | none => [core]
      .next (ks.foldl (fun z k => setSelected z k (some slot)) s)
  | _ => .fault .noEvent

/-- A summary period of a split strand is over (R266, R267). -/
def periodOver (s : State) (core slot : Nat) : Bool :=
  let n := fld (coreReg s core 0x153) 24 4
  n != 0 && decide (2 ^ (9 + n) ≤ tget 0 (getCore s core).bezel.since slot)

/-- SUMMARY_PERIOD (R266). -/
def execSummaryPeriod (s : State) : Out :=
  match s.ev with
  | some (.summaryPeriod c) => .next (summary s c 6)
  | _ => .fault .noEvent

/-! ## Loss accounting (R271, R272) -/

/-- Adds to a 64-bit counter of a core. -/
def addReg (s : State) (core idx n : Nat) : State :=
  if n = 0 then s else setCoreReg s core idx (coreReg s core idx + BitVec.ofNat 64 n)

/-- The number of slots that are classed k in this rotation. -/
def classed (z : Bezel) (slots k : Nat) : Nat :=
  ((List.range slots).filter fun i => decide (tget 0 z.rot i % 4 = k)).length

/-- The classes of a rotation or an L-core cycle, in the order issued, memory, message, vacant, and its bin. -/
def lossOf (s : State) (core : Nat) : List Nat × Nat :=
  let z := (getCore s core).bezel
  match coreKind core with
  | .lcore =>
    let k := tget 0 z.rot 0 % 4
    (([1, 2, 3, 0] : List Nat).map fun c => if c = k then 1 else 0, tget 0 z.rot 1)
  | kind =>
    let n := slotCount kind
    (([1, 2, 3, 0] : List Nat).map fun c => classed z n c, classed z n 1)

/-- The rotations, or cycles of an L-core, that have ended on a core. -/
def rotsOver (s : State) (core : Nat) : Nat :=
  match coreKind core with
  | .lcore => cycOf s core
  | k => cycOf s core / slotCount k

/-- The width of a class count: slots for a rotation, 1 for a cycle. -/
def lossUnit (core : Nat) : Nat :=
  match coreKind core with
  | .lcore => 1
  | k => slotCount k

/-- The counters take in the rotation that ends, and those before it in which nothing was bound. -/
def countLoss (s : State) (core : Nat) : State :=
  let (cs, bin) := lossOf s core
  let idle := rotsOver s core - (getCore s core).bezel.seen - 1
  let s1 := (cs.zipIdx).foldl (fun z e => addReg z core (0x160 + e.2) e.1) s
  let s2 := addReg s1 core (0x170 + bin) 1
  addReg (addReg s2 core 0x163 (idle * lossUnit core)) core 0x170 idle

/-- Every counter of R271 becomes 0. -/
def clearLoss (s : State) (core : Nat) : State :=
  (numsFrom 0x160 4 ++ numsFrom 0x170 17).foldl (fun z i => setCoreReg z core i 0) s

/-- A pending LOSSCTL write takes effect (R272). -/
def applyLossctl (s : State) (core : Nat) : State :=
  let z := (getCore s core).bezel
  let s1 := match z.pendFrz with
    | some f => setCoreReg s core 0x164 (setFld (coreReg s core 0x164) 0 1 (if f then 1 else 0))
    | none => s
  let s2 := if z.pendClr then clearLoss s1 core else s1
  modCore s2 core fun c => { c with bezel := { c.bezel with pendFrz := none, pendClr := false } }

/-- The slots of a core, one rotation further towards the end of their summary period. -/
def countSince (s : State) (core : Nat) : State :=
  let n := slotCount (coreKind core)
  modCore s core fun c =>
    { c with bezel := { c.bezel with
        rot := []
        prev := c.bezel.rot
        since := (List.range n).foldl (fun t k => tset 0 t k (tget 0 t k + 1)) c.bezel.since } }

/-- The caches of a core, and those that its Truss or package shares, at the end of a rotation: a line of each may leave
(R410, R412). The first core of a Truss and of a package stands for the shared ones (log 26, log 28). -/
def ageCaches (s : State) (core : Nat) : State :=
  let s1 := ageCache s (.core core)
  let s2 := match coreKind core with
    | .lcore => ageHolder s1 (.lcore core)
    | .dcore => if core % 64 = 0 then ageHolder (ageCache s1 (.truss (trussOf core))) (.truss (trussOf core)) else s1
    | .eave => s1
  if core % 65536 = 0 then ageHolder s2 (.pkg (pkgOf core)) else s2

/-- ROTATION_BOUNDARY (R271, R272): a rotation of a D-core or Eave core, or a cycle of an L-core, is over. -/
def execRotationBoundary (s : State) : Out :=
  match s.ev with
  | some (.rotationBoundary core) =>
    let s1 := if (coreReg s core 0x164).getLsbD 0 then s else countLoss s core
    let s2 := countSince (applyLossctl s1 core) core
    .next (ageCaches (modCore s2 core fun c => { c with bezel := { c.bezel with seen := rotsOver s core } }) core)
  | _ => .fault .noEvent

/-! ## The trace drain (R469) -/

/-- The bytes that the trace drain of a die has to copy: 64 KiB of its ring; in a ring of 64 KiB, which never holds that
many, what it holds once the longest record would not fit (log 148). -/
def drainBytes (s : State) (die : Nat) : Nat :=
  let size := 2 ^ fld (dieReg s die 0x1F2) 0 5
  let used := (fld (dieReg s die 0x1F3) 0 32 + size - fld (dieReg s die 0x1F4) 0 32 % size) % size
  if size ≤ 65536 then (if size ≤ used + 1008 then used else 0)
  else if 65536 ≤ used then 65536 else 0

/-- The trace drain of a die has bytes to copy, and a host buffer to copy them to. -/
def drainDue (s : State) (die : Nat) : Bool :=
  !(dieReg s die 0x1F2).getLsbD 63 && (getDie s die).drain.isSome && drainBytes s die != 0

/-- n bytes of a ring of physical memory. -/
def ringGet (s : State) (base size off n : Nat) : List Byte := (List.range n).map fun j => memByte s (base + (off + j) % size)

/-- TRACE_DRAIN (R469): bytes of the ring go to the host buffer, at the offset that they have in the ring (log 48). -/
def execTraceDrain (s : State) : Out :=
  match s.ev with
  | some (.traceDrain die) =>
    match (getDie s die).drain with
    | some buf =>
      if !drainDue s die then .next s
      else
        let r := dieReg s die 0x1F2
        let size := 2 ^ fld r 0 5
        let tail := fld (dieReg s die 0x1F4) 0 32
        let n := drainBytes s die
        let s1 := ringPut s (hostPa (die / 4) buf) size tail (ringGet s (fld r 16 36 * 65536) size tail n)
        .next (setDieReg s1 die 0x1F4 (BitVec.ofNat 64 ((tail + n) % size)))
    | none => .next s
  | _ => .fault .noEvent

end Sys2Proof.Machine
end

