-- ==== Sys2Proof/Machine/Package.lean ====
section
/-! DEFINITION. The package: bring-up, attestation, power and heat, soft errors and retirement, and the fills of the Eave
cores (R458, R466 to R473, R509). -/

namespace Sys2Proof.Machine

open Sys2Proof

/-! ## Retirement (R468) -/

/-- The L2 slice of a die that RAS names by a node id (log 47). -/
def sliceOf (die node : Nat) : Option Nat := (List.range 80).find? fun k => (Config.sliceNode die k).toNat == node

/-- A D-core is replaced by its Truss's spare, which takes its number, its slots and its SRAM; which sectors could not be
corrected and arrive poisoned is free (log 49). With the spare used nothing is retired. -/
def retireDcore (s : State) (core : Nat) : State :=
  let t := trussOf core
  if (getTruss s t).spare then rasEvent s (pkgOf core) (nodeId s core) 468 (some core)
  else
    let s1 := (boundOn s core).foldl (fun z e => drainQueues z e.1) s
    let lost := choice s1 49
    let s2 := ((List.range 4096).filter lost.testBit).foldl (fun z k => sramPoison z core (32 * k)) s1
    modCore (modTruss s2 t fun e => { e with spare := true }) core fun c => { c with soft := 0 }

/-- An Eave core is retired: its slots are purged, and its channel passes to its neighbour. -/
def retireEave (s : State) (core : Nat) : State :=
  modCore (((boundOn s core).map (·.1)).foldl killCtx s) core fun c => { c with retired := true, soft := 0 }

/-- A way is disabled at its home. -/
def retireWay (s : State) (die slice way : Nat) : State :=
  modDie s die fun d =>
    { d with waysOff := if d.waysOff.contains (slice, way) then d.waysOff else d.waysOff ++ [(slice, way)],
             ways := d.ways.filter fun e => (e.1, e.2.1) != (slice, way) }

/-- A unit is retired; a link has no row in the table. -/
def retireUnit (s : State) (u : RasUnit) : State :=
  match u with
  | .core k => retireDcore s k
  | .eave k => retireEave s k
  | .way d k w => retireWay s d k w
  | .link _ _ => s

/-! ## Soft errors (R467) -/

/-- The die whose RASCTL governs a unit. -/
def unitDie : RasUnit → Nat
  | .core k | .eave k => dieOf k
  | .way d _ _ => d
  | .link p _ => 4 * p

/-- The count of a unit in this window. -/
def softCount (s : State) (u : RasUnit) : Nat :=
  match u with
  | .core k | .eave k => (getCore s k).soft
  | .way d k w => (((getDie s d).ways.find? fun e => e.1 == k && e.2.1 == w).map (·.2.2)).getD 0
  | .link p l => (tget {} (getPkg s p).links l).soft

/-- Sets the count of a unit. -/
def setSoft (s : State) (u : RasUnit) (n : Nat) : State :=
  match u with
  | .core k | .eave k => modCore s k fun c => { c with soft := n }
  | .way d k w => modDie s d fun e =>
      { e with ways := (e.ways.filter fun f => (f.1, f.2.1) != (k, w)) ++ if n = 0 then [] else [(k, w, n)] }
  | .link p l => modPkg s p fun e => { e with links := tset {} e.links l { tget {} e.links l with soft := n } }

/-- RASCTL.THR of a unit; 0 acts as 1. -/
def softLimit (s : State) (u : RasUnit) : Nat := Nat.max 1 (fld (dieReg s (unitDie u) 0x1F1) 0 8)

/-- A unit detects n more corrected errors: its count may reach THR. -/
def countSoft (s : State) (u : RasUnit) (n : Nat) : State :=
  let old := softCount s u
  let s1 := setSoft s u (old + n)
  if old < softLimit s u ∧ softLimit s u ≤ old + n then pushDue s1 [.softErrorThreshold u] else s1

/-- A unit that detects a corrected error in this tick: whether one does, and which D-core's SRAM or L2 way it is, is free
(log 151). -/
def softNow (s : State) : Option RasUnit :=
  let n := choice s 467
  let k := n / 4
  match n % 4 with
  | 1 => if engineKind (k % 2 ^ 24) = .core .dcore then some (.core (k % 2 ^ 24)) else none
  | 2 => some (.way (k % 1024) (k / 1024 % 80) (k / 81920 % 16))
  | _ => none

/-- Errors that SRAM and L2 ways have corrected by themselves count as time passes (R467). -/
def softTick (s : State) : State :=
  match softNow s with
  | some u => countSoft s u 1
  | none => s

/-- The node id, kind and way that a RAS message names. -/
def unitBytes_ (s : State) (u : RasUnit) : Option (Nat × List Byte) :=
  match u with
  | .core k => some (k, leBytes 4 (nodeId s k) ++ leBytes 1 0 ++ leBytes 1 0)
  | .way d k w => some (purlinKey d, leBytes 4 (Config.sliceNode d k).toNat ++ leBytes 1 1 ++ leBytes 1 w)
  | .eave k => some (k, leBytes 4 (nodeId s k) ++ leBytes 1 2 ++ leBytes 1 0)
  | .link _ _ => none

/-- A core that is faulty has a RAS event (R248, log 61). -/
def faultyIpend (s : State) (u : RasUnit) : State :=
  match u with
  | .core k | .eave k => raiseIpend s k 2
  | .way _ _ _ | .link _ _ => s

/-- SOFT_ERROR_THRESHOLD (R467): the unit is faulty: it is retired, or the host is told. -/
def execSoftErrorThreshold (s0 : State) : Out :=
  match s0.ev with
  | some (.softErrorThreshold u) =>
    let s := faultyIpend s0 u
    let die := unitDie u
    if (dieReg s die 0x1F1).getLsbD 31 then
      match unitBytes_ s u with
      | some (src, bs) => .next (postNote s src (hostProxyKey (die / 4)) 6 bs)
      | none => .next s
    else .next (retireUnit s u)
  | _ => .fault .noEvent

/-- SOFT_ERROR_WINDOW_END (R467). -/
def execSoftErrorWindowEnd (s : State) : Out :=
  match s.ev with
  | some (.softErrorWindowEnd u) => .next (setSoft s u 0)
  | _ => .fault .noEvent

/-- The unit that NODE and WAY name. -/
def rasUnit (s : State) (die : Nat) (v : DWord) : Option RasUnit :=
  let node := fld v 32 32
  let k := keyNamed s (die / 4) node
  if validNode node then
    if dieOf k ≠ die then none
    else
      match engineKind k with
      | .core .dcore => some (.core k)
      | .core .eave => some (.eave k)
      | _ => none
  else (sliceOf die node).map fun sl => .way die sl (fld v 8 4)

/-- RASCTL_RETIRE (R467, R468). -/
def execRasctlRetire (s : State) : Out :=
  match s.ev with
  | some (.rasctlRetire die v) =>
    match rasUnit s die v with
    | some u => .next (retireUnit s u)
    | none => .next s
  | _ => .fault .noEvent

/-- The Eave core of a channel, counted over a package's dies and stacks (R346). -/
def eaveOf (pkg n : Nat) : Nat := (pkg * 4 + n / 96) * 16384 + (12 + n % 96 / 32) * 1024 + n % 32
/-- The Eave core whose fill sequencer serves a channel: its own, or that of channel c XOR 1 once its own is retired
(R468). -/
def fillerOf (s : State) (pkg n : Nat) : Nat :=
  if (getCore s (eaveOf pkg n)).retired then eaveOf pkg (Nat.xor n 1) else eaveOf pkg n

/-- n bytes at an address touch one of the sectors of a line that a fill could not correct. -/
def meetsSector (line : Nat) (bad : List Nat) (pa n : Nat) : Bool :=
  (sectorsOf pa n).any fun k => bad.any fun b => k == line / 32 + b % 4

/-- Accesses on their way that the fill could not serve: a queue load fills its entry with cause 2 (R151), and a journal
entry is refused for reason 4 (R246, log 60). -/
def failFill (s : State) (line : Nat) (bad : List Nat) : State :=
  let lost (e : Ev) : Bool := match e with
    | .journalEntryPerform core id => (getCore s core).journal.any fun j => j.id == id && meetsSector line bad j.pa (jBytes j)
    | _ => false
  let mark (e : Ev) : Ev := match e with
    | .queueLoadFill q => if meetsSector line bad q.pa (isizeBytes q.sz) then .queueLoadFill { q with bad := true } else e
    | e => e
  pushDue { s with flight := (s.flight.filter fun e => !lost e).map mark }
    ((s.flight.filter lost).filterMap fun e => match e with
      | .journalEntryPerform core id => some (.journalRefusal core id 4)
      | _ => none)

/-- HOME_FILL (R458): corrected errors count, and sectors that cannot be corrected are poisoned. -/
def execHomeFill (s : State) : Out :=
  match s.ev with
  | some (.homeFill pa corrected bad) =>
    let line := pa / lineBytes * lineBytes
    let s1 := failFill (bad.foldl (fun z k => poisonSector (settleSector z (line + 32 * (k % 4))) (line + 32 * (k % 4))) s) line bad
    .next (if corrected = 0 then s1 else countSoft s1 (.eave (fillerOf s (paPkg pa) (homeChannel s pa))) corrected)
  | _ => .fault .noEvent

/-! ## Power and heat (R466) -/

/-- Watts granted to the bays of a package, but for one. -/
def granted_ (s : State) (pkg bay : Nat) : Nat :=
  ((s.bays.filter fun e => e.1 / 64 == pkg && e.1 != bay).map fun e => fld (bayReg s e.1 0x1E8) 0 16).foldl (· + ·) 0

/-- POWER_GRANT (R466): a bay's grant changes, within the budget and within the cap of its region (log 46). The cycles in
which the bay had delayed work for want of a grant are not fixed: THRC rises by a free value. -/
def execPowerGrant (s : State) : Out :=
  match s.ev with
  | some (.powerGrant bay watts) =>
    if granted_ s (bay / 64) bay + watts ≤ (getPkg s (bay / 64)).budget ∧ watts ≤ Config.bayWatts bay ∧ watts < 65536 then
      let v := bayReg s bay 0x1E8
      .next (setBayReg s bay 0x1E8 (setFld (setFld v 0 16 watts) 32 32 (fld v 32 32 + (Config.freeValue s.free 466).toNat)))
    else .next s
  | _ => .fault .noEvent

/-- THERMAL_TRIP (R466): every core of the package is stopped, and the host gets a RAS event. -/
def execThermalTrip (s : State) : Out :=
  match s.ev with
  | some (.thermalTrip pkg die) => .next (rasEvent (modPkg s pkg fun p => { p with stopped := true }) pkg die 466 none)
  | _ => .fault .noEvent

/-! ## Bring-up (R470 to R473) -/

/-- The stage of a package: BOOTSTAT. -/
def stage (s : State) (pkg : Nat) : Nat := fld (pkgReg s pkg 0) 0 8
def setStage (s : State) (pkg n : Nat) : State := setPkgReg s pkg 0 (BitVec.ofNat 64 n)

/-- The context that an event belongs to. -/
def evCtx : Ev → Option Nat
  | .queueLoadFill q | .storeQueuePerform q => some q.ctx
  | .relaxedLoadReturn a => some a.ctx
  | .relaxedStorePerform p => some p.ctx
  | .multiRotationHoldEnd c _ | .journalRefusalTrap c _ | .spawnAnswer c _ _ _ | .sleepTimeout c _ | .spinWake c _ _
  | .yldCcWake c _ | .preemption c | .contextResume c | .breakpointStop c _ _ | .haltStop c _ | .singleStepStop c _
  | .summaryPeriod c | .refusion c | .barRelease c | .graphLoad _ c _ _ _ | .fairnessDue c | .fairnessDisplacement c
  | .migration c | .tkillOwn _ c _ => some c
  | .launchAnswer w _ _ => match w with | .lane c _ => some c | _ => none
  | .fabricRequestArrival r => some r.acc.ctx
  | .accessPerformed a => some a.acc.ctx
  | _ => none

/-- The package whose queue or unit an event that has no context belongs to. -/
def evPkg : Ev → Option Nat
  | .messageArrival m | .hostProxyDelivery m | .launchAdmission m | .purlinNodeComplete m | .parkedFaultAnswer m =>
    some (pkgOf m.src)
  | .journalEntryPerform k _ | .journalRefusal k _ _ | .spawnQueueStart k | .exitRecordPost k | .messageRetry k _
  | .timerCompare k | .interruptEntry k | .bezelSelect k | .lcarveWrite k _ | .mclsWrite k _ _ _ | .prectlGo k _
  | .prectlRel k _ | .tkillKill k _ | .tkillClr k _ | .dbgctlGo k _ | .dbgctlStep k _ | .dbgctlHalt k _
  | .bezelWrite k _ _ | .losctlFreeze k _ | .losctlClear k _ | .replayEnable k _ | .rotationBoundary k
  | .managementProcessorRequest k => some (pkgOf k)
  | .spawnRecordArrival r => some (pkgOf r.src)
  | .deathNotice n => some (pkgOf n.core)
  | .routerDelivery d => some (pkgOf d.core)
  | .fusion t _ _ _ | .courseActivation t | .leaseOcWrite t _ => some (t / 1024)
  | .engineEntryStart q | .engineEntryComplete q | .copyEntryComplete q =>
    match q with
    | .matrix t | .gather t | .copyT t => some (t / 1024)
    | .slice k | .copyE k => some (pkgOf k)
  | .homePartialAdd p => some (paPkg p.pa)
  | .reductionStep d _ | .bundleResident d _ _ | .traceDrain d | .rasctlRetire d _ => some (d / 4)
  | .pageWalk b _ _ | .migreqGo b _ | .migreqAns b _ => some (b / 64)
  | _ => none

/-- An event that a reset of a package takes away. -/
def lostAtReset (s : State) (pkg : Nat) (e : Ev) : Bool :=
  match evCtx e with
  | some c => (getCtx s c).alive && pkgOf (getCtx s c).core == pkg
  | none => evPkg e == some pkg

/-- RESET (R470): every unit of the package takes its reset values, no core runs, and CYC is 0. What backed storage, the
fuses and the outside hold stays. -/
def execReset (s : State) : Out :=
  match s.ev with
  | some (.reset pkg) =>
    let p := getPkg s pkg
    let s1 : State :=
      { s with
        ctxs := s.ctxs.filter fun e => pkgOf e.2.core != pkg
        cores := s.cores.filter fun e => pkgOf e.1 != pkg
        trusses := s.trusses.filter fun e => e.1 / 1024 != pkg
        bays := s.bays.filter fun e => e.1 / 64 != pkg
        dies := s.dies.filter fun e => e.1 / 4 != pkg
        due := s.due.filter fun e => !lostAtReset s pkg e
        flight := s.flight.filter fun e => !lostAtReset s pkg e }
    .next (modPkg s1 pkg fun _ =>
      { fuses := p.fuses, counter := p.counter, attest := p.attest, ras := p.ras, msix := p.msix, reads := p.reads, budget := p.budget,
        cyc0 := s.now })
  | _ => .fault .noEvent

/-- MANAGEMENT_BOOT (R466, R469, R470): the management processor runs, and sets the power budget: a free value of at most
4,200 W (log 46); and for the trace drain of each die a host buffer, at an address that is free (log 148). -/
def execManagementBoot (s : State) : Out :=
  match s.ev with
  | some (.managementBoot pkg) =>
    let w := Nat.min 4200 (Config.freeValue s.free 467).toNat
    let buffer (z : State) (d : Nat) : State := modDie z (4 * pkg + d) fun e =>
      { e with drain := some (Config.freeValue s.free (4690 + d)).toNat }
    .next (if stage s pkg = 1 then
        modPkg (setStage ((List.range 4).foldl buffer s) pkg 2) pkg fun p => { p with budget := w }
      else s)
  | _ => .fault .noEvent

/-- Every image has a signature of 2,820 bytes that holds under the public key in the package's fuses (R471, log 50). -/
def imagesSigned (pkg : Nat) (images : List (List Byte × List Byte)) : Bool :=
  images.all fun e => e.2.length == 2820 && Config.xmssVerify (Config.fuseKey pkg) e.1 e.2

/-- SIGNATURE_CHECK (R470, R471): a failure stops at code 0x83. A replacement keeper is checked in stage 4. -/
def execSignatureCheck (s : State) : Out :=
  match s.ev with
  | some (.signatureCheck pkg images) =>
    let st := stage s pkg
    if st = 2 ∨ st = 4 then
      if imagesSigned pkg images then .next (modPkg (if st = 2 then setStage s pkg 3 else s) pkg fun p => { p with checked := true })
      else .next (setStage s pkg 0x83)
    else .next s
  | _ => .fault .noEvent

/-- FIRMWARE_LOAD (R470, R509): the checked images are loaded, with the bytes of the keeper programs. -/
def execFirmwareLoad (s : State) : Out :=
  match s.ev with
  | some (.firmwareLoad pkg images code) =>
    let st := stage s pkg
    if (st = 3 ∨ st = 4) ∧ (getPkg s pkg).checked = true then
      let s1 := code.foldl (fun z e => if targetOf e.1 = .hbm ∧ paPkg e.1 = pkg then storeHome z e.1 e.2 else z) s
      .next (setStage (modPkg s1 pkg fun p => { p with images, checked := false }) pkg 4)
    else .next s
  | _ => .fault .noEvent

/-- HBM_TRAINING (R345, R470): HMAP is written on every die, and a channel that fails passes to its pair. -/
def execHbmTraining (s : State) : Out :=
  match s.ev with
  | some (.hbmTraining pkg gran failed) =>
    if stage s pkg = 4 ∧ gran.toNat ≤ 4 then
      let s1 := (List.range 4).foldl (fun z d => setDieReg z (4 * pkg + d) 0x1B0 (gran.setWidth 64)) s
      let ks := (failed.filter fun n => decide (n < 384)).map (eaveOf pkg)
      .next (setStage (ks.foldl retireEave s1) pkg 5)
    else .next s
  | _ => .fault .noEvent

/-- FEATURE_NEGOTIATION (R473): the grant is offered AND requested. -/
def execFeatureNegotiation (s : State) : Out :=
  match s.ev with
  | some (.featureNegotiation pkg) =>
    if stage s pkg = 5 then
      let s1 := setPkgReg s pkg 0x30 (featOff.extractLsb' 0 64 &&& pkgReg s pkg 0x20)
      .next (setStage (setPkgReg s1 pkg 0x38 (featOff.extractLsb' 64 64 &&& pkgReg s pkg 0x28)) pkg 6)
    else .next s
  | _ => .fault .noEvent

/-- The keeper of a core: PRIV = 1, in slot 0, with its workspace at offset 0 (R181, R509). Its LFSR seed and its
other start registers are the model's choice (log 14, log 17). -/
def keeperCtx (s : State) (im : KeeperImage) : Ctx :=
  let f := kindForm (coreKind im.core)
  { alive := true, kind := .strand, core := im.core, slot := some 0, need := im.need,
    wsOn := coreKind im.core != .lcore, wsize := (512 + 4 * im.need + im.priv + 127) / 128 * 128,
    kernel := { kneed := im.need, wneed := im.need },
    lanes := [{ status := startStatus (seedOf (nodeId s im.core) 0 0) true f false 0, pc := pcBits f im.entry, ttb := im.ttb &&& 0xFFFFFFFFFFFFF000,
                b := tset 0 [] 6 im.b6 }] }

/-- A keeper starts, with TVEC set and class 0 enabled and bound to it (R217, R470). -/
def startKeeper (s : State) (im : KeeperImage) : State :=
  let k := im.core
  let s1 := setCoreReg (addCtx s (keeperCtx s im)) k 0x140 (im.tvec &&& 0xFFFFFFFFFFFFF000)
  let v := BitVec.ofNat 64 (0xD0000000 + im.log2n % 16 * 4096 + im.base % 4096)
  let buf := bufferPa s1 k im.ttb im.b6 true im.base im.log2n
  if classReason s1 k 0 v buf = 0 then setMcls (recordBuffer s1 k 0 buf) k 0 v else s1

/-- KEEPER_RELEASE (R470): the keepers of the loaded images start, and launches are accepted. -/
def execKeeperRelease (s : State) : Out :=
  match s.ev with
  | some (.keeperRelease pkg) =>
    if stage s pkg = 6 then
      let ims := (getPkg s pkg).images.filter fun im =>
        pkgOf im.core == pkg && !(getCore s im.core).retired
          && match engineKind im.core with | .core _ => true | _ => false
      .next (setStage (ims.foldl startKeeper s) pkg 7)
    else .next s
  | _ => .fault .noEvent

/-- A report, signed with the device's own key at a leaf index, with the signed identity of the device (R471). -/
def signReport (pkg index : Nat) (report : List Byte) : Attest :=
  { index, report, identity := Config.identity pkg,
    sig := padBytes 2820 (Config.xmssSign (Config.deviceKey pkg) index report) }

/-- ATTESTATION (R471, R472): the report is signed with the index 4,096 F + C, which is never used again; after the last index
the request is refused. -/
def execAttestation (s : State) : Out :=
  match s.ev with
  | some (.attestation pkg report) =>
    .next (modPkg s pkg fun p =>
      if 256 ≤ p.fuses then { p with attest := p.attest ++ [none] }
      else
        let q := { p with attest := p.attest ++ [some (signReport pkg (4096 * p.fuses + p.counter) report)] }
        if p.counter = 4095 then { q with fuses := p.fuses + 1, counter := 0 } else { q with counter := p.counter + 1 })
  | _ => .fault .noEvent

/-- BACKED_STORAGE_LOSS (R472): a fuse is blown, and the counter starts at 0. -/
def execBackedStorageLoss (s : State) : Out :=
  match s.ev with
  | some (.backedStorageLoss pkg) =>
    .next (modPkg s pkg fun p => { p with fuses := Nat.min 256 (p.fuses + 1), counter := 0 })
  | _ => .fault .noEvent

end Sys2Proof.Machine
end

