-- ==== Sys2Proof/Machine/Fabric.lean ====
section
/-! DEFINITION. The fabric and the host: requests from other packages, links, routes, the host proxy, host accesses and
the package register block (R476 to R486). -/

namespace Sys2Proof.Machine

open Sys2Proof

/-! ## Requests from another package (R147, R479, R480) -/

/-- Why a lane of a request is refused, as a vector and a reason: none where it passes. The homes of the issuer's own
package check their lanes at the same time (R147, R149). -/
def laneRefusal (s : State) (src : Nat) (task : BitVec 24) (core : Nat) (op : MemOp) (a : LaneAcc) : Option (Nat × Nat) :=
  let reason := if farFrom src a.pa then entryReason s src task a.pa (opBytes op) (opKind op) else 0
  match homeFail s core op a, reason with
  | some f, 0 => some (f.vector, f.reason)
  | none, 0 => none
  | _, r => some (15, r)

/-- The task of a request: that of its context, or of the FGET entry whose sector it reads. -/
def reqTask (s : State) (r : FabricReq) : BitVec 24 :=
  match r.acc.entry with
  | none => (getCtx s r.acc.ctx).task
  | some (q, id) => (((queueOf s q).find? fun e => e.id == id).map (·.task)).getD 0

/-- The lanes of a request that are refused. -/
def refusals (s : State) (r : FabricReq) : List (Nat × Nat × Nat) :=
  let x := getCtx s r.acc.ctx
  r.acc.lanes.filterMap fun a =>
    (laneRefusal s r.src (reqTask s r) (laneCore x a.lane) r.acc.op a).map fun v => (a.lane, v.1, v.2)

/-- The answer of a request goes back to its issuer. -/
def answerReq (s : State) (r : FabricReq) (refused : List (Nat × Nat × Nat)) (vals : List (Nat × Nat)) : State :=
  let bad := r.acc.op == .sector && r.acc.lanes.any fun a => memBad s a.pa 32
  pushFlight s [.accessPerformed { acc := r.acc, own := false, refused, vals, bad }]

/-- The lanes of a context that wait for an access arm their watch (R207, R479). -/
def armSpin (s : State) (a : Access) (w : Wait) : State :=
  modCtx s a.ctx fun x => modLanes x (allLanes x) fun l b =>
    if b.wait = .access ∧ (!x.split || a.lanes.any fun k => k.lane == l) = true then { b with wait := w } else b

/-- A request is of a relaxed load or atomic of an L-core: it is performed when its issuer has released it (R145, R147). -/
def performsLater (s : State) (a : Access) : Bool :=
  a.entry.isNone && coreKind (getCtx s a.ctx).core == .lcore && a.lanes.any fun k =>
    match (getLane (getCtx s a.ctx) k.lane).inst with
    | some i => landsLater i
    | none => false

/-- A request is checked, and performed when every lane has passed; a relaxed one of an L-core, after its release. -/
def performReq (s : State) (r : FabricReq) : State :=
  let a := r.acc
  let x := getCtx s a.ctx
  match refusals s r with
  | f :: fs => answerReq s r (f :: fs) []
  | [] =>
    if performsLater s a then answerReq s r [] []
    else
    let p := performLanes s (laneCore x) a.ctx a.op (accWords s a.op a.lanes)
    match a.op with
    | .spin w =>
      if spinSame w a.lanes p.2 then deactivate (armSpin p.1 a (.spin (spinLines a.lanes))) a.ctx 1
      else answerReq p.1 r [] p.2
    | _ => answerReq p.1 r [] p.2

/-- FABRIC_REQUEST_ARRIVAL (R480). A request of a context that has ended is not performed; a sector of an FGET entry does
not depend on its context. -/
def execFabricRequestArrival (s : State) : Out :=
  match s.ev with
  | some (.fabricRequestArrival r) =>
    .next (if (getCtx s r.acc.ctx).alive || r.acc.entry.isSome then performReq s r else s)
  | _ => .fault .noEvent

/-! ## Virtual channels (R344, R454, R477, R478) -/

/-- The virtual channel of a unit on its way (R477). Spawn records and wakes travel as messages of class 0 do (log 64); a
queue load of the own package, a relaxed store and a relaxed load that returns are accesses that R146 lets come in any
order. -/
def vcOf : Ev → Option Nat
  | .fabricRequestArrival _ | .queueLoadFill _ => some 0
  | .accessPerformed a => if a.own then none else some 1
  | .spawnAnswer _ _ _ _ | .launchAnswer _ _ _ | .journalRefusal _ _ _ | .spinWake _ _ _ => some 1
  | .journalEntryPerform _ _ => some 2
  | .coherence _ _ => some 3
  | .messageArrival m => some (if m.cls = 0 then 4 else 5)
  | .spawnRecordArrival _ | .wakeArrival _ | .killRequestArrival _ => some 4
  | _ => none

/-- An attached unit (R343, R454): that of an engine, a home slice, or the ports of a package. -/
inductive Port where
  | engine (k : Nat)
  | home (die : Nat) (slice : Nat × Nat)
  | ports (pkg : Nat)
  deriving DecidableEq, Repr

/-- The attached unit of an engine: the Truss or the Gable of a core. -/
def portOf (k : Nat) : Port :=
  match coreKind k with
  | .dcore | .lcore => .engine (trussOf k * 64)
  | .eave => .engine k

/-- The attached unit that serves an address. -/
def homePort (s : State) (pa : Nat) : Port := .home (homeDie s pa) (homeSlice pa)

/-- The slice that serves a line of another package in the package that holds it: that of R346 for the line's offset, on
the holder's die n div 96 (R482). -/
def servingPort (s : State) (line pkg : Nat) : Port :=
  homePort s (pkg * 2 ^ 44 + line * lineBytes % 2 ^ 44)

/-- The package of an attached unit. -/
def portPkg : Port → Nat
  | .engine k => pkgOf k
  | .home d _ => d / 4
  | .ports p => p

/-- The attached unit from which a lane of an access was issued: none where its context has ended. -/
def accPort (s : State) (a : Access) (lane : Nat) : Option Port :=
  match a.entry with
  | some (.copyE k, _) | some (.slice k, _) => some (portOf k)
  | some (.copyT t, _) | some (.matrix t, _) | some (.gather t, _) => some (portOf (t * 64))
  | none => if (getCtx s a.ctx).alive then some (portOf (coresOf s a.ctx lane)) else none

/-- The lanes of an access that lie in another package, with their attached units: the issuer's and the home. -/
def remoteEnds (s : State) (a : Access) : List (Port × Port) :=
  a.lanes.filterMap fun k =>
    (accPort s a k.lane).bind fun p => if farFrom (portPkg p) k.pa then some (p, homePort s k.pa) else none

/-- A unit that could not be reached has refused a lane (R483): its answer comes from the issuer's own package. -/
def cutOff (a : RemoteAns) : Bool := a.refused.any fun r => r.2 == (15, 5)

/-- The attached units between which a unit travels: where it comes from, and where it goes. -/
def unitEnds (s : State) : Ev → List (Port × Port)
  | .messageArrival m => [(portOf m.src, portOf m.dst)]
  | .spawnRecordArrival r => [(portOf r.src, portOf r.target)]
  | .wakeArrival k => [(portOf k.src, portOf k.target)]
  | .killRequestArrival k => (k.via.map fun p => (Port.ports p.1, Port.ports k.pkg)).toList
  | .fabricRequestArrival r => remoteEnds s r.acc
  | .accessPerformed a => if a.own || cutOff a then [] else (remoteEnds s a.acc).map fun e => (e.2, e.1)
  | .queueLoadFill q =>
    let k := coresOf s q.ctx q.lane
    if q.lost || !farFrom (pkgOf k) q.pa then [] else [(portOf k, homePort s q.pa)]
  | .journalEntryPerform core id =>
    (((getCore s core).journal.find? fun e => e.id == id && e.left.isNone).map fun e => (portOf core, homePort s e.pa)).toList
  | .journalRefusal core id r =>
    if r = 5 then []
    else (((getCore s core).journal.find? fun e => e.id == id).map fun e => (homePort s e.pa, portOf core)).toList
  | .spawnAnswer c l _ src =>
    if (getCtx s c).alive then [(portOf src, portOf (coresOf s c (l.getD 0)))] else []
  | .launchAnswer (.lane c l) _ src => if (getCtx s c).alive then [(portOf src, portOf (coresOf s c l))] else []
  | .launchAnswer (.purlin d _) _ src => [(portOf src, portOf (purlinKey d))]
  | .spinWake c l line =>
    if (getCtx s c).alive && farFrom (pkgOf (coresOf s c l)) (line * lineBytes) then
      [(homePort s (line * lineBytes), portOf (coresOf s c l))]
    else []
  | .coherence line p => [(homePort s (line * lineBytes), servingPort s line p)]
  | _ => []

/-- A message that the order of its class holds has arrived, and waits at its destination. -/
def heldByStream (s : State) : Ev → Bool
  | .messageArrival m => streamBlocked s m
  | _ => false

/-- Messages of a class with ORD none have no order of delivery, whatever their order on the way (R220). -/
def unordered (s : State) : Ev → Bool
  | .messageArrival m => mcOrd (mcls s m.dst m.cls) == 0
  | _ => false

/-- Two units travel on one channel between the same attached units. -/
def samePath (s : State) (b e : Ev) : Bool :=
  (vcOf e).isSome && vcOf b == vcOf e && (unitEnds s b).any fun p => (unitEnds s e).contains p

/-- A unit that was sent earlier on the same channel, between the same attached units, has not arrived (R344, R454,
R478). -/
def channelHeld (s : State) (earlier : List Ev) (e : Ev) : Bool :=
  !unordered s e && earlier.any fun b => !heldByStream s b && samePath s b e

/-! ## Links and flits (R476) -/

/-- The link of a package by which a unit for another package leaves, where a route is up (R478). -/
def linkTo (s : State) (pkg dst : Nat) : Option Nat :=
  if pkg = dst ∨ (froute s pkg dst).getLsbD 7 = false then none else some ((froute s pkg dst).toNat % 16)

/-- Sets a byte of FROUTE. -/
def setFroute (s : State) (pkg dst : Nat) (v : Byte) : State :=
  let off := 0x100 + dst % 256 / 8 * 8
  setPkgReg s pkg off (setFld (pkgReg s pkg off) (dst % 8 * 8) 8 v.toNat)

/-- A link of a package, and a change of it. -/
def getLink (s : State) (pkg link : Nat) : Link := tget {} (getPkg s pkg).links link
def modLink (s : State) (pkg link : Nat) (f : Link → Link) : State :=
  modPkg s pkg fun p => { p with links := tset {} p.links link (f (tget {} p.links link)) }

/-- The 248 bytes of a flit before its CRC: SEQ, ACK and the credits, and three slots of 80 bytes (R476). -/
def flitBytes (seq ack : Nat) (credits : Word) (slots : List FlitSlot) : List Byte :=
  let slot (k : Nat) : List Byte := padBytes 80 (((slots.drop k).head?.map fun e => Config.slotBytes e.unit).getD [])
  leBytes 8 (seq % 4096 + ack % 4096 * 2 ^ 12 + credits.toNat * 2 ^ 24) ++ slot 0 ++ slot 1 ++ slot 2

/-- A flit with its CRC. -/
def mkFlit (seq ack : Nat) (credits : Word) (slots : List FlitSlot) : Flit :=
  { seq, ack, credits, slots, crc := Config.crc64 (flitBytes seq ack credits slots) }

/-- The CRC of a flit holds. -/
def crcOk (f : Flit) : Bool := f.crc == Config.crc64 (flitBytes f.seq f.ack f.credits f.slots)

/-- The credits of a channel that a flit returns: at most 15. -/
def backOf (k : Link) (v : Nat) : Nat := Nat.min 15 (tget 0 k.back v)

/-- A package sends a flit by a link: with the last SEQ that it has received, and the credits that it owes. The flit is kept
until it is acknowledged. -/
def sendFlit (s : State) (pkg link : Nat) (slots : List FlitSlot) : State :=
  match Config.wire pkg link with
  | none => s
  | some (q, ql) =>
    let k := getLink s pkg link
    let credits := (List.range 8).foldl (fun n v => n + backOf k v * 2 ^ (4 * v)) 0
    let f := mkFlit k.seq ((k.recv + 4095) % 4096) (BitVec.ofNat 32 credits) slots
    pushFlight (modLink s pkg link fun e =>
      { e with seq := (e.seq + 1) % 4096, frames := e.frames ++ [f], owed := false,
               back := (List.range 8).foldl (fun t v => tset 0 t v (tget 0 t v - backOf k v)) e.back,
               sent := slots.foldl (fun t u => tset 0 t u.vc (tget 0 t u.vc + 1)) e.sent }) [.flitReceive q ql f]

/-- The credits that a flit returns: 4 bits for each virtual channel (R476). -/
def takeCredits (f : Flit) (l : Link) : Link :=
  { l with credits := (List.range 8).foldl (fun t v => tset 0 t v (tget 0 t v + fld (f.credits.setWidth 64) (4 * v) 4)) l.credits }

/-- The flits that an ACK does not cover: those after the flit that it names, or all where it names none of them. -/
def unacked (ack : Nat) (l : List Flit) : List Flit :=
  match l.dropWhile fun f => f.seq != ack with
  | [] => l
  | _ :: t => t

/-- The units of a flit have come to a package over a link. -/
def landUnits (s : State) (pkg link : Nat) (f : Flit) : State :=
  { s with journeys := s.journeys.map fun j =>
      if j.out.isSome && f.slots.any fun u => u.unit == j.id then { j with place := pkg, came := some link, out := none } else j }

/-- FLIT_RECEIVE (R467, R476): a flit with a bad CRC is dropped, with every later one until the sender replays; a flit that
the receiver already holds is discarded. Its ACK frees what the sender holds, and the link is up (log 52). A flit that is
dropped is a corrected error of its link (log 151). -/
def execFlitReceive (s : State) : Out :=
  match s.ev with
  | some (.flitReceive pkg link f) =>
    let k := getLink s pkg link
    if !crcOk f then .next (countSoft (modLink s pkg link fun l => { l with dropping := true }) (.link pkg link) 1)
    else if f.seq ≠ k.recv then .next s
    else
      let s1 := modLink s pkg link fun l => takeCredits f
        { l with dropping := false, failed := false, recv := (l.recv + 1) % 4096, frames := unacked f.ack l.frames,
                 owed := l.owed || !f.slots.isEmpty }
      .next (landUnits (setPkgReg s1 pkg 0x70 (setFld (pkgReg s1 pkg 0x70) link 1 1)) pkg link f)
  | _ => .fault .noEvent

/-- FLIT_REPLAY (R476): the sender sends its flits again, from the first that was not acknowledged. -/
def execFlitReplay (s : State) : Out :=
  match s.ev with
  | some (.flitReplay pkg link ack) =>
    let s1 := modLink s pkg link fun l => { l with frames := unacked ack l.frames }
    .next (match Config.wire pkg link with
      | none => s1
      | some (q, ql) => pushFlight s1 ((getLink s1 pkg link).frames.map fun f => .flitReceive q ql f))
  | _ => .fault .noEvent

/-! ## The way of a unit through the fabric (R477, R478, R483) -/

/-- The packages between which a unit crosses links: where it comes from and where it goes. -/
def legs (s : State) (e : Ev) : List (Nat × Nat) :=
  match vcOf e with
  | none => []
  | some _ => (((unitEnds s e).map fun p => (portPkg p.1, portPkg p.2)).filter fun p => p.1 != p.2).dedup

/-- The journey of a unit from one package to another. -/
def isJourney (e : Ev) (g : Nat × Nat) (j : Journey) : Bool := j.src == g.1 && j.dst == g.2 && j.unit == e

/-- The package that a unit stands in on its way: none while a flit carries it. -/
def placeOf (s : State) (e : Ev) (g : Nat × Nat) : Option Nat :=
  match s.journeys.find? (isJourney e g) with
  | none => some g.1
  | some j => match j.out with
    | none => some j.place
    | some _ => none

/-- The unit has reached every package that it goes to. -/
def reached (s : State) (e : Ev) : Bool := (legs s e).all fun g => placeOf s e g == some g.2

/-- The link by which a unit leaves the package that it stands in: a kill or clear request by the link that it spreads
over (R256), any other by that package's own route; none where it is unreachable (R478). -/
def outLink (s : State) (e : Ev) (p dst : Nat) : Option Nat :=
  match e with
  | .killRequestArrival k => k.via.map (·.2)
  | _ => linkTo s p dst

/-- A channel of a link has a credit left, and the link can hold one more flit (R476, R477). -/
def creditOk (s : State) (p link v : Nat) : Bool :=
  let l := getLink s p link
  decide (tget 0 l.sent v < Config.linkCredits v + tget 0 l.credits v) && decide (l.frames.length < 4095)
    && (Config.wire p link).isSome

/-- A unit may leave the package that it stands in: units of one channel between the same attached units leave in the order
in which they were sent, and none before a change of its route that waits for those ahead of it (R478). -/
def mayLeave (s : State) (earlier : List Ev) (e : Ev) (g : Nat × Nat) (p : Nat) : Bool :=
  !heldByStream s e
    && !(earlier.any fun b => match b with
      | .routeChange q d _ => q == p && d == g.2
      | _ => !heldByStream s b && samePath s b e && (legs s b).contains g && placeOf s b g == some p)
    && match outLink s e p g.2 with
      | none => true
      | some l => creditOk s p l ((vcOf e).getD 7)

/-- A unit is out of a package's buffer: the credit that it took goes back over the link that it came by (R477). -/
def returnCredit (s : State) (e : Ev) (j : Journey) : State :=
  match j.came with
  | none => s
  | some l => modLink s j.place l fun k =>
      { k with back := tset 0 k.back ((vcOf e).getD 7) (tget 0 k.back ((vcOf e).getD 7) + 1), owed := true }

/-- The journeys of a unit are over. -/
def endJourneys (s : State) (e : Ev) : State :=
  (legs s e).foldl (fun z g =>
    match z.journeys.find? (isJourney e g) with
    | none => z
    | some j => returnCredit { z with journeys := z.journeys.erase j } e j) s

/-- A unit leaves a package by a link, in a flit of its own (log 64). -/
def sendUnit (s : State) (e : Ev) (g : Nat × Nat) (p link : Nat) : State :=
  let v := (vcOf e).getD 7
  match s.journeys.find? (isJourney e g) with
  | some j =>
    let s1 := returnCredit s e j
    sendFlit { s1 with journeys := s1.journeys.map fun k => if k = j then { j with out := some link } else k } p link
      [{ vc := v, unit := j.id }]
  | none =>
    let j : Journey := { id := s.nextJourney, unit := e, src := g.1, dst := g.2, place := p, out := some link }
    sendFlit { s with journeys := s.journeys ++ [j], nextJourney := s.nextJourney + 1 } p link [{ vc := v, unit := j.id }]

/-- The lanes of an access that another package would serve, refused as unreachable. -/
def cutLanes (src dst : Nat) (a : Access) : List (Nat × Nat × Nat) :=
  a.lanes.filterMap fun k => if farFrom src k.pa && paPkg k.pa == dst then some (k.lane, 15, 5) else none

/-- A unit that has left the flight cannot reach a package: a non-posted access raises vector 15 with reason 5, a journal
entry is refused with reason 5, and a message comes back as a notice with reason 3 (R483); a SPIN is woken, an answer that
is awaited has a value that is not stated, and a wake, a kill or a recall is lost (log 51). -/
def refuseUnit (s : State) (e : Ev) (g : Nat × Nat) : State :=
  match e with
  | .messageArrival m => nonDelivery s m 3
  | .spawnRecordArrival r =>
    pushFlight s [.spawnAnswer r.ctx r.lane ((Config.freeValue s.free 35).toNat % 2 ^ 32) r.src]
  | .fabricRequestArrival r => answerReq s r (cutLanes g.1 g.2 r.acc) []
  | .accessPerformed a => pushFlight s [.accessPerformed { a with refused := cutLanes g.2 g.1 a.acc, vals := [] }]
  | .queueLoadFill q => pushFlight s [.queueLoadFill { q with lost := true }]
  | .journalEntryPerform core id | .journalRefusal core id _ => pushDue s [.journalRefusal core id 5]
  | .spawnAnswer c l _ _ =>
    pushFlight s [.spawnAnswer c l ((Config.freeValue s.free 35).toNat % 2 ^ 32) (getCtx s c).core]
  | .launchAnswer (.lane c l) _ _ =>
    pushFlight s [.launchAnswer (.lane c l) (Config.freeValue s.free 34).toNat (getCtx s c).core]
  | .launchAnswer (.purlin d n) v _ => pushFlight s [.launchAnswer (.purlin d n) v (purlinKey d)]
  | .spinWake c l _ => endWait s c l 0
  | _ => s

/-- A unit is refused on its way: it is delivered exactly once or refused, never both (R483). -/
def unreachable (s : State) (e : Ev) (g : Nat × Nat) : State :=
  if s.flight.contains e then refuseUnit (endJourneys { s with flight := s.flight.erase e } e) e g else s

/-- The units of a package that wait for a link, or that a flit of it carries that the other side has not taken: each with
the packages between which it goes (log 51). -/
def queuedOn (s : State) (pkg link : Nat) : List (Ev × Nat × Nat) :=
  s.flight.flatMap fun e => ((legs s e).filter fun g =>
    match s.journeys.find? (isJourney e g) with
    | some j => j.place == pkg && pkg != g.2 && (match j.out with | some l => l == link | none => outLink s e pkg g.2 == some link)
    | none => g.1 == pkg && outLink s e pkg g.2 == some link).map fun g => (e, g.1, g.2)

/-- LINK_FAILURE (R483): V is cleared for every package over the link, and each unit that is queued for it and that the other
side has not taken is refused. -/
def execLinkFailure (s : State) : Out :=
  match s.ev with
  | some (.linkFailure pkg link) =>
    let gone := queuedOn s pkg link
    let lost (e : Ev) : Bool := match e with
      | .flitReceive q ql _ => Config.wire pkg link == some (q, ql)
      | _ => false
    let over_ := (List.range 256).filter fun d => linkTo s pkg d == some link
    let s1 := over_.foldl (fun z d => setFroute z pkg d (froute z pkg d &&& 0x7F))
      { s with flight := s.flight.filter fun e => !lost e }
    let s2 := modLink (setPkgReg s1 pkg 0x70 (setFld (pkgReg s1 pkg 0x70) link 1 0)) pkg link fun l =>
      { l with failed := true, frames := [] }
    .next (gone.foldl (fun z u => unreachable z u.1 u.2) s2)
  | _ => .fault .noEvent

/-- A unit for a package stands in another, where it would leave by that package's route. -/
def queuedFor (s : State) (pkg dst : Nat) (e : Ev) : Bool :=
  (legs s e).any fun g => g.2 == dst && placeOf s e g == some pkg

/-- ROUTE_CHANGE (R478, R485): the management processor writes a byte of FROUTE, whose bits 6:4 are reserved; not before the
units that are queued for the old link have left. -/
def execRouteChange (s : State) : Out :=
  match s.ev with
  | some (.routeChange pkg dst v) =>
    .next (if s.flight.any (queuedFor s pkg dst) then pushFlight s [.routeChange pkg dst v]
      else setFroute s pkg dst (v &&& 0x8F))
  | _ => .fault .noEvent

/-! ## The host (R484 to R486) -/

/-- The 64 bytes of a message in the host's ring; one that carries a node record of 64 bytes is that record (R382, log 37). -/
def ringBytes (s : State) (m : Msg) : List Byte :=
  if m.payload.length = 64 then m.payload else headerBytes s m ++ padBytes 48 m.payload

/-- HOST_PROXY_DELIVERY (R486): no ring, a full ring, or 64 bytes in the host's memory and an MSI-X vector. -/
def execHostProxyDelivery (s : State) : Out :=
  match s.ev with
  | some (.hostProxyDelivery m) =>
    let pkg := pkgOf m.dst
    let ctl := pkgReg s pkg 0x48
    let size := 2 ^ (6 + fld ctl 0 4)
    let head := fld (pkgReg s pkg 0x50) 0 32
    let tail := fld (pkgReg s pkg 0x54) 0 32
    if !ctl.getLsbD 31 then .next (nonDelivery s m 1)
    else if (head + 1) % size = tail % size then .next (holdSend s m)
    else
      let s1 := storeHome (stampTake (unsend s m) m.dst m.stamp) (hostPa pkg ((pkgReg s pkg 0x40).toNat + 64 * head))
        (ringBytes s m)
      let s2 := setPkgReg s1 pkg 0x50 (BitVec.ofNat 64 ((head + 1) % size))
      let s3 := modPkg s2 pkg fun p => { p with msix := p.msix ++ [m.cls] }
      .next (match m.who with
        | .nobody => s3
        | w => pushFlight s3 [.launchAnswer w 1 m.dst])
  | _ => .fault .noEvent

/-- What the host has read (R484). -/
def hostRead (s : State) (pkg : Nat) (bs : List Byte) : State := modPkg s pkg fun p => { p with reads := p.reads ++ [bs] }

/-- The register of the package register block that holds the byte at an offset (R485). -/
def regOf (off : Nat) : Nat := if (0x50 ≤ off ∧ off < 0x58) ∨ (0x60 ≤ off ∧ off < 0x70) then off / 4 * 4 else off / 8 * 8

/-- Bytes of the package register block, as the host reads them. -/
def regBytes (s : State) (pkg off n : Nat) : List Byte :=
  (List.range n).map fun k => (pkgReg s pkg (regOf (off + k))).extractLsb' (8 * (off + k - regOf (off + k))) 8

/-- Bytes of BAR0 as the host reads them (R225, R484): a window reads as 0, and so does what no register holds (log 152). -/
def barBytes (s : State) (pkg off n : Nat) : List Byte :=
  if 0x400000 ≤ off ∧ off < 0x410000 then regBytes s pkg (off - 0x400000) n else List.replicate n 0

/-- HOST_MEM_ACCESS (R484): a host access through CXL.mem is performed at the home of each byte; a read of BAR0 returns what
its windows and registers hold. -/
def execHostMemAccess (s : State) : Out :=
  match s.ev with
  | some (.hostMemAccess pa bytes) =>
    if bytes.isEmpty ∨ targetOf pa ≠ .hbm ∨ targetOf (pa + bytes.length - 1) ≠ .hbm then .next s
    else .next (storeHome s pa bytes)
  | some (.hostMemRead pkg pa n) =>
    if n = 0 ∨ targetOf pa ≠ .hbm ∨ targetOf (pa + n - 1) ≠ .hbm then .next s
    else .next (hostRead s pkg (memBytes s pa n))
  | some (.bar0Read pkg off n) => .next (hostRead s pkg (barBytes s pkg off n))
  | _ => .fault .noEvent

/-- The bits of a package register that the host writes (R485). FEATREQ and FIMP are written in halves of 64 bits. -/
def hostMask (s : State) (pkg off : Nat) : DWord :=
  match off with
  | 0x08 => if stage s pkg = 7 then 0 else 0xFF
  | 0x20 | 0x28 => 0xFFFFFFFFFFFFFFFF
  | 0x40 => 0xFFFFFFFFFFFFF000
  | 0x48 => 0x8000000F
  | 0x54 | 0x68 => 0xFFFFFFFF
  | 0x58 => 0xFFFFFFFFFFFF0000
  | 0x60 => 0x8000001F
  | _ =>
    if 0x1000 ≤ off ∧ off < 0x1400 ∧ off % 16 = 0 then 0x00000FFFFFFFF01F
    else if 0x1000 ≤ off ∧ off < 0x1400 ∧ off % 16 = 8 then 0xFF3F
    else 0

/-- The host writes a package register: the bits that it may write. -/
def hostWrite (s : State) (pkg off : Nat) (m v : DWord) : State :=
  if m = 0 then s else setPkgReg s pkg off ((pkgReg s pkg off &&& ~~~m) ||| (v &&& m))

/-- The host writes bytes from an offset of the package register block. -/
def hostBytes (s : State) (pkg : Nat) : Nat → List Byte → State
  | _, [] => s
  | off, b :: bs =>
    let r := regOf off
    let at_ := 8 * (off - r)
    hostBytes (hostWrite s pkg r (hostMask s pkg r &&& (0xFF : DWord) <<< at_) (b.setWidth 64 <<< at_)) pkg (off + 1) bs

/-- HOST_REGISTER_WRITE (R484, R485): a register, or bytes at an offset of BAR0 in the register block. -/
def execHostRegisterWrite (s : State) : Out :=
  match s.ev with
  | some (.hostRegisterWrite pkg off v) => .next (hostWrite s pkg off (hostMask s pkg off) v)
  | some (.bar0Write pkg off bytes) =>
    .next (if 0x400000 ≤ off ∧ off + bytes.length ≤ 0x410000 then hostBytes s pkg (off - 0x400000) bytes else s)
  | _ => .fault .noEvent

end Sys2Proof.Machine
end

