-- ==== Sys2Proof/Machine/Integer.lean ====
section
/-! DEFINITION. The integer instructions (R93 to R106, R116, R117): each is one function of its operands. -/

namespace Sys2Proof.Machine

open Sys2Proof

/-! ## Functions of a width -/

/-- Clamps an integer to the signed range of a width (R96). -/
def clampSigned (w : Nat) (v : Int) : Int :=
  if v < -(2 ^ (w - 1)) then -(2 ^ (w - 1)) else if 2 ^ (w - 1) - 1 < v then 2 ^ (w - 1) - 1 else v

/-- ADDS and SUBS (R96). -/
def addSat (n : Nat) (a b : BitVec n) : BitVec n := BitVec.ofInt n (clampSigned n (a.toInt + b.toInt))
def subSat (n : Nat) (a b : BitVec n) : BitVec n := BitVec.ofInt n (clampSigned n (a.toInt - b.toInt))

/-- The quotient of R100. -/
def divQ (signed : Bool) (n : Nat) (a b : BitVec n) : BitVec n :=
  if b = 0 then BitVec.allOnes n
  else if signed then BitVec.ofInt n (a.toInt.tdiv b.toInt)
  else a / b

/-- The remainder of R100. -/
def divR (signed : Bool) (n : Nat) (a b : BitVec n) : BitVec n :=
  if b = 0 then a
  else if signed then BitVec.ofInt n (a.toInt.tmod b.toInt)
  else a % b

/-- The high half of a product (R99). -/
def mulHi (signed : Bool) (n : Nat) (a b : BitVec n) : BitVec n :=
  if signed then BitVec.ofInt n (a.toInt * b.toInt / 2 ^ n) else BitVec.ofNat n (a.toNat * b.toNat / 2 ^ n)

/-- The smaller or the larger of two values (R96). -/
def pick (signed max : Bool) (n : Nat) (a b : BitVec n) : BitVec n :=
  let less := if signed then a.slt b else a.ult b
  if less != max then a else b

/-- Leading zeros of the low n bits (R102). -/
def leadZeros (v : DWord) : Nat → Nat
  | 0 => 0
  | n + 1 => if v.getLsbD n then 0 else 1 + leadZeros v n

/-- Trailing zeros, from bit i, of n more bits (R102). -/
def trailZeros (v : DWord) (i : Nat) : Nat → Nat
  | 0 => 0
  | n + 1 => if v.getLsbD i then 0 else 1 + trailZeros v (i + 1) n

/-- The 1 bits among the low n bits (R102). -/
def popCount (v : DWord) : Nat → Nat
  | 0 => 0
  | n + 1 => (if v.getLsbD n then 1 else 0) + popCount v n

/-- Bit i of the low n bits goes to bit n-1-i (R102). -/
def revBits (v : DWord) : Nat → DWord
  | 0 => 0
  | n + 1 => (revBits v n <<< 1) ||| (if v.getLsbD n then 1 else 0)

/-- Byte i of the low n bytes goes to byte n-1-i (R102). -/
def revBytes (v : DWord) : Nat → DWord
  | 0 => 0
  | n + 1 => (revBytes v n <<< 8) ||| ((v >>> (8 * n)) &&& 0xFF)

/-- The bits of a width. -/
def widthBits : Width → Nat
  | .w32 => 32
  | .w64 => 64

/-- A field of `f` bits at `pos` (R103): the mask of its bits. -/
def lowMask (f : Nat) : Word := BitVec.ofNat 32 (2 ^ f - 1)
def fieldPos (o : Opnds) : Nat := (o.imm.extractLsb' 0 5).toNat
def fieldLen (o : Opnds) : Nat := Nat.min ((o.imm.extractLsb' 5 5).toNat + 1) (32 - fieldPos o)

/-- BFX and BFXN (R103). -/
def bitField (signed : Bool) (o : Opnds) (v : Word) : Word :=
  let f := fieldLen o
  let t := (v >>> fieldPos o) &&& lowMask f
  if signed && t.getLsbD (f - 1) then t ||| ~~~ lowMask f else t

/-- BFI (R103). -/
def bitInsert (o : Opnds) (x v : Word) : Word :=
  let m := lowMask (fieldLen o) <<< fieldPos o
  (x &&& ~~~ m) ||| ((v <<< fieldPos o) &&& m)

/-- Rotates by n of 0 to 31 (R101). -/
def rotL (v : Word) (n : Nat) : Word := (v <<< n) ||| (v >>> (32 - n))
def rotR (v : Word) (n : Nat) : Word := (v >>> n) ||| (v <<< (32 - n))

/-- A 32-bit operation on the low halves of two operands. -/
def on32 (f : Word → Word → Word) (v : Vals) : DWord := (f (v.s1.setWidth 32) (v.s2.setWidth 32)).setWidth 64

/-- A shift or rotate by s2[4:0] (R101). -/
def shiftReg (f : Word → Nat → Word) (v : Vals) : DWord :=
  (f (v.s1.setWidth 32) (v.s2.extractLsb' 0 5).toNat).setWidth 64

/-- An instruction of class I or IX: x becomes a function of x and of the operands' immediate. -/
def runImm (i : Instr) (s : State) (f : Word → Word → Word) : Out :=
  runLanes i s fun _ a v => putX i ((f (v.x.setWidth 32) (imm32 i.opnds)).setWidth 64) a

/-- A shift or rotate by imm[4:0] (R101). -/
def shiftImm (i : Instr) (s : State) (f : Word → Nat → Word) : Out :=
  runImm i s fun x n => f x (n.extractLsb' 0 5).toNat

/-- A skip (R106, R107): where it holds, the lane's annul count becomes n. -/
def runSkip (i : Instr) (s : State) (holds : Lane → Vals → Bool) : Out :=
  runLanes i s fun _ a v => if holds a v then { a with annul := i.opnds.g.cnt.toNat + 1 } else a

/-! ## Instructions -/

/-- MOV (R93). -/
def execMov (o : Opnds) (s : State) : Out :=
  runVal (.mov o) s fun v => v.s2

/-- MOVI (R93). -/
def execMovi (o : Opnds) (s : State) : Out :=
  runImm (.movi o) s fun _ n => n

/-- ADD (R96). -/
def execAdd (o : Opnds) (s : State) : Out :=
  runVal (.add o) s (on32 (· + ·))

/-- ADDI (R97). -/
def execAddi (o : Opnds) (s : State) : Out :=
  runImm (.addi o) s (· + ·)

/-- SUB (R96). -/
def execSub (o : Opnds) (s : State) : Out :=
  runVal (.sub o) s (on32 (· - ·))

/-- AND (R96). -/
def execAnd (o : Opnds) (s : State) : Out :=
  runVal (.and o) s (on32 (· &&& ·))

/-- OR (R96). -/
def execOr (o : Opnds) (s : State) : Out :=
  runVal (.or o) s (on32 (· ||| ·))

/-- XOR (R96). -/
def execXor (o : Opnds) (s : State) : Out :=
  runVal (.xor o) s (on32 (· ^^^ ·))

/-- NOT (R96). -/
def execNot (o : Opnds) (s : State) : Out :=
  runVal (.not o) s (on32 fun _ b => ~~~ b)

/-- SHL by a register (R101). -/
def execShlReg (o : Opnds) (s : State) : Out :=
  runVal (.shlReg o) s (shiftReg (· <<< ·))

/-- SHL by an immediate (R101). -/
def execShlImm (o : Opnds) (s : State) : Out :=
  shiftImm (.shlImm o) s (· <<< ·)

/-- SHR by a register (R101). -/
def execShrReg (o : Opnds) (s : State) : Out :=
  runVal (.shrReg o) s (shiftReg (· >>> ·))

/-- SHR by an immediate (R101). -/
def execShrImm (o : Opnds) (s : State) : Out :=
  shiftImm (.shrImm o) s (· >>> ·)

/-- SAR by a register (R101). -/
def execSarReg (o : Opnds) (s : State) : Out :=
  runVal (.sarReg o) s (shiftReg (BitVec.sshiftRight · ·))

/-- SAR by an immediate (R101). -/
def execSarImm (o : Opnds) (s : State) : Out :=
  shiftImm (.sarImm o) s (BitVec.sshiftRight · ·)

/-- ROL by a register (R101). -/
def execRolReg (o : Opnds) (s : State) : Out :=
  runVal (.rolReg o) s (shiftReg rotL)

/-- ROL by an immediate (R101). -/
def execRolImm (o : Opnds) (s : State) : Out :=
  shiftImm (.rolImm o) s rotL

/-- ROR by a register (R101). -/
def execRorReg (o : Opnds) (s : State) : Out :=
  runVal (.rorReg o) s (shiftReg rotR)

/-- ROR by an immediate (R101). -/
def execRorImm (o : Opnds) (s : State) : Out :=
  shiftImm (.rorImm o) s rotR

/-- SKP: gx is compared with gy, the y field in both forms (R106). -/
def execSkp (c : Cond) (o : Opnds) (s : State) : Out :=
  runSkip (.skp c o) s fun a _ => condHolds c (laneReg a o.x.toNat) (laneReg a o.y.toNat)

/-- SKPI (R106). -/
def execSkpi (c : Cond) (o : Opnds) (s : State) : Out :=
  runSkip (.skpi c o) s fun a _ => condHolds c (laneReg a o.x.toNat) (imm32 o)

/-- SKB.set: k is the y field (R106). -/
def execSkbSet (o : Opnds) (s : State) : Out :=
  runSkip (.skbSet o) s fun a _ => (laneReg a o.x.toNat).getLsbD o.y.toNat

/-- SKB.clr (R106). -/
def execSkbClr (o : Opnds) (s : State) : Out :=
  runSkip (.skbClr o) s fun a _ => !(laneReg a o.x.toNat).getLsbD o.y.toNat

/-- NOP (R117). -/
def execNop (o : Opnds) (s : State) : Out :=
  runLanes (.nop o) s fun _ a _ => a

/-- LEA (R95). -/
def execLea (o : Opnds) (s : State) : Out :=
  runLanes (.lea o) s fun _ a _ => setLanePair o.x.toNat (memAddr o a) a

/-- ADC: the carry or borrow stands in bit 0 of g[x+1] (R98). -/
def execAdc (o : Opnds) (s : State) : Out :=
  runLanes (.adc o) s fun _ a v =>
    let t := (v.s1.setWidth 32 : Word).toNat + (v.s2.setWidth 32 : Word).toNat + (v.x.getLsbD 32).toNat
    setLanePair o.x.toNat ((if 2 ^ 32 ≤ t then 1 else 0 : Word) ++ BitVec.ofNat 32 t) a

/-- SBC: the carry or borrow stands in bit 0 of g[x+1] (R98). -/
def execSbc (o : Opnds) (s : State) : Out :=
  runLanes (.sbc o) s fun _ a v =>
    let t : Int := (v.s1.setWidth 32 : Word).toNat - (v.s2.setWidth 32 : Word).toNat - (v.x.getLsbD 32).toNat
    setLanePair o.x.toNat ((if t < 0 then 1 else 0 : Word) ++ BitVec.ofInt 32 t) a

/-- ADDS (R96). -/
def execAdds (w : Width) (o : Opnds) (s : State) : Out :=
  runVal (.adds w o) s fun v => atWidth w addSat v.s1 v.s2

/-- SUBS (R96). -/
def execSubs (w : Width) (o : Opnds) (s : State) : Out :=
  runVal (.subs w o) s fun v => atWidth w subSat v.s1 v.s2

/-- MUL (R99). -/
def execMul (w : Width) (o : Opnds) (s : State) : Out :=
  runVal (.mul w o) s fun v => atWidth w (fun _ a b => a * b) v.s1 v.s2

/-- MULH (R99). -/
def execMulh (w : Width) (o : Opnds) (s : State) : Out :=
  runVal (.mulh w o) s fun v => atWidth w (mulHi true) v.s1 v.s2

/-- MULHN (R99). -/
def execMulhn (w : Width) (o : Opnds) (s : State) : Out :=
  runVal (.mulhn w o) s fun v => atWidth w (mulHi false) v.s1 v.s2

/-- MULW: the whole signed product, in a pair or a quad (R99). -/
def execMulw (w : Width) (o : Opnds) (s : State) : Out :=
  runLanes (.mulw w o) s fun _ a v =>
    match w with
    | .w32 => setLanePair o.x.toNat (BitVec.ofInt 64 ((v.s1.setWidth 32 : Word).toInt * (v.s2.setWidth 32 : Word).toInt)) a
    | .w64 => setLaneQuad o.x.toNat (BitVec.ofInt 128 (v.s1.toInt * v.s2.toInt)) a

/-- DIV (R100). -/
def execDiv (w : Width) (o : Opnds) (s : State) : Out :=
  runVal (.div w o) s fun v => atWidth w (divQ true) v.s1 v.s2

/-- DIVN (R100). -/
def execDivn (w : Width) (o : Opnds) (s : State) : Out :=
  runVal (.divn w o) s fun v => atWidth w (divQ false) v.s1 v.s2

/-- REM (R100). -/
def execRem (w : Width) (o : Opnds) (s : State) : Out :=
  runVal (.rem w o) s fun v => atWidth w (divR true) v.s1 v.s2

/-- REMN (R100). -/
def execRemn (w : Width) (o : Opnds) (s : State) : Out :=
  runVal (.remn w o) s fun v => atWidth w (divR false) v.s1 v.s2

/-- MIN (R96). -/
def execMin (w : Width) (o : Opnds) (s : State) : Out :=
  runVal (.min w o) s fun v => atWidth w (pick true false) v.s1 v.s2

/-- MAX (R96). -/
def execMax (w : Width) (o : Opnds) (s : State) : Out :=
  runVal (.max w o) s fun v => atWidth w (pick true true) v.s1 v.s2

/-- MINN (R96). -/
def execMinn (w : Width) (o : Opnds) (s : State) : Out :=
  runVal (.minn w o) s fun v => atWidth w (pick false false) v.s1 v.s2

/-- MAXN (R96). -/
def execMaxn (w : Width) (o : Opnds) (s : State) : Out :=
  runVal (.maxn w o) s fun v => atWidth w (pick false true) v.s1 v.s2

/-- ABS (R96). -/
def execAbs (w : Width) (o : Opnds) (s : State) : Out :=
  runVal (.abs w o) s fun v => atWidth w (fun _ _ b => if b.msb then 0 - b else b) v.s1 v.s2

/-- NEG (R96). -/
def execNeg (w : Width) (o : Opnds) (s : State) : Out :=
  runVal (.neg w o) s fun v => atWidth w (fun _ _ b => 0 - b) v.s1 v.s2

/-- ANDN (R96). -/
def execAndn (w : Width) (o : Opnds) (s : State) : Out :=
  runVal (.andn w o) s fun v => atWidth w (fun _ a b => a &&& ~~~ b) v.s1 v.s2

/-- ORN (R96). -/
def execOrn (w : Width) (o : Opnds) (s : State) : Out :=
  runVal (.orn w o) s fun v => atWidth w (fun _ a b => a ||| ~~~ b) v.s1 v.s2

/-- CLZ (R102). -/
def execClz (w : Width) (o : Opnds) (s : State) : Out :=
  runVal (.clz w o) s fun v => BitVec.ofNat 64 (leadZeros v.s2 (widthBits w))

/-- CTZ (R102). -/
def execCtz (w : Width) (o : Opnds) (s : State) : Out :=
  runVal (.ctz w o) s fun v => BitVec.ofNat 64 (trailZeros v.s2 0 (widthBits w))

/-- POPC (R102). -/
def execPopc (w : Width) (o : Opnds) (s : State) : Out :=
  runVal (.popc w o) s fun v => BitVec.ofNat 64 (popCount v.s2 (widthBits w))

/-- BREV (R102). -/
def execBrev (w : Width) (o : Opnds) (s : State) : Out :=
  runVal (.brev w o) s fun v => revBits v.s2 (widthBits w)

/-- BSWP (R102). -/
def execBswp (w : Width) (o : Opnds) (s : State) : Out :=
  runVal (.bswp w o) s fun v => revBytes v.s2 (widthBits w / 8)

/-- BFX (R103). -/
def execBfx (o : Opnds) (s : State) : Out :=
  runVal (.bfx o) s (on32 fun _ b => bitField true o b)

/-- BFXN (R103). -/
def execBfxn (o : Opnds) (s : State) : Out :=
  runVal (.bfxn o) s (on32 fun _ b => bitField false o b)

/-- BFI (R103). -/
def execBfi (o : Opnds) (s : State) : Out :=
  runVal (.bfi o) s fun v => (bitInsert o (v.x.setWidth 32) (v.s2.setWidth 32)).setWidth 64

/-- SEL (R104). -/
def execSel (k : BitVec 4) (o : Opnds) (s : State) : Out :=
  runVal (.sel k o) s fun v => if v.x.getLsbD k.toNat then v.s1 else v.s2

/-- MOVB from a b register (R93). -/
def execMovbToG (o : Opnds) (s : State) : Out :=
  runVal (.movbToG o) s fun v => v.s2

/-- MOVB to a b register: in a course every lane takes the value of the lowest executing lane (R93, R94). -/
def execMovbToB (o : Opnds) (s : State) : Out :=
  let i := Instr.movbToB o
  let s1 := putUniform s (fun l => (valsOf i (curLane s l)).s2) fun a v => setLaneB o.x.toNat v a
  .next (complete i s1)

/-- SETC (R105). -/
def execSetc (c : Cond) (o : Opnds) (s : State) : Out :=
  runVal (.setc c o) s (on32 fun a b => if condHolds c a b then 1 else 0)

/-- SETB (R105). -/
def execSetb (c : Cond) (o : Opnds) (s : State) : Out :=
  runVal (.setb c o) s fun v =>
    let k := (o.imm.extractLsb' 0 5).toNat
    let m : Word := 1 <<< k
    let x : Word := v.x.setWidth 32
    (if condHolds c (v.s1.setWidth 32 : Word) (v.s2.setWidth 32) then x ||| m else x &&& ~~~ m).setWidth 64

/-- FRAME: the stack-limit fault names the lanes whose new g31 breaks SLIM (R116). -/
def execFrame (o : Opnds) (s : State) : Out :=
  let i := Instr.frame o
  let new (l : Nat) : Int := (laneReg (curLane s l) 31).toNat + (imm32 o).toInt
  match (execLanes s).filter fun l => decide (new l < (curLane s l).slim.toNat) || decide (2 ^ 32 ≤ new l) with
  | b :: bs => trap i s { vector := 5, mask := maskOf (b :: bs) }
  | [] => runLanes i s fun _ a _ => setLaneReg 31 (laneReg a 31 + imm32 o) a

/-! ## Transfers of control (R111 to R114) -/

/-- The link that CALL and CALLI write: the low half of the next address (R112). -/
def linkReg (i : Instr) (s : State) (_ : Nat) (a : Lane) : Lane := setLaneReg 30 ((nextPc i s).setWidth 32) a

/-- BR in the K-form (R111). -/
def execBr (o : Opnds) (s : State) : Out := transfer (.br o) s (fun _ => jTarget (.br o) s) fun _ a => a

/-- BR in the W-form (R111). -/
def execBrW (o : Opnds) (s : State) : Out := transfer (.brW o) s (fun _ => jTarget (.brW o) s) fun _ a => a

/-- JMP (R111). -/
def execJmp (o : Opnds) (s : State) : Out := transfer (.jmp o) s (fun _ => jTarget (.jmp o) s) fun _ a => a

/-- CALL (R112). -/
def execCall (o : Opnds) (s : State) : Out :=
  transfer (.call o) s (fun _ => jTarget (.call o) s) (linkReg (.call o) s)

/-- CALLI: the target is the pair s2 (R112). -/
def execCalli (o : Opnds) (s : State) : Out :=
  transfer (.calli o) s (fun l => lanePair (curLane s l) (s2Reg o).toNat) (linkReg (.calli o) s)

/-- RET: the high half of the target is that of the address of RET (R112). -/
def execRet (o : Opnds) (s : State) : Out :=
  transfer (.ret o) s (fun l => (curPc s).extractLsb' 32 32 ++ laneReg (curLane s l) (s2Reg o).toNat) fun _ a => a

end Sys2Proof.Machine
end

