-- ==== Sys2Proof/Machine/Issue.lean ====
section
/-! DEFINITION. What the device does next: the events that are due, the conditions that make one due, the events that may
come now, the turn of a core, the boundary of an instruction, and time (R180 to R183, R190 to R192, R235, R249, R275 to
R284, R295, R298, R507). -/

namespace Sys2Proof.Machine

open Sys2Proof

/-! ## Choices -/

/-- One of a list; which one is free. -/
def oneOf {α : Type} (s : State) (purpose : Nat) : List α → Option α
  | [] => none
  | [a] => some a
  | a :: t => some (getAt a (a :: t) (choice s purpose % (t.length + 1)))

/-! ## The units of a context that issue on their own -/

/-- The lanes that issue together: every active lane of a course that is not split, a strand, or a lane of a split
course; serial mode issues the lanes at the lowest pc (R300, R301). -/
def heads (x : Ctx) : List Nat :=
  if isStrand x then [0]
  else if x.split then liveLanes x
  else (actLanes x).take 1

/-- The lane stands before an instruction. -/
def before (a : Lane) : Bool :=
  match a.wait with
  | .none | .retry => true
  | _ => false

/-! ## Conditions that make an event due -/

/-- The breakpoint that matches the instruction at a lane's pc (R274, R275): those of the lowest core of a fused course (log 141). -/
def breakAt (s : State) (x : Ctx) (l : Nat) : Option Nat :=
  let a := getLane x l
  let annuls := (if isStrand x || x.split then [l] else actLanes x).all fun k => (getLane x k).annul != 0
  let hit (n : Nat) : Bool :=
    let v := coreReg s (headCore x l) (0x158 + n)
    v.getLsbD 0 && v.getLsbD 63 == (ctxForm x == .w) && v.extractLsb' 1 56 == a.pc.extractLsb' 1 56
  if isKeeper x || a.inHandler || a.passBp || annuls || !before a then none
  else if hit 0 then some 0 else if hit 1 then some 1 else none

/-- A stop that is due at a lane's boundary: a step that has been taken, or a halt outside a handler (R279). -/
def stopDue (c : Nat) (x : Ctx) : Option Ev :=
  if x.slot.isNone || x.leaving != 0 then none
  else (heads x).findSome? fun l =>
    let a := getLane x l
    if a.stopped || !before a then none
    else if a.stepping && !a.passBp then some (.singleStepStop c l)
    else if a.haltReq && !a.inHandler then some (.haltStop c l)
    else none

/-- A fusion that is due for a strand that waits in CLASP (R289). -/
def fuseDue (s : State) (x : Ctx) : Option Ev :=
  if !isStrand x then none
  else
    match (getLane x 0).wait, x.slot with
    | .clasp base n, some slot =>
      let t := trussOf x.core
      if (claspParts s t slot base n).isSome then some (.fusion t slot base n) else none
    | _, _ => none

/-- The instruction waits for its strand's journal (R163, R197, R205, R226, R378, R385, R489), and its refusals are taken
after it (R492). -/
def fenceLike (i : Instr) : Bool :=
  match i with
  | .fence _ | .fenceAcq _ | .fenceRel _ | .xfence _ | .xfencePkg _ | .msend _ _ _ | .spawnCtx _ | .spawnCourse _ | .wake _
  | .lnch _ | .lnchHw _ | .gsub _ | .gdone _ | .gdoneFail _ => true
  | _ => false

/-- The lane whose pending refusal is the oldest, the lowest lane first. -/
def oldestRefusal (x : Ctx) : List Nat → Option (Nat × Nat)
  | [] => none
  | l :: t =>
    match (getLane x l).refpend, oldestRefusal x t with
    | [], r => r
    | e :: _, none => some (l, e.since)
    | e :: _, some (m, n) => if e.since ≤ n then some (l, e.since) else some (m, n)

/-- A pending refusal is taken at this boundary: the oldest, with its age (R245). -/
def refusalDue (s : State) (c : Nat) (x : Ctx) (ls : List Nat) : Option (Nat × Nat) :=
  let h := ls.headD 0
  let a := getLane x h
  let open_ := match a.wait with
    | .retry => match peekInstr s c h with
      | some (i, _) => !fenceLike i
      | none => true
    | _ => true
  if a.inHandler || !open_ then none
  else oldestRefusal x (if x.split || isStrand x then ls else allLanes x)

/-- The next log entry of a context that is re-executed, where it belongs to this boundary (R284). -/
def boundaryEntry (s : State) (x : Ctx) (kind : Nat) : Option LogEnt :=
  (logEntry s x.core).filter fun e => e.kind == kind && e.icnt == (getLane x 0).replay

/-- An asynchronous trap is pending at a lane's boundary: a refusal, or one of the log. -/
def asyncDue (s : State) (c : Nat) (x : Ctx) (l : Nat) : Bool :=
  (refusalDue s c x (if isStrand x || x.split then [l] else actLanes x)).isSome
    || (replays s x && (boundaryEntry s x 6).isSome)

/-- A pre-emption that is due; a breakpoint of the same boundary comes first, but not where the entry of an asynchronous
trap comes before it (R280). -/
def preDueEv (s : State) (c : Nat) (x : Ctx) : Option Ev :=
  if !preemptDue x then none
  else
    match (heads x).findSome? fun l =>
        if (getLane x l).stopped || asyncDue s c x l then none else (breakAt s x l).map fun n => (l, n) with
    | some (l, n) => some (.breakpointStop c l n)
    | none => some (.preemption c)

/-- The event that a context's state makes due. -/
def ctxDue (s : State) (c : Nat) (x : Ctx) : Option Ev :=
  if !x.alive then none
  else
    let own : List (Option Ev) :=
      [ stopDue c x,
        preDueEv s c x,
        if x.displace != 0 && x.slot.isSome && x.leaving == 0 && x.lanes.all (fun a => !a.live || atBoundary a)
          && !x.lanes.any (·.stopped) then some (.fairnessDisplacement c) else none,
        if migrDue s c x then some (.migration c) else none,
        if refuses s c x then some (.refusion c) else none,
        fuseDue s x,
        if barReady s c then some (.barRelease c) else none,
        ((heads x).find? fun l => yldDue s x l).map fun l => .yldCcWake c l ]
    own.findSome? id

/-- The keeper of a core is about to take a refusal that is older than its pending interrupt (R243, R245). -/
def olderRefusal (s : State) (core : Nat) : Bool :=
  match boundAt s core 0 with
  | some c =>
    before (getLane (getCtx s c) 0)
      && (match refusalDue s c (getCtx s c) [0] with
        | some (_, n) => (List.range 4).all fun b =>
            !(coreReg s core 0x141 &&& coreReg s core 0x142).getLsbD b || decide (n < tget 0 (getCore s core).irqAt b)
        | none => false)
  | none => false

/-- The bezel selects now (R270). -/
def selectDue (s : State) (core : Nat) : Bool :=
  (bezelPick s core).isSome && (getCore s core).bezel.selected.isNone

/-- The event that a core's state makes due; a refusal of the keeper that is older than the interrupt comes first (R243). -/
def coreDue (s : State) (core : Nat) : Option Ev :=
  if interruptDue s core && !olderRefusal s core then some (.interruptEntry core)
  else if exitDue s core then some (.exitRecordPost core)
  else if (spawnReady s core).isSome then some (.spawnQueueStart core)
  else if selectDue s core then some (.bezelSelect core)
  else none

/-- The event that must come now. -/
def urgent (s : State) : Option Ev :=
  match s.ctxs.findSome? fun e => ctxDue s e.1 e.2 with
  | some e => some e
  | none => s.cores.findSome? fun e => coreDue s e.1

/-! ## Events that may come now -/

/-- An answer can reach its context, or the spill ring (R251). -/
def answerable (s : State) (c : Nat) (l : Option Nat) : Bool :=
  let x := getCtx s c
  !x.alive || reachable x || spillRoom s (spillCore x l)

/-- A queue load fills its entry: those of one LDQ of a lane whose data the log keeps in their order, and one that is
re-executed at its boundary, or when its context waits for it (R282, R284, log 145). -/
def fillComes (s : State) (earlier : List Ev) (q : QueueOp) : Bool :=
  let x := getCtx s q.ctx
  let core := coresOf s q.ctx q.lane
  if fillReplayed s q then x.leaving != 0 || !x.stopping.isEmpty
  else !(logOn s core && ldqLogged s core q.attr && earlier.any fun b => match b with
    | .queueLoadFill p => p.ctx == q.ctx && p.lane == q.lane && p.pc == q.pc
    | _ => false)

/-- An event on its way can come, given those that were sent before it: the order of one strand's accesses, that of a
channel, its way through the fabric, and what its own rule asks for; a course's graphs are loaded in lane order (R384). -/
def arrives (s : State) (earlier : List Ev) (e : Ev) : Bool :=
  !blockedBy s earlier e && !channelHeld s earlier e && reached s e && match e with
    | .queueLoadFill q => fillComes s earlier q
    | .journalEntryPerform core id => !journalWaits s core id
    | .messageArrival m => !streamBlocked s m
    | .routerDelivery d => !deliveryWaits s earlier d
    | .spawnAnswer c l _ _ => answerable s c l
    | .launchAnswer (.lane c l) _ _ => answerable s c (some l)
    | .flitReceive p l _ => !earlier.any fun b => match b with
      | .flitReceive q k _ => q == p && k == l
      | _ => false
    | .routeChange p d _ => !earlier.any (queuedFor s p d)
    | .graphLoad _ c _ _ _ => !earlier.any fun b => match b with
      | .graphLoad _ d _ _ _ => d == c
      | _ => false
    | _ => true

/-- The events on their way that can come, each with its place. -/
def arrivals (s : State) : List Ev → List Ev → List Ev
  | _, [] => []
  | earlier, e :: t => if arrives s earlier e then e :: arrivals s (earlier ++ [e]) t else arrivals s (earlier ++ [e]) t

/-- What an engine or copy queue can do: start its next entry, or end the one that runs. -/
def queueEvs (s : State) (q : QueueId) : List Ev :=
  let start := match nextEntry s q with
    | some _ => [.engineEntryStart q]
    | none => []
  match runningEntry s q with
  | none => start
  | some e =>
    match q with
    | .copyT _ | .copyE _ => if fgetFar s e then start else start ++ [.copyEntryComplete q]
    | _ => if partialsOut e then start else start ++ [.engineEntryComplete q]

/-- The SEQ that the far end of a link accepts next. -/
def farRecv (pkg link : Nat) (s : State) : Nat :=
  match Config.wire pkg link with
  | none => 0
  | some (q, ql) => (getLink s q ql).recv

/-- A sender replays: the far end of its link drops flits, and some are not acknowledged (R476). -/
def replayDue (s : State) (pkg : Nat) (l : Nat × Link) : Bool :=
  !l.2.frames.isEmpty && match Config.wire pkg l.1 with
    | none => false
    | some (q, ql) => (getLink s q ql).dropping

/-- What the queues of the units, the routers and the senders can do, and the links' senders that replay. -/
def unitEvs (s : State) : List Ev :=
  (s.trusses.flatMap fun e => queueEvs s (.matrix e.1) ++ queueEvs s (.gather e.1) ++ queueEvs s (.copyT e.1))
    ++ (s.cores.flatMap fun e => queueEvs s (.slice e.1) ++ queueEvs s (.copyE e.1) ++ retryable s e.1)
    ++ s.dies.flatMap fun e =>
        ((e.2.reds.filter (redReady e.1)).map fun r => Ev.reductionStep e.1 r.id)
          ++ (if drainDue s e.1 then [.traceDrain e.1] else [])
    ++ s.pkgs.flatMap fun e => (e.2.links.filter (replayDue s e.1)).map fun l =>
        Ev.flitReplay e.1 l.1 ((farRecv e.1 l.1 s + 4095) % 4096)

/-- An event that comes now leaves the flight, and its way through the fabric is over (R477). -/
def takeEv (s : State) (e : Ev) : State := endJourneys { s with flight := s.flight.erase e } e

/-- A flit may have been damaged on its link (R476): whether it has is free (log 64). -/
def damaged (s : State) (e : Ev) : Ev :=
  match e with
  | .flitReceive p l f => if choice s 476 % 2 = 0 then e else .flitReceive p l { f with crc := f.crc + 1 }
  | e => e

/-- Whether an event comes now, and which, is free (R507). -/
def pickEv (s : State) : Option Ev :=
  match arrivals s [] s.flight ++ unitEvs s with
  | [] => none
  | l => l[choice s 1 % (l.length + 1)]?

/-! ## What leaves a package (R476 to R479, R488) -/

/-- What may leave now: a unit for the next package of its way, a flit without units that a link owes its sender, or a
sector of FGET. -/
inductive Leave where
  | unit (e : Ev) (src dst place : Nat)
  | idle (pkg link : Nat)
  | sector (s : State)

/-- The units that may leave a package, or that are unreachable where they stand. -/
def leavers (s : State) : List Ev → List Ev → List Leave
  | _, [] => []
  | earlier, e :: t =>
    ((legs s e).filterMap fun g => match placeOf s e g with
      | none => none
      | some p => if p != g.2 && mayLeave s earlier e g p then some (.unit e g.1 g.2 p) else none)
      ++ leavers s (earlier ++ [e]) t

/-- The copy queues of the units. -/
def copyQueues (s : State) : List QueueId := s.trusses.map (fun e => .copyT e.1) ++ s.cores.map fun e => .copyE e.1

/-- The sectors of FGET entries that can go on. -/
def sectorSteps (s : State) : List Leave :=
  (copyQueues s).filterMap fun q => match runningEntry s q with
    | some e => if fgetFar s e then (fgetStep s q e).map .sector else none
    | none => none

/-- The links that owe an acknowledgement or credits. -/
def idleLinks (s : State) : List Leave :=
  s.pkgs.flatMap fun e => (e.2.links.filter fun l => l.2.owed && (Config.wire e.1 l.1).isSome).map fun l => .idle e.1 l.1

/-- What leaves, leaves. -/
def leave (s : State) : Leave → State
  | .unit e src dst p => match outLink s e p dst with
    | some l => sendUnit s e (src, dst) p l
    | none => unreachable s e (src, dst)
  | .idle p l => sendFlit s p l []
  | .sector z => z

/-- Whether something leaves now, and what, is free (R507). -/
def pickLeave (s : State) : Option State :=
  match leavers s [] s.flight ++ idleLinks s ++ sectorSteps s with
  | [] => none
  | l => (l[choice s 3 % (l.length + 1)]?).map (leave s)

/-! ## The turn of a core -/

/-- A core has not had its turn in its present cycle. -/
def unserved (s : State) (core : Nat) : Bool := (getCore s core).served ≤ cycOf s core

/-- The slot of a D-core or Eave core in its present cycle (R180). -/
def turnSlot (s : State) (core : Nat) : Nat := cycOf s core % slotCount (coreKind core)

/-- The cores on which a context has a turn now. -/
def turnsOf (s : State) (x : Ctx) : List Nat :=
  match x.slot with
  | none => []
  | some k =>
    if !x.alive || (getPkg s (pkgOf x.core)).stopped then []
    else
      let ks := if x.kind == .course && x.split then setCores x.core (ctxWidth x) else [x.core]
      ks.filter fun c => unserved s c && (coreKind c == .lcore || turnSlot s c == k)

/-- The cores that have a turn now. -/
def turns (s : State) : List Nat := (s.ctxs.flatMap fun e => turnsOf s e.2).dedup

/-- Records what a slot did in this rotation (R182, R271). -/
def setRot (s : State) (cores : List Nat) (slot k : Nat) : State :=
  cores.foldl (fun z c => modCore z c fun e => { e with bezel := { e.bezel with rot := tset 0 e.bezel.rot slot k } }) s

/-- One more rotation of a class in the summary of a slot (R265). -/
def countRot (s : State) (core slot k : Nat) : State :=
  match k with
  | 1 => countSlot s core slot 2
  | 2 => countSlot s core slot 3
  | 3 => countSlot s core slot 4
  | _ => s

/-- Whether a lane issues at its turn; a lane of a split course that is to leave its slot stops at its own boundary (R300):
1 it does; else its loss class: 0 vacant, 2 memory, 3 message (R182; log 53 and log 70 for waits that R182 does not name); 4 it waits in
a cross-lane instruction, which is classed issued (R307); 5 it holds its slot (R183). -/
def laneState (s : State) (x : Ctx) (l : Nat) (a : Lane) : Nat :=
  if a.stopped then 0
  else if x.held then 0
  else if x.leaving != 0 then 2
  else if isKeeper x && (getCore s x.core).dead then 0
  else if a.hold != 0 then 5
  else if x.split && before a && (x.preempt || x.displace != 0) then 2
  else
    match a.wait with
    | .none | .retry | .granted _ | .woken _ | .msend _ | .fput _ => 1
    | .mwait any cls ks => if mwaitHolds s x any cls ks then 1 else 3
    | .reap => if reapHolds s x (if x.split || isStrand x then [l] else actLanes x) then 1 else 3
    | .sleep _ _ | .clasp _ _ | .rejoin | .bar | .arrived _ | .quit _ => 3
    | .answer out _ left => if out = 0 ∨ !left.isEmpty then 1 else 2
    | .spin _ | .yldCc _ _ _ _ | .access | .parked _ | .migr _ _ _ => 2
    | .pair => 4

/-- The state of the lanes that issue together: that of the first of them that waits. Where serial mode has no lane that
can issue, it is the state of its lanes: held before memory before message (R301). -/
def unitState (s : State) (x : Ctx) (ls : List Nat) : Nat :=
  match ls.find? fun l => laneState s x l (getLane x l) != 1 with
  | some l => laneState s x l (getLane x l)
  | none =>
    if !ls.isEmpty then 1
    else if x.kind == .gable then
      ([5, 2, 3].find? fun k => (liveLanes x).any fun l => laneState s x l (getLane x l) == k).getD 0
    else 0

/-- The lane at the lowest pc. -/
def lowestLane (x : Ctx) : List Nat → Option Nat
  | [] => none
  | l :: t =>
    match lowestLane x t with
    | none => some l
    | some m => if (getLane x m).pc.ult (getLane x l).pc then some m else some l

/-- The lanes that serial mode issues: of those that do not wait, the ones at the lowest pc (R301). -/
def serialLanes (s : State) (x : Ctx) : List Nat :=
  let ls := (liveLanes x).filter fun l => laneState s x l (getLane x l) == 1
  match lowestLane x ls with
  | none => []
  | some h => ls.filter fun l =>
      (getLane x l).pc == (getLane x h).pc
        && ((getLane x l).wait == (getLane x h).wait || (before (getLane x l) && before (getLane x h)))

/-- The lanes of a context that issue in a turn of a core. -/
def unitOf (s : State) (x : Ctx) (core : Nat) : List Nat :=
  if isStrand x then [0]
  else if !x.split then actLanes x
  else match x.kind with
    | .gable => serialLanes s x
    | _ => let l := laneOn x core; if (getLane x l).live then [l] else []

/-! ## Dependences on an L-core (R191, R192) -/

/-- The registers of an operand. -/
def useRegs (u : RegUse) (r : Reg) : List Nat :=
  match u with
  | .r => [r.toNat]
  | .p => [r.toNat, r.toNat + 1]
  | .q => [r.toNat, r.toNat + 1, r.toNat + 2, r.toNat + 3]
  | .no | .b | .code => []

/-- x is a source. -/
def xSource (i : Instr) : Bool :=
  i.sig.xRead || i.opnds.two || match i with
    | .addi _ | .shlImm _ | .shrImm _ | .sarImm _ | .rolImm _ | .rorImm _ | .skp _ _ | .skpi _ _ | .skbSet _ | .skbClr _
    | .st _ _ | .stl _ _ | .atom _ _ _ | .cas _ _ | .red _ _ _ | .afn _ _ _ | .spin _ _ | .sets _ | .tmark _ => true
    | _ => false

/-- The registers that an instruction reads. -/
def regsRead (i : Instr) : List Nat :=
  let o := i.opnds
  let g := i.sig
  let addr := match i with
    | .ld _ _ | .st _ _ | .lea _ | .ldl _ _ | .stl _ _ | .pref _ _ | .atom _ _ _ | .cas _ _ | .red _ _ _ | .afn _ _ _
    | .spin _ _ =>
      match o.desc.mode.toNat with
      | 0 => [o.y.toNat]
      | 1 => []
      | _ => [o.y.toNat, o.y.toNat + 1]
    | .frame _ | .ret _ => [31]
    | .skp _ _ => [o.y.toNat]
    | .adc _ | .sbc _ => [o.x.toNat + 1]
    | .spawnCtx _ | .spawnCourse _ => [0, 1, 2, 3]
    | _ => []
  (if xSource i then useRegs g.x o.x else []) ++ useRegs g.s1 (s1Reg o) ++ useRegs g.s2 (s2Reg o) ++ addr

/-- The registers that an instruction writes: through x, the link of CALL and CALLI, and the stack pointer of FRAME. -/
def regsWritten (i : Instr) : List Nat :=
  match i with
  | .call _ | .calli _ => [30]
  | .frame _ => [31]
  | _ => useRegs i.sig.x i.opnds.x

/-- The cycles of R192 from issue until a dependent instruction can issue. -/
def latency : Instr → Nat
  | .mul _ _ | .mulh _ _ | .mulhn _ _ | .mulw _ _ => 3
  | .fadd t _ | .fsub t _ | .fmul t _ | .fma t _ | .fnma t _ => if t = .f64 then 8 else 4
  | .fexp2 _ _ | .flog2 _ _ | .fsin _ _ | .fcos _ _ => 12
  | .fdiv t _ | .fsqrt t _ | .frcp t _ | .frsq t _ => if t = .f64 then 28 else 14
  | .div w _ | .divn w _ | .rem w _ | .remn w _ => if w = .w64 then 36 else 20
  | .ld _ _ => 5
  | .fmin _ _ | .fmax _ _ | .fabs _ _ | .fneg _ _ | .fcls _ _ | .fsetc _ _ _ | .fskp _ _ _ | .shfl _ _ | .vote _ _ => 2
  | .frnd t _ => if t = .f64 then 8 else 4
  | .cvt a b _ => if a = .f64 ∨ b = .f64 then 8 else 4
  | .cvti n t _ | .cvtf n t _ => if n = .w64 ∨ t = .f64 then 8 else 4
  | .enc8 t _ | .dec8 t _ => if t = .f64 then 8 else 4
  | .rseg f _ | .scan f _ => match f with | .fadd | .fmin | .fmax => 16 | _ => 6
  | _ => 1

/-- The mark of FSKP, on which the next instruction depends. -/
def annulMark : Nat := 64

/-- An instruction that reads the registers of other lanes (R303 to R306). -/
def readsAcross : Instr → Bool
  | .shfl _ _ | .vote _ _ | .rseg _ _ | .scan _ _ => true
  | _ => false

/-- An L-core instruction reads a register that has a write pending, in a lane whose value it takes. -/
def dependsOn (s : State) (x : Ctx) (ls : List Nat) (i : Instr) : Bool :=
  let cyc := cycOf s x.core
  let rs := annulMark :: regsRead i
  let ex := if readsAcross i then allLanes x else ls.filter fun l => (getLane x l).annul = 0
  (x.score.any fun e => rs.contains e.1 && e.2.2.any fun l => ex.contains l)
    || x.busy.any fun e => rs.contains e.1 && decide (cyc < e.2.1) && e.2.2.any fun l => ex.contains l

/-- The registers of an issued instruction are pending for its latency, and a load that is still on its way to one of them
no longer writes it in the lanes that executed the instruction (R192, R193). -/
def setBusy (s : State) (c : Nat) (i : Instr) (ex : List Nat) : State :=
  let n := latency i
  let cyc := cycOf s (getCtx s c).core
  modCtx s c fun x =>
    let x := if landsLater i then x else supersede x (regsWritten i) ex
    let keep (e : Nat × Nat × List Nat) : Nat × Nat × List Nat :=
      if (regsWritten i).contains e.1 then (e.1, e.2.1, e.2.2.filter fun l => !ex.contains l) else e
    let old := (x.busy.map keep).filter fun e => cyc < e.2.1 && !e.2.2.isEmpty
    { x with busy := if n ≤ 1 then old
                     else old ++ (match i with
                       | .fskp _ _ _ => [(annulMark, cyc + n, ex)]
                       | _ => (regsWritten i).map fun r => (r, cyc + n, ex)) }

/-! ## The boundary before an instruction -/

/-- What the device does in a step: an event, an instruction of the issuer that stands in the state, or neither; `again`
where a boundary has changed the context and its turn is not over. -/
inductive Plan where
  | event (e : Ev) (s : State)
  | run (i : Instr) (s : State)
  | again (s : State)
  | still (s : State)

/-- The issuer is a context's lanes. -/
def asIssuer (s : State) (c : Nat) (ls : List Nat) : State := { s with cur := { ctx := c, lanes := ls, done := false } }

/-- Lanes go past the instructions that all of them annul, up to one that does not fetch or decode, with its trap. -/
def passAnnulled (c : Nat) (ls : List Nat) : Nat → State → State × Option TrapInfo
  | 0, s => (s, none)
  | fuel + 1, s =>
    if !(ls.all fun l => (getLane (getCtx s c) l).annul != 0) then (s, none)
    else
      let z := asIssuer s c ls
      match fetchCur z with
      | (s1, .error t) => (s1, some t)
      | (s1, .ok i) => passAnnulled c ls fuel (moveTo s1 (nextPc i s1))

/-- Instructions that every issuing lane annuls take no issue slot (R107, R108): the first that does not, or the trap. -/
def skipAnnulled (c : Nat) (ls : List Nat) (fuel : Nat) (s : State) : State × Bool :=
  match passAnnulled c ls fuel s with
  | (s1, none) => (s1, true)
  | (s1, some t) => (trapAll s1 t, false)

/-- An asynchronous trap of the log is entered at its boundary (R280, R284). -/
def replayTrap (s : State) (c : Nat) (x : Ctx) : Option State :=
  if !replays s x then none
  else
    (boundaryEntry s x 6).map fun e =>
      let a := getLane x 0
      if e.pc ≠ a.pc.toNat % 2 ^ 32 then stopLanes s c [0] 8 1
      else
        let w := leNat (e.data.take 8)
        let t : TrapInfo := { vector := w % 256, reason := w / 256 % 256, async := true, mask := 1,
                              info := BitVec.ofNat 32 (w / 2 ^ 32), addr := Config.freeValue s.free 54 }
        enterTrap (logSkip s x.core e) c [0] t a.pc a.pc

/-- A message of the log is delivered before the instruction at its count; with the log exhausted the context stops
(R284). -/
def replayMessage (s : State) (c : Nat) (x : Ctx) : Option State :=
  if !replays s x then none
  else if (logEntry s x.core).isNone then some (stopLanes s c [0] 9 1)
  else
    (boundaryEntry s x 1).map fun e =>
      let v := mcls s x.core e.cls
      let s1 := entryPut s x.core e.cls ((mcHead v + mcCount v) % 2 ^ mcLog v) e.data
      readyBit s (logSkip (setMcls s1 x.core e.cls (setFld v 32 11 (mcCount v + 1))) x.core e) c

/-- A queue load of a re-executed context whose data are the next entry of the log, at this boundary (R284). -/
def replayFill (s : State) (c : Nat) (x : Ctx) : Option Ev :=
  if !replays s x then none
  else
    (boundaryEntry s x 3).bind fun e => s.flight.find? fun b => match b with
      | .queueLoadFill q => q.ctx == c && fillReplayed s q && q.pc.toNat % 2 ^ 32 == e.pc
      | _ => false

/-- The tables that a migration brought take their place in the format context of the course's slot, once no entry names
it (R316, R402). -/
def claimTables (s : State) (c : Nat) (x : Ctx) (t : FmtTable × FmtTable) : Option State :=
  let z := asIssuer s c (actLanes x)
  if fmtBusy z then none
  else
    let s1 := writeFmt z fun f => { f with set := false, a := t.1, b := t.2 }
    some (modCtx s1 c fun y => { y with tables := none })

/-- A split lane that executes the instruction at the rejoin waits there (R295). -/
def rejoins (x : Ctx) (a : Lane) : Bool := x.split && x.rjv && a.annul == 0 && a.pc == x.srj && a.depth == x.rd

/-- The issuer's next instruction: the one that it waits inside, or the one that it fetches. -/
def fetchRun (s : State) (c : Nat) (ls : List Nat) : Plan :=
  let z := asIssuer s c ls
  match (curLane z (ls.headD 0)).inst, before (curLane z (ls.headD 0)) with
  | some i, false => .run i z
  | _, _ =>
    match fetchCur z with
    | (s1, .error t) => .still (trapAll s1 t)
    | (s1, .ok i) => .run i s1

/-- The tables that a migration brought cannot take their place yet (R316, R402). -/
def tablesWait (s : State) (c : Nat) (x : Ctx) : Bool :=
  x.kind == .course && x.tables.isSome && fmtBusy (asIssuer s c (actLanes x))

/-- The boundary of the issuer's lanes, after the instructions that they annul: asynchronous traps, a breakpoint, a message
of the log, a migration, the rejoin, and the tables of a migration come before the instruction. -/
def boundary (s : State) (c : Nat) (ls : List Nat) : Plan :=
  let x := getCtx s c
  let h := ls.headD 0
  if !before (getLane x h) then fetchRun s c ls
  else
    match refusalDue s c x ls with
    | some (l, _) => .event (.journalRefusalTrap c l) s
    | none =>
      match replayTrap s c x with
      | some s1 => .again s1
      | none =>
        match replayFill s c x, breakAt s x h with
        | some e, _ => .event e (takeEv s e)
        | none, some n => .event (.breakpointStop c h n) s
        | none, none =>
          match replayMessage s c x with
          | some s1 => .again s1
          | none =>
            match migStart s c x with
            | some toL => .again (modCtx s c fun y => modLanes { y with migTried := true } (actLanes y) fun _ b =>
                { b with wait := .migr (if toL then 2 else 3) 0 0 })
            | none =>
              match ls.filter fun l => rejoins x (getLane x l) with
              | l :: t => .again (modCtx s c fun y => modLanes y (l :: t) fun _ b => { b with wait := .rejoin })
              | [] =>
                match x.tables with
                | none => fetchRun s c ls
                | some t =>
                  if x.kind == .course then
                    match claimTables s c x t with
                    | some s1 => fetchRun s1 c ls
                    | none => .still s
                  else fetchRun s c ls

/-- The lanes issue: annulled instructions first. -/
def issue (s : State) (c : Nat) (ls : List Nat) : Plan :=
  if before (getLane (getCtx s c) (ls.headD 0)) then
    match skipAnnulled c ls 4 s with
    | (s1, true) => boundary s1 c ls
    | (s1, false) => .still s1
  else boundary s c ls

/-- A held lane's extra rotation (R183): its last one is an event. -/
def holdTurn (s : State) (c : Nat) (ls : List Nat) : Plan :=
  let h := ls.headD 0
  if (getLane (getCtx s c) h).hold ≤ 1 then .event (.multiRotationHoldEnd c h) s
  else .still (modCtx s c fun x => modLanes x (unitLanes x h) fun _ a => { a with hold := a.hold - 1 })

/-- The cores have had their turn in their present cycle. -/
def serve (s : State) (cores : List Nat) (cyc : Nat) : State :=
  cores.foldl (fun z k => modCore z k fun e => { e with served := cyc + 1 }) s

/-- A slot's rotation is classed on its cores, and in the summary of the context where the core writes its records. -/
def classRot (s : State) (cores : List Nat) (x : Ctx) (slot k : Nat) : State :=
  let s1 := setRot s cores slot (if k = 0 then 4 else k)
  if cores.contains x.core && !s.cur.counted then countRot s1 x.core slot k else s1

/-- The turn of a D-core or an Eave core: what the boundary answers without an instruction leaves the turn open, but for a
trap that the fetch of an instruction raised, which is classed issued. -/
def turnD (s : State) (core : Nat) : Plan :=
  let slot := turnSlot s core
  let cyc := cycOf s core
  match boundAt s core slot with
  | none => .still (serve s [core] cyc)
  | some c =>
    let x := getCtx s c
    let ks := if x.kind == .course && !x.split then setCores x.core (ctxWidth x) else [core]
    let ls := unitOf s x core
    let z := asIssuer s c []
    match unitState s x ls with
    | 1 =>
      if before (getLane x (ls.headD 0)) && tablesWait s c x then .still (classRot (serve z ks cyc) ks x slot 2)
      else
        match issue s c ls with
        | .event e s1 => .event e s1
        | .run i s1 => .run i (serve s1 ks cyc)
        | .again s1 => .still s1
        | .still s1 => .still (classRot (serve s1 ks cyc) ks x slot 1)
    | 5 => holdTurn (classRot (serve z ks cyc) ks x slot 1) c ls
    | 4 => .still (classRot (serve z ks cyc) ks x slot 1)
    | k => .still (classRot (serve z ks cyc) ks x slot k)

/-- What an L-core context does in a cycle: 1 it is ready; else as `laneState`, 2 for a register that has a write pending.
The instruction that it issues stands behind those that its lanes annul (R108, R191). -/
def lState (s : State) (c : Nat) : Nat :=
  let x := getCtx s c
  let ls := unitOf s x x.core
  match unitState s x ls with
  | 1 =>
    if before (getLane x (ls.headD 0)) then
      match skipAnnulled c ls 4 s with
      | (s1, true) =>
        match peekInstr s1 c (ls.headD 0) with
        | some (i, _) => if dependsOn s1 (getCtx s1 c) ls i then 2 else 1
        | none => 1
      | (_, false) => 1
    else 1
  | k => k

/-- The contexts of an L-core in the order that begins after the one that issued last (R191). -/
def lOrder (s : State) (core : Nat) : List Nat :=
  let last := (getCore s core).last
  ((List.range 4).map fun k => (last + 1 + k) % 4).filterMap fun k => boundAt s core k

/-- The cycle of an L-core: the first ready context issues, and every other context's cycle is classed. -/
def turnL (s : State) (core : Nat) : Plan :=
  let cyc := cycOf s core
  let st := (lOrder s core).map fun c => (c, lState s c)
  let ready := (st.filter fun e => e.2 == 1).map (·.1)
  let close (z : State) (issued : Bool) : State :=
    let k := if issued then 1
             else if st.any fun e => e.2 == 2 || e.2 == 4 || e.2 == 5 then 2
             else if st.any fun e => e.2 == 3 then 3 else 0
    let z1 := setRot (setRot (serve z [core] cyc) [core] 1 ready.length) [core] 0 k
    st.foldl (fun y e =>
      countRot y core ((getCtx s e.1).slot.getD 0) (if e.2 = 4 ∨ e.2 = 5 then 1 else if e.2 = 1 then 0 else e.2)) z1
  match ready with
  | c :: _ =>
    let x := getCtx s c
    let slot := x.slot.getD 0
    let last (z : State) : State := modCore z core fun e => { e with last := slot }
    match issue s c (unitOf s x core) with
    | .event e s1 => .event e s1
    | .run i s1 => .run i (last (close s1 true))
    | .again s1 => .still s1
    | .still s1 =>
      let z := last (close s1 true)
      .still (if s1.cur.counted then z else countRot z core slot 1)
  | [] =>
    let z := close (asIssuer s 0 []) false
    match st.find? fun e => e.2 == 5 with
    | some (c, _) => holdTurn z c ((heads (getCtx s c)).filter fun l => (getLane (getCtx s c) l).hold != 0)
    | none => .still z

/-- The turn of a core. -/
def turn (s : State) (core : Nat) : Plan :=
  match coreKind core with
  | .lcore => turnL s core
  | _ => turnD s core

/-! ## Time -/

/-- The events of a core when its cycle has just changed. -/
def coreTick (s : State) (core : Nat) : List Ev :=
  let n := match coreKind core with
    | .lcore => 1
    | k => slotCount k
  let over_ := (boundOn s core).filter fun e =>
    isStrand e.2 && !isKeeper e.2 && e.2.core == core && periodOver s core (e.2.slot.getD 0)
  (if timerDue s core then [.timerCompare core] else [])
    ++ (if cycOf s core % n = 0 then [.rotationBoundary core] else [])
    ++ over_.map (fun e => Ev.summaryPeriod e.1)
    ++ (if cycOf s core % 2 ^ 32 = 0 ∧ (getCore s core).soft ≠ 0 then
          [.softErrorWindowEnd (match coreKind core with | .eave => .eave core | _ => .core core)] else [])

/-- The windows of L2 ways and links that end when the arithmetic clock's bits 31:0 are 0. -/
def windowTick (s : State) (pkg : Nat) : List Ev :=
  if cycOf s (pkg * 65536) % 2 ^ 32 ≠ 0 then []
  else
    (s.dies.flatMap fun e => if e.1 / 4 = pkg then e.2.ways.map fun w => Ev.softErrorWindowEnd (.way e.1 w.1 w.2.1) else [])
      ++ ((getPkg s pkg).links.filter fun l => l.2.soft != 0).map fun l => Ev.softErrorWindowEnd (.link pkg l.1)

/-- Sleeps whose time is over, and courses that the age rule makes due. -/
def waitTick (s : State) : List Ev :=
  (s.ctxs.flatMap fun e => ((heads e.2).filter fun l => sleepOver s e.2 l).map fun l => Ev.sleepTimeout e.1 l)
    ++ ((s.ctxs.filter fun e => e.2.alive && e.2.kind == .course).map fun e => trussOf e.2.core).dedup.flatMap fun t =>
        (agedCourses s t).map fun c => Ev.fairnessDue c

/-- A tick of 1/16 ns. -/
def tick (s : State) : State :=
  let z := { s with now := s.now + 1 }
  let ks := (s.cores.map (·.1)).filter fun k => cycOf z k != cycOf s k
  let ps := ((s.pkgs.map (·.1))).filter fun p => cycOf z (p * 65536) != cycOf s (p * 65536)
  pushDue z (ks.flatMap (coreTick z) ++ ps.flatMap (windowTick z) ++ waitTick z)

/-! ## What comes next -/

/-- The next thing that the device does. A due unit that crosses packages sets out. -/
def plan (s : State) : Plan :=
  match s.due with
  | e :: t =>
    if (legs s e).isEmpty then .event e { s with due := t }
    else .still { s with due := t, flight := s.flight ++ [e] }
  | [] =>
    match urgent s with
    | some e => .event e s
    | none =>
      match pickLeave s with
      | some z => .still z
      | none =>
        match pickEv s with
        | some e => .event (damaged s e) (takeEv s e)
        | none =>
          match oneOf s 2 (turns s) with
          | some k => turn s k
          | none => .still (softTick (tick s))

/-! ## After an instruction -/

/-- TRAP, SYSC and BRK issue although they trap. -/
def softTrap (i : Instr) : Bool :=
  match i with
  | .trap _ | .sysc _ | .brk _ => true
  | _ => false

/-- A BAR whose lanes re-fused there issued in its split lanes: its completion is no issue of the fused course (R297, R298). -/
def lateBar (i : Instr) (z : State) : Bool :=
  match i with
  | .bar _ => (curLane z (z.cur.lanes.headD 0)).wait == .woken 1
  | _ => false

/-- The records of an instruction that has issued and is complete: points, replay and watch records, counts and trace. TRAP,
SYSC and BRK that trap have no detail record (R266). -/
def afterIssue (i : Instr) (z s : State) : State :=
  let c := z.cur.ctx
  let x := getCtx z c
  let h := z.cur.lanes.headD 0
  let pc := curPc z
  let ls := if x.split || isStrand x then z.cur.lanes else allLanes x
  let handler := (getLane x h).inHandler
  let s1 := modCtx s c fun y =>
    { modLanes y ls fun _ => issuedAt x pc handler with
             migTried := false, migHere := if handler then y.migHere else none,
             single := if x.kind == .course && !x.split && z.cur.lanes.length == 1 then y.single + 1 else 0 }
  let s2 := if lateBar i z then s1 else countHdc z s1
  let s3 := if s.cur.counted && s.cur.ctx == c then s2 else countSlot s2 x.core (x.slot.getD 0) 0
  let s4 := match i with
    | .tmark _ => s3
    | _ => if softTrap i then s3 else detailRecord z s3 i
  if coreKind x.core = .lcore then setBusy s4 c i (execLanes z) else s4

/-- The lanes of an instruction that is not complete keep it while they wait inside it. -/
def afterWait (i : Instr) (z s : State) : State :=
  modCtx s z.cur.ctx fun y => modLanes y z.cur.lanes fun _ a =>
    if before a then { a with inst := none, passBp := a.passBp && a.wait == .retry } else { a with inst := some i }

/-- A rotation is classed by what its issue came to: an instruction that could not issue waits on memory, and one that a
stop kept from issuing leaves its slot vacant (R182). -/
def classIssue (z s : State) : State :=
  let c := z.cur.ctx
  let x := getCtx z c
  let h := z.cur.lanes.headD 0
  let slot := x.slot.getD 0
  let a := getLane (getCtx s c) h
  let k := if a.stopped then 0 else if a.wait = .retry then 2 else 1
  let ks := if x.kind == .course && !x.split then setCores x.core (ctxWidth x) else [headCore x h]
  if coreKind x.core = .lcore then
    let s1 := setRot s [x.core] 0 k
    if s.cur.counted then s1 else countRot s1 x.core slot k
  else classRot s ks x slot k

/-- The other half of a pair whose cross-lane instruction this half has completed, with its lanes (R307). -/
def mateDone (z s : State) : Option (Nat × List Nat) :=
  match (curCtx z).mate with
  | some m =>
    if s.cur.done && (getCtx z m).pairAt.isSome && (getCtx s m).pairAt.isNone then some (m, actLanes (getCtx z m)) else none
  | none => none

/-- The lanes of a strand or a split course go past the instructions that a skip annuls, so that their count is 0 at the
boundary; one that does not fetch or decode traps at their next issue, and their pc stands at it until then (R108,
R109). -/
def passSkipped (i : Instr) (z s : State) : State :=
  let c := z.cur.ctx
  let x := getCtx z c
  let pass (y : State) (l : Nat) : State := { (passAnnulled c [l] 4 y).1 with cur := y.cur }
  match i with
  | .skp _ _ | .skpi _ _ | .skbSet _ | .skbClr _ | .fskp _ _ _ =>
    if s.cur.done && (x.split || isStrand x) then z.cur.lanes.foldl pass s else s
  | _ => s

/-- The state after an instruction, from the state in which it issued and the one that its meaning gives. -/
def finish (i : Instr) (z s : State) : State :=
  let c := z.cur.ctx
  let h := z.cur.lanes.headD 0
  let trapped := softTrap i && (getLane (getCtx s c) h).inHandler && !(getLane (getCtx z c) h).inHandler
  let s1 := if s.cur.done || trapped then afterIssue i z s else afterWait i z s
  let s2 := match mateDone z s with
    | some (m, ls) => afterIssue i (asIssuer z m ls) s1
    | none => s1
  classIssue z (passSkipped i z s2)

end Sys2Proof.Machine
end

