-- ==== Sys2Proof/Machine/System.lean ====
section
/-! DEFINITION. TRAP, SYSC, BRK, ERET, TMARK, TFENCE, TLBI and the walk that fills the TLBs (R242, R243, R273, R275, R420,
R430, R435, R436). -/

namespace Sys2Proof.Machine

open Sys2Proof

/-! ## Software traps (R242) -/

/-- The immediate that TRAP, SYSC and BRK report. -/
def trapImm (o : Opnds) : Word := (o.imm.extractLsb' 0 12).setWidth 32

/-- TRAP (R242). -/
def execTrap (o : Opnds) (s : State) : Out := trapExec (.trap o) s 24 0 (trapImm o)

/-- SYSC (R242). -/
def execSysc (o : Opnds) (s : State) : Out := trapExec (.sysc o) s 25 0 (trapImm o)

/-- BRK stops its context outside a handler while DBGCTL.BSTOP = 1 (R275, R279). -/
def brkStops (s : State) : Bool :=
  let l := execHead s
  !(curLane s l).inHandler && (coreReg s (headCore (curCtx s) l) 0x156).getLsbD 31

/-- BRK (R242, R275). -/
def execBrk (o : Opnds) (s : State) : Out :=
  if brkStops s then .next (stopCtx s 3 (if isStrand (curCtx s) then 1 else maskOf s.cur.lanes))
  else trapExec (.brk o) s 26 0 (trapImm o)

/-- ERET (R243). -/
def execEret (o : Opnds) (s : State) : Out := eret (.eret o) s

/-- TMARK (R273): the detail record of the issue comes before the mark. -/
def execTmark (o : Opnds) (s : State) : Out :=
  let i := Instr.tmark o
  .next (complete i (markRecord (detailRecord s s i) (laneReg (curLane s (execHead s)) o.x.toNat) o.imm))

/-! ## Translation state (R435, R436) -/

/-- The translation unit of the issuer. -/
def ownXl (s : State) : Nat := xlBayOf (curCore s (execHead s))

/-- SCOPE 1 to 4 of TFENCE and TLBI act as .bay (R435). -/
def xlScope (sc : Scope) : Scope :=
  match sc with
  | .none | .strand | .core | .truss => .bay
  | sc => sc

/-- Changes the walk cache of every bay in a scope. -/
def modWalks (s : State) (sc : Scope) (f : List WalkEnt → List WalkEnt) : State :=
  (s.bays.map (·.1)).foldl (fun z b => if xlInScope (ownXl s) sc b then modBay z b fun e => { e with walk := f e.walk } else z) s

/-- Changes every TLB in a scope: those of the bays, and of their Trusses and cores (R430, R436). -/
def modTlbs (s : State) (sc : Scope) (f : List TlbEnt → List TlbEnt) : State :=
  let own := ownXl s
  let s1 := (s.bays.map (·.1)).foldl (fun z b =>
    if xlInScope own sc b then modBay z b fun e => { e with tlb := f e.tlb } else z) s
  let s2 := (s.trusses.map (·.1)).foldl (fun z t =>
    if xlInScope own sc (t / 16) then modTruss z t fun e => { e with tlb := f e.tlb } else z) s1
  (s.cores.map (·.1)).foldl (fun z k =>
    if xlInScope own sc (xlBayOf k) then modCore z k fun e => { e with tlb := f e.tlb } else z) s2

/-- TFENCE (R420, R435): later walks of the units in its scope read no value that a store had replaced by now. -/
def execTfence (o : Opnds) (s : State) : Out :=
  let sc := xlScope o.g.scope
  if accessesOut s s.cur.ctx (execLanes s) sc then retry s
  else
    let f : XlFence := { unit := ownXl s, scope := sc, since := s.free, ctx := s.cur.ctx, lanes := execLanes s }
    let s1 := modWalks s sc fun _ => []
    .next (complete (.tfence o) (if execLanes s = [] then s else { s1 with fences := s1.fences ++ [f] }))

/-- The bay of a lane of a context lies in a scope. -/
def laneInScope (s : State) (own : Nat) (sc : Scope) (ctx lane : Nat) : Bool :=
  xlInScope own sc (xlBayOf (laneCore (getCtx s ctx) lane))

/-- An event is an access of an agent in a scope that has been translated and not yet performed (R436, log 39). -/
def xlAccess (s : State) (own : Nat) (sc : Scope) (e : Ev) : Bool :=
  match e with
  | .relaxedLoadReturn a => a.lanes.any fun k => laneInScope s own sc a.ctx k.lane
  | .relaxedStorePerform p => laneInScope s own sc p.ctx p.acc.lane
  | .queueLoadFill q | .storeQueuePerform q => laneInScope s own sc q.ctx q.lane
  | .fabricRequestArrival r => r.acc.lanes.any fun k => laneInScope s own sc r.acc.ctx k.lane
  | _ => false

/-- An engine entry that has translated its pages has not completed. -/
def xlEntry (own : Nat) (sc : Scope) (e : QEnt) : Bool :=
  (e.started || !e.pages.isEmpty) && xlInScope own sc (xlBayOf e.core)

/-- A lane waits inside FPUT with blocks that are translated and not yet stored (R487). -/
def xlPuts (s : State) (own : Nat) (sc : Scope) : Bool :=
  s.ctxs.any fun e => e.2.alive && (allLanes e.2).any fun l => laneInScope s own sc e.1 l &&
    match (getLane e.2 l).wait with
    | .fput _ => true
    | _ => false

/-- An access, queue entry or engine entry of an agent in a scope has been translated and is still on its way (R436). -/
def xlBusy (s : State) (own : Nat) (sc : Scope) : Bool :=
  s.flight.any (xlAccess s own sc) || xlPuts s own sc
    || s.trusses.any (fun t => (t.2.matrix ++ t.2.gather ++ t.2.copy).any (xlEntry own sc))
    || s.cores.any (fun c => (c.2.slice ++ c.2.copy).any (xlEntry own sc))

/-- The walk cache holds a pointer on an address's path. -/
def onPath (asid : Nat) (va : DWord) (w : WalkEnt) : Bool :=
  w.asid == asid && w.pre == va.toNat / 2 ^ (12 + 9 * w.level)

/-- TLBI in its three forms: what each lane keeps of the TLBs and of the walk caches. -/
def runTlbi (i : Instr) (s : State) (tlb : Vals → List TlbEnt → List TlbEnt) (wk : Vals → List WalkEnt → List WalkEnt) : Out :=
  let sc := xlScope i.opnds.g.scope
  let ls := execLanes s
  if !curPriv s then privTrap i s
  else if accessesOut s s.cur.ctx ls sc then retry s
  else
    let s1 := ls.foldl (fun z l =>
      let v := valsOf i (curLane s l)
      modWalks (modTlbs z sc (tlb v)) sc (wk v)) s
    if xlBusy s1 (ownXl s) sc then retry s1 else .next (complete i s1)

/-- The ASID that TLBI names. -/
def tlbiAsidOf (v : Vals) : Nat := (v.s2.extractLsb' 0 12).toNat

/-- TLBI.page (R436): an address that is not canonical matches nothing. -/
def execTlbiPage (o : Opnds) (s : State) : Out :=
  runTlbi (.tlbiPage o) s
    (fun v l => if canonical v.s1 then l.filter fun e => !(tlbHits l (tlbiAsidOf v) v.s1).contains e else l)
    (fun v l => if canonical v.s1 then l.filter fun w => !onPath (tlbiAsidOf v) v.s1 w else l)

/-- TLBI.asid (R436). -/
def execTlbiAsid (o : Opnds) (s : State) : Out :=
  runTlbi (.tlbiAsid o) s (fun v l => l.filter fun e => e.asid != tlbiAsidOf v)
    (fun v l => l.filter fun w => w.asid != tlbiAsidOf v)

/-- TLBI.all (R436). -/
def execTlbiAll (o : Opnds) (s : State) : Out := runTlbi (.tlbiAll o) s (fun _ _ => []) (fun _ _ => [])

/-- PAGE_WALK (R427, R430): a walk that ends on a page fills the TLBs; one that fails leaves nothing. -/
def execPageWalk (s : State) : Out :=
  match s.ev with
  | some (.pageWalk bay ttb va) =>
    match findIn s (getBay s bay).tlb bay ttb va with
    | .ok (p, ws) => .next (keepBay s bay p ws)
    | .error _ => .next s
  | _ => .fault .noEvent

end Sys2Proof.Machine
end

