-- ==== Sys2Proof/Machine/Dispatch.lean ====
section
/-! DEFINITION. The meaning of every instruction and event: one arm for each constructor of Instr. -/

namespace Sys2Proof.Machine

open Sys2Proof

/-- What an instruction of the issuer, or an event, does (one arm for each row of the opcode table). -/
def exec (i : Instr) (s : State) : Host.Outcome State Fault Refusal :=
  match i with
  | .mov o => Sys2Proof.Machine.execMov o s
  | .movi o => Sys2Proof.Machine.execMovi o s
  | .add o => Sys2Proof.Machine.execAdd o s
  | .addi o => Sys2Proof.Machine.execAddi o s
  | .sub o => Sys2Proof.Machine.execSub o s
  | .and o => Sys2Proof.Machine.execAnd o s
  | .or o => Sys2Proof.Machine.execOr o s
  | .xor o => Sys2Proof.Machine.execXor o s
  | .not o => Sys2Proof.Machine.execNot o s
  | .shlReg o => Sys2Proof.Machine.execShlReg o s
  | .shlImm o => Sys2Proof.Machine.execShlImm o s
  | .shrReg o => Sys2Proof.Machine.execShrReg o s
  | .shrImm o => Sys2Proof.Machine.execShrImm o s
  | .sarReg o => Sys2Proof.Machine.execSarReg o s
  | .sarImm o => Sys2Proof.Machine.execSarImm o s
  | .skp c o => Sys2Proof.Machine.execSkp c o s
  | .skpi c o => Sys2Proof.Machine.execSkpi c o s
  | .skbSet o => Sys2Proof.Machine.execSkbSet o s
  | .skbClr o => Sys2Proof.Machine.execSkbClr o s
  | .jmp o => Sys2Proof.Machine.execJmp o s
  | .call o => Sys2Proof.Machine.execCall o s
  | .calli o => Sys2Proof.Machine.execCalli o s
  | .ret o => Sys2Proof.Machine.execRet o s
  | .mark o => Sys2Proof.Machine.execMark o s
  | .join o => Sys2Proof.Machine.execJoin o s
  | .frame o => Sys2Proof.Machine.execFrame o s
  | .nop o => Sys2Proof.Machine.execNop o s
  | .ld sz o => Sys2Proof.Machine.execLd sz o s
  | .st sz o => Sys2Proof.Machine.execSt sz o s
  | .lea o => Sys2Proof.Machine.execLea o s
  | .br o => Sys2Proof.Machine.execBr o s
  | .brW o => Sys2Proof.Machine.execBrW o s
  | .adc o => Sys2Proof.Machine.execAdc o s
  | .sbc o => Sys2Proof.Machine.execSbc o s
  | .adds w o => Sys2Proof.Machine.execAdds w o s
  | .subs w o => Sys2Proof.Machine.execSubs w o s
  | .mul w o => Sys2Proof.Machine.execMul w o s
  | .mulh w o => Sys2Proof.Machine.execMulh w o s
  | .mulhn w o => Sys2Proof.Machine.execMulhn w o s
  | .mulw w o => Sys2Proof.Machine.execMulw w o s
  | .div w o => Sys2Proof.Machine.execDiv w o s
  | .divn w o => Sys2Proof.Machine.execDivn w o s
  | .rem w o => Sys2Proof.Machine.execRem w o s
  | .remn w o => Sys2Proof.Machine.execRemn w o s
  | .min w o => Sys2Proof.Machine.execMin w o s
  | .max w o => Sys2Proof.Machine.execMax w o s
  | .minn w o => Sys2Proof.Machine.execMinn w o s
  | .maxn w o => Sys2Proof.Machine.execMaxn w o s
  | .abs w o => Sys2Proof.Machine.execAbs w o s
  | .neg w o => Sys2Proof.Machine.execNeg w o s
  | .andn w o => Sys2Proof.Machine.execAndn w o s
  | .orn w o => Sys2Proof.Machine.execOrn w o s
  | .rolReg o => Sys2Proof.Machine.execRolReg o s
  | .rolImm o => Sys2Proof.Machine.execRolImm o s
  | .rorReg o => Sys2Proof.Machine.execRorReg o s
  | .rorImm o => Sys2Proof.Machine.execRorImm o s
  | .clz w o => Sys2Proof.Machine.execClz w o s
  | .ctz w o => Sys2Proof.Machine.execCtz w o s
  | .popc w o => Sys2Proof.Machine.execPopc w o s
  | .brev w o => Sys2Proof.Machine.execBrev w o s
  | .bswp w o => Sys2Proof.Machine.execBswp w o s
  | .bfx o => Sys2Proof.Machine.execBfx o s
  | .bfxn o => Sys2Proof.Machine.execBfxn o s
  | .bfi o => Sys2Proof.Machine.execBfi o s
  | .sel k o => Sys2Proof.Machine.execSel k o s
  | .movbToG o => Sys2Proof.Machine.execMovbToG o s
  | .movbToB o => Sys2Proof.Machine.execMovbToB o s
  | .setc c o => Sys2Proof.Machine.execSetc c o s
  | .setb c o => Sys2Proof.Machine.execSetb c o s
  | .fadd t o => Sys2Proof.Machine.execFadd t o s
  | .fsub t o => Sys2Proof.Machine.execFsub t o s
  | .fmul t o => Sys2Proof.Machine.execFmul t o s
  | .fma t o => Sys2Proof.Machine.execFma t o s
  | .fnma t o => Sys2Proof.Machine.execFnma t o s
  | .fmin t o => Sys2Proof.Machine.execFmin t o s
  | .fmax t o => Sys2Proof.Machine.execFmax t o s
  | .fabs t o => Sys2Proof.Machine.execFabs t o s
  | .fneg t o => Sys2Proof.Machine.execFneg t o s
  | .fdiv t o => Sys2Proof.Machine.execFdiv t o s
  | .fsqrt t o => Sys2Proof.Machine.execFsqrt t o s
  | .frcp t o => Sys2Proof.Machine.execFrcp t o s
  | .frsq t o => Sys2Proof.Machine.execFrsq t o s
  | .fexp2 t o => Sys2Proof.Machine.execFexp2 t o s
  | .flog2 t o => Sys2Proof.Machine.execFlog2 t o s
  | .fsin t o => Sys2Proof.Machine.execFsin t o s
  | .fcos t o => Sys2Proof.Machine.execFcos t o s
  | .fcls t o => Sys2Proof.Machine.execFcls t o s
  | .fskp c t o => Sys2Proof.Machine.execFskp c t o s
  | .fsetc c t o => Sys2Proof.Machine.execFsetc c t o s
  | .frnd t o => Sys2Proof.Machine.execFrnd t o s
  | .cvt src dst o => Sys2Proof.Machine.execCvt src dst o s
  | .cvti n t o => Sys2Proof.Machine.execCvti n t o s
  | .cvtf n t o => Sys2Proof.Machine.execCvtf n t o s
  | .enc8 t o => Sys2Proof.Machine.execEnc8 t o s
  | .dec8 t o => Sys2Proof.Machine.execDec8 t o s
  | .ldq sz o => Sys2Proof.Machine.execLdq sz o s
  | .stq sz o => Sys2Proof.Machine.execStq sz o s
  | .qadv k o => Sys2Proof.Machine.execQadv k o s
  | .qrst o => Sys2Proof.Machine.execQrst o s
  | .pref t o => Sys2Proof.Machine.execPref t o s
  | .ldl sz o => Sys2Proof.Machine.execLdl sz o s
  | .stl sz o => Sys2Proof.Machine.execStl sz o s
  | .atom op w o => Sys2Proof.Machine.execAtom op w o s
  | .cas w o => Sys2Proof.Machine.execCas w o s
  | .red op w o => Sys2Proof.Machine.execRed op w o s
  | .afn f w o => Sys2Proof.Machine.execAfn f w o s
  | .fence o => Sys2Proof.Machine.execFence o s
  | .fenceAcq o => Sys2Proof.Machine.execFenceAcq o s
  | .fenceRel o => Sys2Proof.Machine.execFenceRel o s
  | .clasp n o => Sys2Proof.Machine.execClasp n o s
  | .unclasp o => Sys2Proof.Machine.execUnclasp o s
  | .unclaspJoin o => Sys2Proof.Machine.execUnclaspJoin o s
  | .lane o => Sys2Proof.Machine.execLane o s
  | .laneAct o => Sys2Proof.Machine.execLaneAct o s
  | .laneLive o => Sys2Proof.Machine.execLaneLive o s
  | .width o => Sys2Proof.Machine.execWidth o s
  | .shfl m o => Sys2Proof.Machine.execShfl m o s
  | .vote m o => Sys2Proof.Machine.execVote m o s
  | .rseg f o => Sys2Proof.Machine.execRseg f o s
  | .scan f o => Sys2Proof.Machine.execScan f o s
  | .bar o => Sys2Proof.Machine.execBar o s
  | .cmodePrivate o => Sys2Proof.Machine.execCmodePrivate o s
  | .cmodeShared o => Sys2Proof.Machine.execCmodeShared o s
  | .spawnCtx o => Sys2Proof.Machine.execSpawnCtx o s
  | .spawnCourse o => Sys2Proof.Machine.execSpawnCourse o s
  | .quit o => Sys2Proof.Machine.execQuit o s
  | .reapPoll o => Sys2Proof.Machine.execReapPoll o s
  | .reapWait o => Sys2Proof.Machine.execReapWait o s
  | .reapForce o => Sys2Proof.Machine.execReapForce o s
  | .sleep o => Sys2Proof.Machine.execSleep o s
  | .wake o => Sys2Proof.Machine.execWake o s
  | .yld o => Sys2Proof.Machine.execYld o s
  | .yldCc o => Sys2Proof.Machine.execYldCc o s
  | .spin w o => Sys2Proof.Machine.execSpin w o s
  | .wspBind o => Sys2Proof.Machine.execWspBind o s
  | .wspRead o => Sys2Proof.Machine.execWspRead o s
  | .gets o => Sys2Proof.Machine.execGets o s
  | .sets o => Sys2Proof.Machine.execSets o s
  | .cinvData o => Sys2Proof.Machine.execCinvData o s
  | .cinvCode o => Sys2Proof.Machine.execCinvCode o s
  | .cinvAll o => Sys2Proof.Machine.execCinvAll o s
  | .cwbLine o => Sys2Proof.Machine.execCwbLine o s
  | .cwbAll o => Sys2Proof.Machine.execCwbAll o s
  | .msend c fs o => Sys2Proof.Machine.execMsend c fs o s
  | .mbind c o => Sys2Proof.Machine.execMbind c o s
  | .mbindKeep c o => Sys2Proof.Machine.execMbindKeep c o s
  | .mbindUn c keep o => Sys2Proof.Machine.execMbindUn c keep o s
  | .mwaitAll c o => Sys2Proof.Machine.execMwaitAll c o s
  | .mwaitAny c o => Sys2Proof.Machine.execMwaitAny c o s
  | .mack c o => Sys2Proof.Machine.execMack c o s
  | .mfmt o => Sys2Proof.Machine.execMfmt o s
  | .mtab tbl t4 o => Sys2Proof.Machine.execMtab tbl t4 o s
  | .mtabPreset tbl t4 p o => Sys2Proof.Machine.execMtabPreset tbl t4 p o s
  | .mma sh o => Sys2Proof.Machine.execMma sh o s
  | .mmag sh o => Sys2Proof.Machine.execMmag sh o s
  | .mzro sh o => Sys2Proof.Machine.execMzro sh o s
  | .mstc sh o => Sys2Proof.Machine.execMstc sh o s
  | .mldc sh o => Sys2Proof.Machine.execMldc sh o s
  | .gath lg i32 o => Sys2Proof.Machine.execGath lg i32 o s
  | .mqf mask o => Sys2Proof.Machine.execMqf mask o s
  | .lease o => Sys2Proof.Machine.execLease o s
  | .leaseRd o => Sys2Proof.Machine.execLeaseRd o s
  | .migrL o => Sys2Proof.Machine.execMigrL o s
  | .migrD o => Sys2Proof.Machine.execMigrD o s
  | .migrAny o => Sys2Proof.Machine.execMigrAny o s
  | .wpush o => Sys2Proof.Machine.execWpush o s
  | .wpopTail o => Sys2Proof.Machine.execWpopTail o s
  | .wpopHead o => Sys2Proof.Machine.execWpopHead o s
  | .mcast o => Sys2Proof.Machine.execMcast o s
  | .rredLast o => Sys2Proof.Machine.execRredLast o s
  | .rredAll o => Sys2Proof.Machine.execRredAll o s
  | .lnch o => Sys2Proof.Machine.execLnch o s
  | .lnchHw o => Sys2Proof.Machine.execLnchHw o s
  | .gsub o => Sys2Proof.Machine.execGsub o s
  | .gdone o => Sys2Proof.Machine.execGdone o s
  | .gdoneFail o => Sys2Proof.Machine.execGdoneFail o s
  | .cpy o => Sys2Proof.Machine.execCpy o s
  | .cpyJoin o => Sys2Proof.Machine.execCpyJoin o s
  | .cpyr o => Sys2Proof.Machine.execCpyr o s
  | .tsend o => Sys2Proof.Machine.execTsend o s
  | .tget o => Sys2Proof.Machine.execTget o s
  | .fput o => Sys2Proof.Machine.execFput o s
  | .fget o => Sys2Proof.Machine.execFget o s
  | .xfence o => Sys2Proof.Machine.execXfence o s
  | .xfencePkg o => Sys2Proof.Machine.execXfencePkg o s
  | .trap o => Sys2Proof.Machine.execTrap o s
  | .sysc o => Sys2Proof.Machine.execSysc o s
  | .eret o => Sys2Proof.Machine.execEret o s
  | .brk o => Sys2Proof.Machine.execBrk o s
  | .tmark o => Sys2Proof.Machine.execTmark o s
  | .tfence o => Sys2Proof.Machine.execTfence o s
  | .tlbiPage o => Sys2Proof.Machine.execTlbiPage o s
  | .tlbiAsid o => Sys2Proof.Machine.execTlbiAsid o s
  | .tlbiAll o => Sys2Proof.Machine.execTlbiAll o s
  | .queueLoadFill => Sys2Proof.Machine.execQueueLoadFill s
  | .storeQueuePerform => Sys2Proof.Machine.execStoreQueuePerform s
  | .relaxedLoadReturn => Sys2Proof.Machine.execRelaxedLoadReturn s
  | .relaxedStorePerform => Sys2Proof.Machine.execRelaxedStorePerform s
  | .multiRotationHoldEnd => Sys2Proof.Machine.execMultiRotationHoldEnd s
  | .pageWalk => Sys2Proof.Machine.execPageWalk s
  | .homeFill => Sys2Proof.Machine.execHomeFill s
  | .journalEntryPerform => Sys2Proof.Machine.execJournalEntryPerform s
  | .journalRefusal => Sys2Proof.Machine.execJournalRefusal s
  | .journalRefusalTrap => Sys2Proof.Machine.execJournalRefusalTrap s
  | .spawnRecordArrival => Sys2Proof.Machine.execSpawnRecordArrival s
  | .spawnAnswer => Sys2Proof.Machine.execSpawnAnswer s
  | .spawnQueueStart => Sys2Proof.Machine.execSpawnQueueStart s
  | .exitRecordPost => Sys2Proof.Machine.execExitRecordPost s
  | .wakeArrival => Sys2Proof.Machine.execWakeArrival s
  | .sleepTimeout => Sys2Proof.Machine.execSleepTimeout s
  | .spinWake => Sys2Proof.Machine.execSpinWake s
  | .yldCcWake => Sys2Proof.Machine.execYldCcWake s
  | .messageArrival => Sys2Proof.Machine.execMessageArrival s
  | .messageRetry => Sys2Proof.Machine.execMessageRetry s
  | .windowWrite => Sys2Proof.Machine.execWindowWrite s
  | .timerCompare => Sys2Proof.Machine.execTimerCompare s
  | .interruptEntry => Sys2Proof.Machine.execInterruptEntry s
  | .preemption => Sys2Proof.Machine.execPreemption s
  | .contextResume => Sys2Proof.Machine.execContextResume s
  | .killRequestArrival => Sys2Proof.Machine.execKillRequestArrival s
  | .deathNotice => Sys2Proof.Machine.execDeathNotice s
  | .breakpointStop => Sys2Proof.Machine.execBreakpointStop s
  | .haltStop => Sys2Proof.Machine.execHaltStop s
  | .singleStepStop => Sys2Proof.Machine.execSingleStepStop s
  | .bezelSelect => Sys2Proof.Machine.execBezelSelect s
  | .summaryPeriod => Sys2Proof.Machine.execSummaryPeriod s
  | .fusion => Sys2Proof.Machine.execFusion s
  | .refusion => Sys2Proof.Machine.execRefusion s
  | .barRelease => Sys2Proof.Machine.execBarRelease s
  | .engineEntryStart => Sys2Proof.Machine.execEngineEntryStart s
  | .engineEntryComplete => Sys2Proof.Machine.execEngineEntryComplete s
  | .homePartialAdd => Sys2Proof.Machine.execHomePartialAdd s
  | .routerDelivery => Sys2Proof.Machine.execRouterDelivery s
  | .reductionStep => Sys2Proof.Machine.execReductionStep s
  | .launchAdmission => Sys2Proof.Machine.execLaunchAdmission s
  | .bundleResident => Sys2Proof.Machine.execBundleResident s
  | .launchAnswer => Sys2Proof.Machine.execLaunchAnswer s
  | .graphLoad => Sys2Proof.Machine.execGraphLoad s
  | .purlinNodeComplete => Sys2Proof.Machine.execPurlinNodeComplete s
  | .parkedFaultAnswer => Sys2Proof.Machine.execParkedFaultAnswer s
  | .courseActivation => Sys2Proof.Machine.execCourseActivation s
  | .fairnessDue => Sys2Proof.Machine.execFairnessDue s
  | .fairnessDisplacement => Sys2Proof.Machine.execFairnessDisplacement s
  | .migration => Sys2Proof.Machine.execMigration s
  | .copyEntryComplete => Sys2Proof.Machine.execCopyEntryComplete s
  | .thermalTrip => Sys2Proof.Machine.execThermalTrip s
  | .softErrorThreshold => Sys2Proof.Machine.execSoftErrorThreshold s
  | .softErrorWindowEnd => Sys2Proof.Machine.execSoftErrorWindowEnd s
  | .traceDrain => Sys2Proof.Machine.execTraceDrain s
  | .reset => Sys2Proof.Machine.execReset s
  | .managementBoot => Sys2Proof.Machine.execManagementBoot s
  | .signatureCheck => Sys2Proof.Machine.execSignatureCheck s
  | .firmwareLoad => Sys2Proof.Machine.execFirmwareLoad s
  | .hbmTraining => Sys2Proof.Machine.execHbmTraining s
  | .featureNegotiation => Sys2Proof.Machine.execFeatureNegotiation s
  | .keeperRelease => Sys2Proof.Machine.execKeeperRelease s
  | .attestation => Sys2Proof.Machine.execAttestation s
  | .flitReceive => Sys2Proof.Machine.execFlitReceive s
  | .linkFailure => Sys2Proof.Machine.execLinkFailure s
  | .routeChange => Sys2Proof.Machine.execRouteChange s
  | .fabricRequestArrival => Sys2Proof.Machine.execFabricRequestArrival s
  | .hostProxyDelivery => Sys2Proof.Machine.execHostProxyDelivery s
  | .hostMemAccess => Sys2Proof.Machine.execHostMemAccess s
  | .hostRegisterWrite => Sys2Proof.Machine.execHostRegisterWrite s
  | .lcarveWrite => Sys2Proof.Machine.execLcarveWrite s
  | .mclsWrite => Sys2Proof.Machine.execMclsWrite s
  | .prectlGo => Sys2Proof.Machine.execPrectlGo s
  | .prectlRel => Sys2Proof.Machine.execPrectlRel s
  | .tkillKill => Sys2Proof.Machine.execTkillKill s
  | .tkillOwn => Sys2Proof.Machine.execTkillOwn s
  | .tkillClr => Sys2Proof.Machine.execTkillClr s
  | .dbgctlGo => Sys2Proof.Machine.execDbgctlGo s
  | .dbgctlStep => Sys2Proof.Machine.execDbgctlStep s
  | .dbgctlHalt => Sys2Proof.Machine.execDbgctlHalt s
  | .bezelWrite => Sys2Proof.Machine.execBezelWrite s
  | .losctlFreeze => Sys2Proof.Machine.execLosctlFreeze s
  | .losctlClear => Sys2Proof.Machine.execLosctlClear s
  | .replayEnable => Sys2Proof.Machine.execReplayEnable s
  | .leaseOcWrite => Sys2Proof.Machine.execLeaseOcWrite s
  | .migreqGo => Sys2Proof.Machine.execMigreqGo s
  | .migreqAns => Sys2Proof.Machine.execMigreqAns s
  | .rasctlRetire => Sys2Proof.Machine.execRasctlRetire s
  | .accessPerformed => Sys2Proof.Machine.execAccessPerformed s
  | .rotationBoundary => Sys2Proof.Machine.execRotationBoundary s
  | .managementProcessorRequest => Sys2Proof.Machine.execManagementProcessorRequest s
  | .powerGrant => Sys2Proof.Machine.execPowerGrant s
  | .flitReplay => Sys2Proof.Machine.execFlitReplay s
  | .backedStorageLoss => Sys2Proof.Machine.execBackedStorageLoss s

end Sys2Proof.Machine
end

