-- ==== Sys2Proof/Machine/Load.lean ====
section
/-! DEFINITION. A program placed from outside the machine, for one keeper (log 55). -/

namespace Sys2Proof.Machine

open Sys2Proof

/-- The virtual and physical address of the placed code. -/
def loadBase : Nat := 0x10000

/-- Page tables that map the first GiB to itself with every permission: their root is at 0x1000 (R424, R425). -/
def loadTables (m : List Host.Cell) : List Host.Cell :=
  putBytes (putBytes (putBytes m 0x1000 (leBytes 8 0x2001)) 0x2000 (leBytes 8 0x3001)) 0x3000 (leBytes 8 0x7EF)

/-- The core whose keeper runs the code: D-core 0, or L-core 0 of the first Gable. -/
def loadCore (kind : CoreKind) : Nat :=
  match kind with
  | .lcore => 512
  | _ => 0

/-- The keeper that stands at the placed code. -/
def loadKeeper (kind : CoreKind) : Ctx :=
  keeperCtx State.reset
    { core := loadCore kind, entry := BitVec.ofNat 64 loadBase, tvec := 0, ttb := 0x1000,
      need := maxNeed kind, priv := 0, base := 0, log2n := 0 }

/-- The state in which the next step fetches bytes at the placed code: the code and its page tables stand in memory, the
keeper alone is bound, and no event is due or on its way. -/
def loadCode (s : State) (kind : CoreKind) (bs : List Byte) : State :=
  let z : State :=
    { mem := putBytes (loadTables s.mem) loadBase bs, bad := [], nextCtx := s.nextCtx, pkgs := [], free := s.free }
  addCtx z (loadKeeper kind)

end Sys2Proof.Machine
end

