-- ==== Sys2Proof/Machine/Step.lean ====
section
/-! DEFINITION. One step of the device: an event, an instruction, or the time that passes. -/

namespace Sys2Proof.Machine

open Sys2Proof

/-- An event runs with its data in the state. -/
def stepEvent (e : Ev) (s : State) : Host.Outcome State Fault Refusal :=
  match exec e.kind { s with ev := some e } with
  | .next s1 => .next { s1 with ev := none }
  | .fault f => .fault f
  | .refused r => .refused r

/-- An instruction runs, and the records of its issue follow. -/
def stepInstr (i : Instr) (s : State) : Host.Outcome State Fault Refusal :=
  match exec i s with
  | .next s1 => .next (finish i s s1)
  | .fault f => .fault f
  | .refused r => .refused r

/-- One step: what `plan` says comes next. Each step has a free counter of its own. -/
def step (s : State) : Host.Outcome State Fault Refusal :=
  match plan { s with free := s.free + 1 } with
  | .event e z => stepEvent e z
  | .run i z => stepInstr i z
  | .again z | .still z => .next z

/-- The state in which the next step fetches and runs the instruction whose bits are `w`, numbered as the opcode table
numbers them; the bits above `nbits` are 0. -/
def State.withFetchWord (s : State) (nbits w : Nat) : State :=
  let b := tableBytes nbits w
  loadCode s b.1 b.2

end Sys2Proof.Machine
end

