-- ==== Sys2Proof/Safety.lean ====
section
/-! DEFINITION. The terms in which claims about the machine are stated. -/

namespace Sys2Proof.Machine

open Sys2Proof

/-- Physical memory has its canonical form. -/
def State.memOk (s : State) : Prop := Memory.wf s.mem

/-- The issuing lanes are distinct. -/
def Issues (s : State) : Prop := s.cur.lanes.Nodup

/-- What the completion of an instruction does to a lane of its context, besides the instruction's own effect: an issue
that the lane annuls counts (R107), the lanes that share the issuer's pc go on at the next instruction (R50), and the
issuing lanes hold their slot for the rotations of R183. -/
def passLane (i : Instr) (s : State) (l : Nat) (a : Lane) : Lane :=
  let a := if l ∈ s.cur.lanes then { a with annul := a.annul - 1 } else a
  let a := if l ∈ pcLanes s then { a with pc := nextPc i s, wait := .none } else a
  if l ∈ s.cur.lanes ∧ coreKind (curCtx s).core ≠ .lcore ∧ holdRot i ≠ 0 then { a with hold := holdRot i } else a

/-- The state `t` is `s` with the issuing context replaced by `x`, and its instruction complete: memory, every other
context, every core and unit, and what is due or on its way are as before. -/
def Becomes (s t : State) (x : Ctx) : Prop :=
  t = { s with ctxs := t.ctxs, cur := { s.cur with done := true } }
    ∧ ∀ c, getCtx t c = if c = s.cur.ctx then x else getCtx s c

/-- The lanes of the issuing context, after an instruction that changes the lanes that execute it by `f` and is
complete. -/
def lanesAfter (i : Instr) (s : State) (f : Nat → Lane → Lane) : List Lane :=
  (curCtx s).lanes.mapIdx fun l a => if l ∈ execLanes s then f l (passLane i s l a) else passLane i s l a

/-- The instruction completes: in each lane that executes it, it changes the lane by `f`, and it changes nothing else. -/
def Completes (i : Instr) (s : State) (f : Nat → Lane → Lane) : Prop :=
  ∃ t, exec i s = .next t ∧ Becomes s t { curCtx s with lanes := lanesAfter i s f }

/-- The instruction completes with a result: in each lane that executes it, its queue operand is taken and the result of
the lane's operands goes to x; it changes nothing else. -/
def Gives (i : Instr) (s : State) (f : Lane → DWord) : Prop :=
  Completes i s fun l a => putX i (f (curLane s l)) (consume i.opnds a)

/-- The 32-bit operands of an instruction in a lane. -/
def x32 (i : Instr) (a : Lane) : Word := (valsOf i a).x.setWidth 32
def a32 (i : Instr) (a : Lane) : Word := (valsOf i a).s1.setWidth 32
def b32 (i : Instr) (a : Lane) : Word := (valsOf i a).s2.setWidth 32

/-- The instruction stands in a cell of the opcode map with an FN value, in an operand class (R64, R69). -/
def InCell (i : Instr) (cls : Cls) (page op fn : Nat) : Prop := i.cls = cls ∧ i.cell? = some (page, op, fn)

/-- An instruction with its operands' queues ready and its issuing lanes distinct (R153). -/
def Ready (o : Opnds) (s : State) : Prop := Issues s ∧ queueGate o s = .go

/-- An instruction of two widths gives a function of s1 and s2, under .w32 of their 32-bit values (R89). -/
def GivesW (i : Width → Instr) (s : State) (f : (n : Nat) → BitVec n → BitVec n → BitVec n) : Prop :=
  (Gives (i .w32) s fun a => (f 32 (a32 (i .w32) a) (b32 (i .w32) a)).setWidth 64)
    ∧ Gives (i .w64) s fun a => f 64 (valsOf (i .w64) a).s1 (valsOf (i .w64) a).s2

/-- The value of FN for the size bit (R89). -/
def fnW : Width → Nat
  | .w32 => 0
  | .w64 => 1

/-- A floating-point instruction completes: the result goes to x, and the lane's sticky flags are raised (R120). `f` has
the rounding mode of the lane's STATUS and its operands. -/
def GivesF (i : Instr) (s : State) (f : RMode → Vals → Rounded) : Prop :=
  Completes i s fun l a =>
    let r := f (rmOf (stRM (curLane s l).status)) (valsOf i (curLane s l))
    putX i (BitVec.ofNat 64 r.bits)
      { consume i.opnds a with status := (curLane s l).status ||| flagBits r.flags }

/-- A target breaks R10 in a form (R113). -/
def breaksR10 (f : Form) (t : DWord) : Bool :=
  t.toNat % (match f with | .k => 2 | .w => 4) != 0 || t.toNat / 2 ^ 57 != (if t.toNat / 2 ^ 56 % 2 = 1 then 127 else 0)

/-- A control transfer takes each lane that executes it to its target, and writes its link there: in a strand and in a
split lane, and in a course whose lanes all go to one address. A course that is not split and whose lanes go to two
addresses goes on at the one of its first lane, and its top mark holds the others, where it holds no lanes yet; else it
splits before the transfer, and no lane's pc, link or annul count is written (R291). -/
def Jumps (i : Instr) (s : State) (tgt : Nat → DWord) (link : Lane → Lane) : Prop :=
  let x := curCtx s
  let go (l : Nat) (a : Lane) : Lane :=
    { (if l ∈ execLanes s then link a else a) with annul := if l ∈ s.cur.lanes then a.annul - 1 else a.annul,
                                                   pc := if l ∈ execLanes s then tgt l else nextPc i s, wait := .none }
  (∀ l ∈ execLanes s, breaksR10 (ctxForm x) (tgt l) = false) →
    ((x.split || isStrand x) = true →
      ∃ t, exec i s = .next t
        ∧ Becomes s t { x with lanes := x.lanes.mapIdx fun l a => if l ∈ s.cur.lanes then go l a else a })
    ∧ (∀ p, (x.split || isStrand x) = false → s.cur.lanes ≠ [] →
        (∀ l ∈ s.cur.lanes, (if l ∈ execLanes s then tgt l else nextPc i s) = p) →
      ∃ t, exec i s = .next t
        ∧ Becomes s t { x with lanes := x.lanes.mapIdx fun l a => { go l a with pc := p } })
    ∧ ((x.split || isStrand x) = false →
      let dest (l : Nat) : DWord := if l ∈ execLanes s then tgt l else nextPc i s
      let p := dest (s.cur.lanes.headD 0)
      let away := s.cur.lanes.filter fun l => dest l != p
      let two := ∀ l ∈ away, ∀ k ∈ away, dest l = dest k
      away ≠ [] →
        (∀ m ms, x.marks = m :: ms → m.dmask = 0 → two → ∃ t, exec i s = .next t
          ∧ Becomes s t { x with
              marks := { m with dmask := maskOf away, dpc := dest (away.headD 0) } :: ms,
              lanes := x.lanes.mapIdx fun l a => { go l a with pc := p, actv := if l ∈ away then false else a.actv } })
        ∧ ((x.marks = [] ∨ (x.marks.headD { rj := 0, mask := 0 }).dmask ≠ 0 ∨ ¬ two) → ∃ t, exec i s = .next t
          ∧ t = { s with ctxs := t.ctxs } ∧ (∀ c, c ≠ s.cur.ctx → getCtx t c = getCtx s c)
          ∧ let y := getCtx t s.cur.ctx
            y.split = true ∧ y.cause = 1 ∧ y.lanes.length = x.lanes.length
              ∧ ∀ l ∈ s.cur.lanes, l < x.lanes.length → let a := getLane x l
                let b := getLane y l
                b.regs = a.regs ∧ b.annul = a.annul ∧ (a.live = true → a.actv = true → b.pc = a.pc ∧ b.depth = x.marks.length)))

/-- One lane of a strand issues, executes its instruction, and waits for nothing. -/
def OneLane (s : State) (l : Nat) : Prop :=
  isStrand (curCtx s) = true ∧ s.cur.lanes = [l] ∧ l < (curCtx s).lanes.length ∧ (curLane s l).annul = 0
    ∧ (curLane s l).wait = .none

/-- The access of an instruction by one lane of a strand passes its checks with the page and physical address of `p`
(R141 to R149, R166): it is in the strand's own package or a host range (R475) and not to a window, it goes to its home at once, no watchpoint is
hit, no access of the strand is on its way, and an access of a device page need not wait for one in a journal (R164). -/
def Reaches (i : Instr) (s : State) (op : MemOp) (l : Nat) (p : Passed) : Prop :=
  OneLane s l ∧ checkLane s l op (memAddr i.opnds (curLane s l)) (!i.opnds.g.rlx) = .ok p
    ∧ farFrom (pkgOf (curCore s l)) p.acc.pa = false ∧ targetOf p.acc.pa ≠ .window
    ∧ cacheAt s (curCore s l) p.acc.attr p.acc.pa = .nowhere ∧ homeFail s (curCore s l) op p.acc = none
    ∧ watchReport i s false (watchKinds op) [(l, p.acc.va, opBytes op)] = none
    ∧ replayOn s (curCore s l) = false ∧ s.flight = [] ∧ deviceWaits s [p.acc] = false

/-- The lane of a strand after its access: it stands at the next instruction and is held until the access has been
performed (R145); other contexts are as before. -/
def AfterAccess (i : Instr) (s t : State) (l : Nat) (a : Lane) : Prop :=
  t.cur = { s.cur with done := true }
    ∧ ∀ c, getCtx t c = if c = s.cur.ctx
        then { curCtx s with lanes := setAt (curCtx s).lanes l fun _ => { a with pc := nextPc i s, wait := .access } }
        else getCtx s c

/-- The number that a lane's data operand of a size holds (R140). -/
def dataNat (sz : ISize) (a : Lane) (x : Nat) : Nat :=
  match sz with
  | .w128 => (laneReg a (x + 3) ++ laneReg a (x + 2) ++ laneReg a (x + 1) ++ laneReg a x).toNat
  | .w64 => (laneReg a (x + 1) ++ laneReg a x).toNat
  | _ => (laneReg a x).toNat

/-- The size of a width. -/
def sizeOfW : Width → ISize
  | .w32 => .w32
  | .w64 => .w64

/-- n bytes from an address hold a number, and every other byte of memory is as before. -/
def Stores (s t : State) (pa n v : Nat) : Prop :=
  ∀ a, memByte t a = if pa ≤ a ∧ a < pa + n then BitVec.ofNat 8 (v / 256 ^ (a - pa)) else memByte s a

/-- Words of a block of bytes, `now` of the 8-byte words `ws` of it, stand in memory at an address, and every byte outside
them is as before. -/
def PutsWords (s t : State) (pa : Nat) (bs : List Byte) (ws now : List Nat) : Prop :=
  (∀ k ∈ now, k ∈ ws) ∧ (∀ k ∈ now, memBytes t (pa + 8 * k) 8 = (bs.drop (8 * k)).take 8)
    ∧ ∀ y, (∀ k ∈ now, y < pa + 8 * k ∨ pa + 8 * k + 8 ≤ y) → memByte t y = memByte s y

/-- The number that a finite value stands for. -/
def ratOf : FVal → Option Rat
  | .fin n m e => some ((if n then -1 else 1) * m * (2 : Rat) ^ e)
  | _ => none

/-- A loaded value of a size in a lane's registers (R148). -/
def loadInto (sz : ISize) (x v : Nat) (a : Lane) : Lane :=
  match sz with
  | .s8 => setLaneReg x ((BitVec.ofNat 8 v).signExtend 32) a
  | .s16 => setLaneReg x ((BitVec.ofNat 16 v).signExtend 32) a
  | .n8 | .n16 | .w32 => setLaneReg x (BitVec.ofNat 32 v) a
  | .w64 => setLanePair x (BitVec.ofNat 64 v) a
  | .w128 => setLaneQuad x (BitVec.ofNat 128 v) a

/-- The instruction is complete in its own context, where it changes the lanes that execute it by `f`; no other context
changes. -/
def Passes (i : Instr) (s t : State) (f : Nat → Lane → Lane) : Prop :=
  t.cur = { s.cur with done := true } ∧ (getCtx t s.cur.ctx).lanes = lanesAfter i s f
    ∧ ∀ c, c ≠ s.cur.ctx → getCtx t c = getCtx s c

/-- The instruction is complete and no lane keeps a change of its own. -/
def Passed0 (i : Instr) (s t : State) : Prop := Passes i s t fun _ a => a

/-- The instruction does not complete: its lanes wait to issue it again, and nothing else changes. -/
def Waits (i : Instr) (s : State) : Prop :=
  ∃ t, exec i s = .next t ∧ t = { s with ctxs := t.ctxs }
    ∧ ∀ c, getCtx t c = if c = s.cur.ctx
        then { curCtx s with lanes := (curCtx s).lanes.mapIdx fun l a => if l ∈ s.cur.lanes then { a with wait := .retry } else a }
        else getCtx s c

/-- A lane after an instruction, and one of its queues. -/
def laneOf (t s : State) (l : Nat) : Lane := getLane (getCtx t s.cur.ctx) l

/-- The SRAM byte of a `loc` address of a lane (R142, R311). -/
def locPlace (s : State) (l a : Nat) : Nat × Nat := spaceAt s (locSpace (curCtx s) l) a


/-- No core of the issuing context keeps a replay log. -/
def Unlogged (s : State) : Prop := ∀ l, replayOn s (curCore s l) = false

/-- No launch is held on any die, so that nothing is placed when a context ends. -/
def NoLaunch (s : State) : Prop := ∀ d, (getDie s d).launches = []

/-- An instruction puts an entry with its operands at the end of a queue and completes, or waits for room (R324). -/
def Enqueues (i : Instr) (s : State) (q : QueueId) : Prop :=
  let v := valsOf i (curLane s (execHead s))
  (queueRoom s q = true → ∃ t e, exec i s = .next t ∧ queueOf t q = queueOf s q ++ [e] ∧ t.mem = s.mem
    ∧ Passes i s t (fun _ a => consume i.opnds a) ∧ e.instr = i ∧ e.ctx = s.cur.ctx ∧ e.x = v.x ∧ e.s1 = v.s1
    ∧ e.s2 = v.s2 ∧ e.task = (curCtx s).task ∧ e.started = false)
  ∧ (queueRoom s q = false → ∃ t, exec i s = .next t ∧ t.cur = s.cur ∧ queueOf t q = queueOf s q ∧ t.mem = s.mem
    ∧ ∀ l ∈ s.cur.lanes, l < (curCtx s).lanes.length → (laneOf t s l).wait = .retry)

/-- What an instruction checks before it looks at its queue operands lets it go on: its mode (R200, R202, R208, R228), the
target of YLD.cc (R206), the entry of SPAWN, which names no descriptor here (R197), and no messages that GDONE has still to
send (R385); the others look at their queue operands first (R153). -/
def QueuesNext (i : Instr) (s : State) : Prop :=
  match i with
  | .quit _ => curPriv s = false
  | .reapForce _ | .wspBind _ | .wspRead _ => curPriv s = true
  | .mbind c _ | .mbindKeep c _ | .mbindUn c _ _ => c.toNat ≠ 0 ∨ curPriv s = true
  | .gdone _ | .gdoneFail _ => msendLeft s = none
  | .yldCc o =>
    ¬ (coreKind (curCtx s).core = .eave ∧ 16 ≤ (valsOf i (curLane s (execHead s))).x.toNat % 128)
      ∧ badTarget (ctxForm (curCtx s)) (curPc s + jUnit o.form * o.imm) = false
  | .spawnCtx _ | .spawnCourse _ => answerOf s = none ∧ ∀ l ∈ execLanes s,
      (valsOf i (curLane s l)).s2.getLsbD 0 = false ∧ ∀ f, badTarget f (valsOf i (curLane s l)).s2 = false
  | _ => True

/-- The turn of a core comes next: nothing is due, no unit leaves for another package, and no event comes now (R180, R191,
R507). -/
def TurnOf (s : State) (core : Nat) : Prop :=
  s.due = [] ∧ urgent s = none ∧ pickLeave s = none ∧ pickEv s = none ∧ oneOf s 2 (turns s) = some core

/-- Lanes stand before an instruction, and nothing precedes it: no annulled instruction (R107), refused access (R245),
breakpoint (R275), log entry (R284), migration (R404), rejoin (R295), or tables that a migration brought (R402). -/
def AtInstruction (s : State) (c : Nat) (ls : List Nat) : Prop :=
  let x := getCtx s c
  let a := getLane x (ls.headD 0)
  ls ≠ [] ∧ before a = true ∧ a.annul = 0 ∧ (∀ l, (getLane x l).refpend = []) ∧ breakAt s x (ls.headD 0) = none
    ∧ replays s x = false ∧ migStart s c x = none
    ∧ (∀ l ∈ ls, rejoins x (getLane x l) = false) ∧ x.tables = none

/-- What a step answers that runs an instruction from a state: the instruction's own outcome, and with a next state the
records of its issue. -/
def RunsAs (i : Instr) (z s : State) : Prop :=
  step s = match exec i z with
    | .next t => .next (finish i z t)
    | .fault f => .fault f
    | .refused r => .refused r

end Sys2Proof.Machine
end

