-- ==== Sys2Proof/Certificates/Slice0/Obligations.lean ====
section
/-! DEFINITION. What is claimed of the machine. -/

open Sys2Proof Sys2Proof.Machine

/-! ## Integer, logic, skips and control -/

/-- R96 to R98: the arithmetic and logic instructions, sums with a carry in and out, and ADDI. -/
def Obligations.SumsAndLogicResults : Prop :=
  (∀ (o : Opnds) (s : State), Ready o s →
     Gives (.add o) s (fun a => (a32 (.add o) a + b32 (.add o) a).setWidth 64)
     ∧ Gives (.sub o) s (fun a => (a32 (.sub o) a - b32 (.sub o) a).setWidth 64)
     ∧ Gives (.and o) s (fun a => (a32 (.and o) a &&& b32 (.and o) a).setWidth 64)
     ∧ Gives (.or o) s (fun a => (a32 (.or o) a ||| b32 (.or o) a).setWidth 64)
     ∧ Gives (.xor o) s (fun a => (a32 (.xor o) a ^^^ b32 (.xor o) a).setWidth 64)
     ∧ Gives (.not o) s (fun a => (~~~ b32 (.not o) a).setWidth 64)
     ∧ GivesW (.adds · o) s (fun n a b => BitVec.ofInt n (min (max (a.toInt + b.toInt) (-2 ^ (n - 1))) (2 ^ (n - 1) - 1)))
     ∧ GivesW (.subs · o) s (fun n a b => BitVec.ofInt n (min (max (a.toInt - b.toInt) (-2 ^ (n - 1))) (2 ^ (n - 1) - 1)))
     ∧ GivesW (.min · o) s (fun n a b => BitVec.ofInt n (min a.toInt b.toInt))
     ∧ GivesW (.max · o) s (fun n a b => BitVec.ofInt n (max a.toInt b.toInt))
     ∧ GivesW (.minn · o) s (fun n a b => BitVec.ofNat n (min a.toNat b.toNat))
     ∧ GivesW (.maxn · o) s (fun n a b => BitVec.ofNat n (max a.toNat b.toNat))
     ∧ GivesW (.abs · o) s (fun n _ b => BitVec.ofInt n |b.toInt|)
     ∧ GivesW (.neg · o) s (fun n _ b => BitVec.ofInt n (0 - b.toInt))
     ∧ GivesW (.andn · o) s (fun _ a b => a &&& ~~~ b)
     ∧ GivesW (.orn · o) s (fun _ a b => a ||| ~~~ b)
     ∧ InCell (.add o) .a 0 3 0 ∧ InCell (.sub o) .a 0 5 0 ∧ InCell (.and o) .a 0 6 0 ∧ InCell (.or o) .a 0 7 0
     ∧ InCell (.xor o) .a 0 8 0 ∧ InCell (.not o) .a 0 9 0
     ∧ ∀ w, InCell (.adds w o) .a 1 2 (fnW w) ∧ InCell (.subs w o) .a 1 3 (fnW w) ∧ InCell (.min w o) .a 1 12 (fnW w)
         ∧ InCell (.max w o) .a 1 13 (fnW w) ∧ InCell (.minn w o) .a 1 14 (fnW w) ∧ InCell (.maxn w o) .a 1 15 (fnW w)
         ∧ InCell (.abs w o) .a 1 16 (fnW w) ∧ InCell (.neg w o) .a 1 17 (fnW w) ∧ InCell (.andn w o) .a 1 18 (fnW w)
         ∧ InCell (.orn w o) .a 1 19 (fnW w))
  ∧ (∀ (o : Opnds) (s : State), Ready o s →
       Completes (.adc o) s (fun l a =>
           let v := curLane s l
           let t := (a32 (.adc o) v).toNat + (b32 (.adc o) v).toNat + (laneReg v (o.x.toNat + 1)).toNat % 2
           setLaneReg (o.x.toNat + 1) (if 2 ^ 32 ≤ t then 1 else 0)
             (setLaneReg o.x.toNat (BitVec.ofNat 32 (t % 0x100000000)) (consume o a)))
       ∧ Completes (.sbc o) s (fun l a =>
           let v := curLane s l
           let t : Int := (a32 (.sbc o) v).toNat - (b32 (.sbc o) v).toNat - ((laneReg v (o.x.toNat + 1)).toNat % 2 : Nat)
           setLaneReg (o.x.toNat + 1) (if t < 0 then 1 else 0)
             (setLaneReg o.x.toNat (BitVec.ofInt 32 (t % 0x100000000)) (consume o a)))
       ∧ Gives (.addi o) s (fun a => (BitVec.ofNat 32
           (((x32 (.addi o) a).toNat + (imm32 o).toNat) % 0x100000000)).setWidth 64)
       ∧ InCell (.adc o) .a 1 0 0 ∧ InCell (.sbc o) .a 1 1 0 ∧ InCell (.addi o) .i 0 4 0)

/-- R99 and R100: products; division and remainder, with the two corners. -/
def Obligations.ProductAndQuotientResults : Prop :=
  (∀ (o : Opnds) (s : State), Ready o s →
     GivesW (.mul · o) s (fun n a b => BitVec.ofNat n (a.toNat * b.toNat % 2 ^ n))
     ∧ GivesW (.mulh · o) s (fun n a b => BitVec.ofInt n (a.toInt * b.toInt / 2 ^ n % 2 ^ n))
     ∧ GivesW (.mulhn · o) s (fun n a b => BitVec.ofNat n (a.toNat * b.toNat / 2 ^ n))
     ∧ Completes (.mulw .w32 o) s (fun l a =>
         let v := curLane s l
         setLanePair o.x.toNat (BitVec.ofInt 64 ((a32 (.mulw .w32 o) v).toInt * (b32 (.mulw .w32 o) v).toInt)) (consume o a))
     ∧ Completes (.mulw .w64 o) s (fun l a =>
         let v := valsOf (.mulw .w64 o) (curLane s l)
         setLaneQuad o.x.toNat (BitVec.ofInt 128 (v.s1.toInt * v.s2.toInt)) (consume o a))
     ∧ ∀ w, InCell (.mul w o) .a 1 4 (fnW w) ∧ InCell (.mulh w o) .a 1 5 (fnW w) ∧ InCell (.mulhn w o) .a 1 6 (fnW w)
         ∧ InCell (.mulw w o) .a 1 7 (fnW w))
  ∧ (∀ (o : Opnds) (s : State), Ready o s →
       GivesW (.div · o) s (fun n a b =>
           if b.toInt = 0 then BitVec.ofNat n (2 ^ n - 1)
           else if a.toInt = -2 ^ (n - 1) ∧ b.toInt = -1 then BitVec.ofInt n (-2 ^ (n - 1))
           else BitVec.ofInt n (a.toInt.tdiv b.toInt))
       ∧ GivesW (.rem · o) s (fun n a b =>
           if b.toInt = 0 then a
           else if a.toInt = -2 ^ (n - 1) ∧ b.toInt = -1 then 0
           else BitVec.ofInt n (a.toInt - a.toInt.tdiv b.toInt * b.toInt))
       ∧ GivesW (.divn · o) s (fun n a b =>
           if b.toNat = 0 then BitVec.ofNat n (2 ^ n - 1) else BitVec.ofNat n (a.toNat / b.toNat))
       ∧ GivesW (.remn · o) s (fun n a b =>
           if b.toNat = 0 then a else BitVec.ofNat n (a.toNat - a.toNat / b.toNat * b.toNat))
       ∧ ∀ w, InCell (.div w o) .a 1 8 (fnW w) ∧ InCell (.divn w o) .a 1 9 (fnW w) ∧ InCell (.rem w o) .a 1 10 (fnW w)
           ∧ InCell (.remn w o) .a 1 11 (fnW w))

/-- R101 and R102: shifts and rotates by a register and by an immediate; bit counts and reversals, by what they count and
where each bit goes. -/
def Obligations.ShiftCountAndReversalResults : Prop :=
  (let shl (v : Word) (n : Nat) : DWord := BitVec.ofNat 64 (v.toNat * 2 ^ n % 0x100000000)
   let shr (v : Word) (n : Nat) : DWord := BitVec.ofNat 64 (v.toNat / 2 ^ n)
   let sar (v : Word) (n : Nat) : DWord := (BitVec.ofInt 32 (v.toInt / 2 ^ n)).setWidth 64
   let rol (v : Word) (n : Nat) : DWord := BitVec.ofNat 64 ((v.toNat * 2 ^ n % 0x100000000) ||| (v.toNat / 2 ^ (32 - n)))
   let ror (v : Word) (n : Nat) : DWord := BitVec.ofNat 64 ((v.toNat / 2 ^ n) ||| (v.toNat * 2 ^ (32 - n) % 0x100000000))
   ∀ (o : Opnds) (s : State), Ready o s →
     Gives (.shlReg o) s (fun a => shl (a32 (.shlReg o) a) ((b32 (.shlReg o) a).toNat % 32))
     ∧ Gives (.shrReg o) s (fun a => shr (a32 (.shrReg o) a) ((b32 (.shrReg o) a).toNat % 32))
     ∧ Gives (.sarReg o) s (fun a => sar (a32 (.sarReg o) a) ((b32 (.sarReg o) a).toNat % 32))
     ∧ Gives (.rolReg o) s (fun a => rol (a32 (.rolReg o) a) ((b32 (.rolReg o) a).toNat % 32))
     ∧ Gives (.rorReg o) s (fun a => ror (a32 (.rorReg o) a) ((b32 (.rorReg o) a).toNat % 32))
     ∧ Gives (.shlImm o) s (fun a => shl (x32 (.shlImm o) a) (o.imm.toNat % 32))
     ∧ Gives (.shrImm o) s (fun a => shr (x32 (.shrImm o) a) (o.imm.toNat % 32))
     ∧ Gives (.sarImm o) s (fun a => sar (x32 (.sarImm o) a) (o.imm.toNat % 32))
     ∧ Gives (.rolImm o) s (fun a => rol (x32 (.rolImm o) a) (o.imm.toNat % 32))
     ∧ Gives (.rorImm o) s (fun a => ror (x32 (.rorImm o) a) (o.imm.toNat % 32))
     ∧ InCell (.shlReg o) .a 0 10 0 ∧ InCell (.shlImm o) .i 0 11 0 ∧ InCell (.shrReg o) .a 0 12 0
     ∧ InCell (.shrImm o) .i 0 13 0 ∧ InCell (.sarReg o) .a 0 14 0 ∧ InCell (.sarImm o) .i 0 15 0
     ∧ InCell (.rolReg o) .a 1 20 0 ∧ InCell (.rolImm o) .i 1 21 0 ∧ InCell (.rorReg o) .a 1 22 0
     ∧ InCell (.rorImm o) .i 1 23 0)
  ∧ (∀ (w : Width) (o : Opnds) (s : State), Ready o s →
       let n := match w with | .w32 => 32 | .w64 => 64
       (∃ f : DWord → Nat, Gives (.clz w o) s (fun a => BitVec.ofNat 64 (f (valsOf (.clz w o) a).s2))
         ∧ ∀ v : DWord, f v ≤ n ∧ (∀ j, j < f v → v.getLsbD (n - 1 - j) = false)
           ∧ (f v < n → v.getLsbD (n - 1 - f v) = true))
       ∧ (∃ f : DWord → Nat, Gives (.ctz w o) s (fun a => BitVec.ofNat 64 (f (valsOf (.ctz w o) a).s2))
         ∧ ∀ v : DWord, f v ≤ n ∧ (∀ j, j < f v → v.getLsbD j = false) ∧ (f v < n → v.getLsbD (f v) = true))
       ∧ Gives (.popc w o) s (fun a =>
           BitVec.ofNat 64 ((List.range n).countP fun j => (valsOf (.popc w o) a).s2.getLsbD j))
       ∧ (∃ f : DWord → DWord, Gives (.brev w o) s (fun a => f (valsOf (.brev w o) a).s2)
         ∧ ∀ (v : DWord) (j : Nat), (f v).getLsbD j = (decide (j < n) && v.getLsbD (n - 1 - j)))
       ∧ (∃ f : DWord → DWord, Gives (.bswp w o) s (fun a => f (valsOf (.bswp w o) a).s2)
         ∧ ∀ (v : DWord) (k j : Nat), j < 8 →
             (f v).getLsbD (8 * k + j) = (decide (k < n / 8) && v.getLsbD (8 * (n / 8 - 1 - k) + j)))
       ∧ InCell (.clz w o) .a 1 24 (fnW w) ∧ InCell (.ctz w o) .a 1 25 (fnW w) ∧ InCell (.popc w o) .a 1 26 (fnW w)
       ∧ InCell (.brev w o) .a 1 27 (fnW w) ∧ InCell (.bswp w o) .a 1 28 (fnW w)
       ∧ (Instr.clz w o).sig.x = .r ∧ (Instr.ctz w o).sig.x = .r ∧ (Instr.popc w o).sig.x = .r)

/-- R103 to R105: bit fields, selection and predicates; and R92: the conditions, on signed and natural readings. -/
def Obligations.BitFieldSelectAndPredicateResults : Prop :=
  (∀ (o : Opnds) (s : State), Ready o s →
     let pos := o.imm.toNat % 32
     let f := min (o.imm.toNat / 32 % 32 + 1) (32 - pos)
     (∃ g : Word → Word, Gives (.bfx o) s (fun a => (g (b32 (.bfx o) a)).setWidth 64)
       ∧ ∀ (v : Word) (k : Nat), k < 32 → (g v).getLsbD k = v.getLsbD (pos + min k (f - 1)))
     ∧ (∃ g : Word → Word, Gives (.bfxn o) s (fun a => (g (b32 (.bfxn o) a)).setWidth 64)
       ∧ ∀ (v : Word) (k : Nat), (g v).getLsbD k = (decide (k < f) && v.getLsbD (pos + k)))
     ∧ (∃ g : Word → Word → Word, Gives (.bfi o) s (fun a => (g (x32 (.bfi o) a) (b32 (.bfi o) a)).setWidth 64)
       ∧ ∀ (x v : Word) (k : Nat), (g x v).getLsbD k
           = if pos ≤ k ∧ k < pos + f then v.getLsbD (k - pos) else x.getLsbD k)
     ∧ (∀ k : BitVec 4, Gives (.sel k o) s fun a =>
         (if (x32 (.sel k o) a).getLsbD k.toNat then a32 (.sel k o) a else b32 (.sel k o) a).setWidth 64)
     ∧ (∀ c, Gives (.setc c o) s fun a => if condHolds c (a32 (.setc c o) a) (b32 (.setc c o) a) then 1 else 0)
     ∧ ∀ c, ∃ g : Word → Bool → Word,
         Gives (.setb c o) s (fun a =>
           (g (x32 (.setb c o) a) (condHolds c (a32 (.setb c o) a) (b32 (.setb c o) a))).setWidth 64)
         ∧ ∀ (x : Word) (b : Bool) (k : Nat), k < 32 → (g x b).getLsbD k = if k = o.imm.toNat % 32 then b else x.getLsbD k)
  ∧ (∀ (o : Opnds),
       (∀ k, InCell (.sel k o) .a 1 32 k.toNat)
       ∧ (∀ kind k, (Instr.sel k o).wf kind = true → o.form = .k → o.reg = true)
       ∧ ∀ c, InCell (.setc c o) .a 1 34 (condCode c) ∧ InCell (.setb c o) .ax 1 35 (condCode c)
         ∧ InCell (.skpi c o) .ix 0 (22 + condCode c) 0)
  ∧ (∀ (n : Nat) (a b : BitVec n),
       (condHolds .eq a b = true ↔ a = b) ∧ (condHolds .ne a b = true ↔ a ≠ b)
       ∧ (condHolds .lt a b = true ↔ a.toInt < b.toInt) ∧ (condHolds .le a b = true ↔ a.toInt ≤ b.toInt)
       ∧ (condHolds .gt a b = true ↔ b.toInt < a.toInt) ∧ (condHolds .ge a b = true ↔ b.toInt ≤ a.toInt)
       ∧ (condHolds .ltn a b = true ↔ a.toNat < b.toNat) ∧ (condHolds .len a b = true ↔ a.toNat ≤ b.toNat)
       ∧ (condHolds .gtn a b = true ↔ b.toNat < a.toNat) ∧ (condHolds .gen a b = true ↔ b.toNat ≤ a.toNat)
       ∧ condCode .eq = 0 ∧ condCode .ne = 1 ∧ condCode .lt = 2 ∧ condCode .le = 3 ∧ condCode .gt = 4 ∧ condCode .ge = 5
       ∧ condCode .ltn = 6 ∧ condCode .len = 7 ∧ condCode .gtn = 8 ∧ condCode .gen = 9)

/-- R93 to R95, R117: moves, addresses and NOP; a b register is written in every lane of a course that is not split, and MOVB
has no queue operands (R91). R106 and R107: where a skip holds it sets the annul count to n, elsewhere it leaves it 0. -/
def Obligations.MovesAddressesAndSkips : Prop :=
  (∀ (o : Opnds) (s : State), Ready o s →
     Gives (.mov o) s (fun a => (b32 (.mov o) a).setWidth 64)
     ∧ Gives (.movi o) s (fun _ => (o.imm.setWidth 32).setWidth 64)
     ∧ (o.zq = false → Gives (.movbToG o) s (fun a => laneB a (s2Reg o).toNat))
     ∧ Completes (.lea o) s (fun _ a => setLanePair o.x.toNat (memAddr o (consume o a)) (consume o a))
     ∧ (∀ a : Lane, (o.desc.mode = 0 → memAddr o a = laneB a o.desc.base.toNat
           + (if o.desc.ext then (laneReg a o.y.toNat).signExtend 64 else (laneReg a o.y.toNat).setWidth 64)
             * BitVec.ofNat 64 (2 ^ o.desc.scale.toNat) + o.imm)
         ∧ (o.desc.mode = 1 → memAddr o a = laneB a o.desc.base.toNat + o.imm)
         ∧ (o.desc.mode = 2 → memAddr o a = (laneReg a (o.y.toNat + 1) ++ laneReg a o.y.toNat) + o.imm))
     ∧ Completes (.nop o) s (fun _ a => consume o a) ∧ InCell (.nop o) .a 0 41 0
     ∧ (∀ kind, (Instr.nop o).wf kind = true → o.x = 0 ∧ o.y = 0 ∧ o.z = 0 ∧ o.zq = false ∧ o.xq = false ∧ o.wait = 0)
     ∧ decode .dcore (halfBytes 0xA400) = .ok (.nop { form := .k })
     ∧ decode .lcore (wordBytes 0xA4000000) = .ok (.nop { form := .w })
     ∧ (o.zq = false → ∃ t : State, exec (.movbToB o) s = .next t ∧
         let val (l : Nat) : DWord := laneReg (curLane s l) ((s2Reg o).toNat + 1) ++ laneReg (curLane s l) (s2Reg o).toNat
         let one := (curCtx s).split || isStrand (curCtx s)
         let new := (curCtx s).lanes.mapIdx fun l a =>
           if execLanes s = [] then passLane (.movbToB o) s l a
           else if one then
             (if l ∈ execLanes s then setLaneB o.x.toNat (val l) (passLane (.movbToB o) s l a) else passLane (.movbToB o) s l a)
           else setLaneB o.x.toNat (val (execHead s)) (passLane (.movbToB o) s l a)
         Becomes s t { curCtx s with lanes := new }))
  ∧ (∀ (o : Opnds) (s : State), Ready o s →
       let n := o.g.cnt.toNat + 1
       let set (h : Lane → Bool) (l : Nat) (a : Lane) : Lane :=
         if h (curLane s l) then { consume o a with annul := n } else { consume o a with annul := 0 }
       (∀ c, Completes (.skp c o) s (set fun a => condHolds c (laneReg a o.x.toNat) (laneReg a o.y.toNat)))
       ∧ (∀ c, Completes (.skpi c o) s (set fun a => condHolds c (laneReg a o.x.toNat) (o.imm.setWidth 32)))
       ∧ Completes (.skbSet o) s (set fun a => (laneReg a o.x.toNat).getLsbD o.y.toNat == true)
       ∧ Completes (.skbClr o) s (set fun a => (laneReg a o.x.toNat).getLsbD o.y.toNat == false))

/-- R116: FRAME. -/
def Obligations.FrameMovesStackPointerOrTraps : Prop :=
  ∀ (o : Opnds) (s : State), Ready o s →
    let new (l : Nat) : Int := (laneReg (curLane s l) 31).toNat + (o.imm.setWidth 32).toInt
    let bad := (execLanes s).filter fun l => decide (new l < (curLane s l).slim.toNat ∨ 0x100000000 ≤ new l)
    (bad = [] → Completes (.frame o) s fun l a => setLaneReg 31 (BitVec.ofInt 32 (new l)) (consume o a))
    ∧ (bad ≠ [] → exec (.frame o) s = trap (.frame o) s { vector := 5, mask := maskOf bad })

/-! ## Floating point -/

/-- R119, R120, R123 to R126 and R29: the arithmetic instructions round one exact value per element, and raise flags. -/
def Obligations.FloatArithmeticCompletes : Prop :=
  ∀ (t : FType) (o : Opnds) (s : State), Ready o s →
    let f := fmtOf t
    let on2 (g : RMode → FVal → FVal → FVal → Rounded) (r : RMode) (v : Vals) : Rounded :=
      let e0 := g r (fDecode f (elemBits t v.x)) (fDecode f (elemBits t v.s1)) (fDecode f (elemBits t v.s2))
      if t = .f16x2 ∨ t = .bf16x2 then
        let e1 := g r (fDecode f (v.x.toNat / 2 ^ 16 % 2 ^ 16)) (fDecode f (v.s1.toNat / 2 ^ 16 % 2 ^ 16))
          (fDecode f (v.s2.toNat / 2 ^ 16 % 2 ^ 16))
        { bits := e0.bits + e1.bits * 2 ^ 16, flags := orFlags e0.flags e1.flags }
      else e0
    GivesF (.fadd t o) s (on2 fun r _ a b => fAdd f r a b) ∧ GivesF (.fsub t o) s (on2 fun r _ a b => fSub f r a b)
    ∧ GivesF (.fmul t o) s (on2 fun r _ a b => fMul f r a b) ∧ GivesF (.fma t o) s (on2 fun r x a b => fMulAdd f r a b x)
    ∧ GivesF (.fnma t o) s (on2 fun r x a b => fNegMulAdd f r a b x)
    ∧ GivesF (.fdiv t o) s (on2 fun r _ a b => fDiv f r a b) ∧ GivesF (.fsqrt t o) s (on2 fun r _ _ b => fSqrt f r b)
    ∧ GivesF (.frcp t o) s (on2 fun r _ _ b => fDiv f r (.fin false 1 0) b)
    ∧ GivesF (.frsq t o) s (on2 fun r _ _ b => fRsq f r b)
    ∧ GivesF (.fexp2 t o) s (on2 fun r _ _ b => fExp2 f r b) ∧ GivesF (.flog2 t o) s (on2 fun r _ _ b => fLog2 f r b)
    ∧ GivesF (.fsin t o) s (on2 fun r _ _ b => fSin f r b) ∧ GivesF (.fcos t o) s (on2 fun r _ _ b => fCos f r b)

/-- R123 and R27: the exact value that a sum, a product or a fused product and sum of finite values rounds; NaN operands,
invalid operations and divisions by zero. -/
def Obligations.SumsProductsAndInvalidOperations : Prop :=
  (∀ (f : Fmt) (r : RMode) (a b c : FVal) (x y z : Rat), ratOf a = some x → ratOf b = some y → ratOf c = some z →
     (∃ v, fAdd f r a b = roundVal f r v ∧ ratOf v = some (x + y))
     ∧ (∃ v, fSub f r a b = roundVal f r v ∧ ratOf v = some (x - y))
     ∧ (∃ v, fMul f r a b = roundVal f r v ∧ ratOf v = some (x * y))
     ∧ (∃ v, fMulAdd f r a b c = roundVal f r v ∧ ratOf v = some (x * y + z))
     ∧ ∃ v, fNegMulAdd f r a b c = roundVal f r v ∧ ratOf v = some (z - x * y))
  ∧ (∀ (f : Fmt) (r : RMode) (a b c : FVal),
       let nan (nv : Bool) : Rounded := { bits := fNaN f, flags := { nv } }
       let zeroInf := (isZero a && isInf b) || (isInf a && isZero b)
       (isNan a || isNan b → fAdd f r a b = nan (isSNan a || isSNan b) ∧ fMul f r a b = nan (isSNan a || isSNan b)
         ∧ fDiv f r a b = nan (isSNan a || isSNan b))
       ∧ (isNan a || isNan b || isNan c → fMulAdd f r a b c = nan (isSNan a || isSNan b || isSNan c || zeroInf))
       ∧ (∀ n, fAdd f r (.inf n) (.inf (!n)) = nan true ∧ fSub f r (.inf n) (.inf n) = nan true)
       ∧ (isNan a = false → isNan b = false → zeroInf = true → fMul f r a b = nan true)
       ∧ (isNan a = false → isNan b = false → isNan c = false → zeroInf = true → fMulAdd f r a b c = nan true)
       ∧ (isZero a = true → isZero b = true → fDiv f r a b = nan true)
       ∧ (isInf a = true → isInf b = true → fDiv f r a b = nan true)
       ∧ (∀ n m e, m ≠ 0 → isZero b = true →
           fDiv f r (.fin n m e) b = { bits := fInf f (n != signOf b), flags := { dz := true } })
       ∧ (∀ n m e i, fDiv f r (.fin n m e) (.inf i) = { bits := fZero f (n != i), flags := {} })
       ∧ (∀ m e, m ≠ 0 → fSqrt f r (.fin true m e) = nan true ∧ fRsq f r (.fin true m e) = nan true)
       ∧ fSqrt f r (.inf true) = nan true ∧ fRsq f r (.inf true) = nan true
       ∧ (∀ n e, fSqrt f r (.fin n 0 e) = { bits := fZero f n, flags := {} }
           ∧ fRsq f r (.fin n 0 e) = { bits := fInf f n, flags := { dz := true } })
       ∧ fSqrt f r (.inf false) = { bits := fInf f false, flags := {} }
       ∧ fRsq f r (.inf false) = { bits := fZero f false, flags := {} })

/-- R26 to R28: a value that a format represents rounds to its own encoding under every mode and raises nothing; a NaN
gives the canonical NaN, and NV where it is signalling. -/
def Obligations.RepresentableValuesRoundToThemselves : Prop :=
  ∀ (t : FType) (r : RMode) (b : Nat) (sat : Bool),
    let f := fmtOf t
    b < 2 ^ (f.p + f.eb) →
      match fDecode f b with
      | .nan sig => roundVal f r (fDecode f b) sat = { bits := (2 ^ (f.eb + 1) - 1) * 2 ^ (f.p - 2), flags := { nv := sig } }
      | _ => roundVal f r (fDecode f b) sat = { bits := b, flags := {} }

/-- R124, R125, R127, R128 and R130: instructions that compare, classify or move signs, none of which rounds; and the
conditions on numbers, with NaNs unordered and the two zeros equal. -/
def Obligations.FloatSelectSignClassAndCompareResults : Prop :=
  (∀ (t : FType) (o : Opnds) (s : State), Ready o s →
     let f := fmtOf t
     let wide := 2 ^ (f.p + f.eb - 1)
     let on2 (g : Nat → Nat → Rounded) (v : Vals) : Rounded :=
       let e0 := g (elemBits t v.s1) (elemBits t v.s2)
       if t = .f16x2 ∨ t = .bf16x2 then
         let e1 := g (v.s1.toNat / 2 ^ 16 % 2 ^ 16) (v.s2.toNat / 2 ^ 16 % 2 ^ 16)
         { bits := e0.bits + e1.bits * 2 ^ 16, flags := orFlags e0.flags e1.flags }
       else e0
     let sel (takeFirst : Bool) (a b : Nat) : Rounded :=
       let x := fDecode f a
       let y := fDecode f b
       { bits := if isNan x && isNan y then fNaN f else if isNan x then b else if isNan y then a
                 else if takeFirst then a else b,
         flags := { nv := isSNan x || isSNan y } }
     let less (a b : Nat) : Bool :=
       let x := fDecode f a
       let y := fDecode f b
       cmpVal x y == .lt || (cmpVal x y == .eq && signOf x && !signOf y)
     GivesF (.fmin t o) s (fun _ => on2 fun a b => sel (less a b) a b)
     ∧ GivesF (.fmax t o) s (fun _ => on2 fun a b => sel (!less a b) a b)
     ∧ GivesF (.fabs t o) s (fun _ => on2 fun _ b =>
         { bits := if isNan (fDecode f b) then fNaN f else b % wide, flags := {} })
     ∧ GivesF (.fneg t o) s (fun _ => on2 fun _ b =>
         { bits := if isNan (fDecode f b) then fNaN f else if b / wide % 2 = 1 then b - wide else b + wide, flags := {} })
     ∧ GivesF (.fcls t o) s (fun _ => on2 fun _ b =>
         let frac := b % 2 ^ (f.p - 1)
         let exp := b / 2 ^ (f.p - 1) % 2 ^ f.eb
         let neg := b / wide % 2 = 1
         let cls :=
           if exp = 2 ^ f.eb - 1 then
             (if frac = 0 then (if neg then 0 else 7) else if frac < 2 ^ (f.p - 2) then 8 else 9)
           else if exp = 0 then (if frac = 0 then (if neg then 3 else 4) else if neg then 2 else 5)
           else if neg then 1 else 6
         { bits := 2 ^ cls, flags := {} })
     ∧ ∀ c : FCond,
         GivesF (.fsetc c t o) s (fun _ v =>
           let h := fCondHolds c (fDecode f (elemBits t v.s1)) (fDecode f (elemBits t v.s2))
           { bits := if h.1 then 1 else 0, flags := h.2 })
         ∧ Completes (.fskp c t o) s (fun l a =>
             let v := valsOf (.fskp c t o) (curLane s l)
             let h := fCondHolds c (fDecode f (elemBits t v.s1)) (fDecode f (elemBits t v.s2))
             { consume o a with status := (curLane s l).status ||| flagBits h.2,
                                annul := if h.1 then o.g.cnt.toNat + 1 else 0 }))
  ∧ (∀ (a b : FVal) (x y : Rat), ratOf a = some x → ratOf b = some y →
       ((fCondHolds .eq a b).1 = true ↔ x = y) ∧ ((fCondHolds .ne a b).1 = true ↔ x ≠ y)
       ∧ ((fCondHolds .lt a b).1 = true ↔ x < y) ∧ ((fCondHolds .le a b).1 = true ↔ x ≤ y)
       ∧ ((fCondHolds .gt a b).1 = true ↔ y < x) ∧ ((fCondHolds .ge a b).1 = true ↔ y ≤ x)
       ∧ (fCondHolds .un a b).1 = false ∧ (fCondHolds .or a b).1 = true
       ∧ ∀ c sig, (fCondHolds c a b).2 = {}
           ∧ (fCondHolds c (.nan sig) b).1 = (match c with | .ne | .un => true | _ => false)
           ∧ (fCondHolds c (.nan sig) b).2
               = { nv := match c with | .lt | .le | .gt | .ge => true | _ => sig })

/-- R131 to R135: rounding to an integral value and the conversions of numbers. R136, R137 and R139: ENC8 and DEC8 under a
table that is loaded, encodable for ENC8 and of the lane's TXR; else the trap. -/
def Obligations.ConversionResults : Prop :=
  (∀ (o : Opnds) (s : State), Ready o s →
     (∀ t, let f := fmtOf t
       Completes (.frnd t o) s fun l a =>
         let v := valsOf (.frnd t o) (curLane s l)
         let st := (curLane s l).status
         let m : RMode := match o.imm.toNat % 8 with
           | 1 => { mode := .rne } | 2 => { mode := .rtz } | 3 => { mode := .rup } | 4 => { mode := .rdn } | _ => rmOf (stRM st)
         let g (b : Nat) := fRound f m (o.imm.getLsbD 3) (fDecode f b)
         let lo := g (elemBits t v.s2)
         let hi := g (v.s2.toNat / 2 ^ 16 % 2 ^ 16)
         let two := t = .f16x2 ∨ t = .bf16x2
         putX (.frnd t o) (BitVec.ofNat 64 (if two then lo.bits + hi.bits * 2 ^ 16 else lo.bits))
           { consume o a with status := st ||| flagBits (if two then orFlags lo.flags hi.flags else lo.flags) })
     ∧ (∀ n t, GivesF (.cvti n t o) s fun r v =>
         let m : RMode := match o.imm.toNat / 2 % 8 with
           | 0 => r | 1 => { mode := .rne } | 2 => { mode := .rtz } | 3 => { mode := .rup } | 4 => { mode := .rdn }
           | _ => { mode := .rne }
         let lim := intLimits n (o.imm.getLsbD 0)
         let k := fToInt m lim.1 lim.2 (fDecode (fmtOf t) (elemBits t v.s2))
         { bits := if n = .w64 then (BitVec.ofInt 64 k.1).toNat else (BitVec.ofInt 32 k.1).toNat, flags := k.2 })
     ∧ (∀ n t, GivesF (.cvtf n t o) s fun r v =>
         let k := intValue n (o.imm.getLsbD 0) v.s2
         roundVal (fmtOf t) r (.fin (decide (k < 0)) k.natAbs 0))
     ∧ (∀ src dst, src ≠ .f16x2 → src ≠ .bf16x2 → dst ≠ .f16x2 → dst ≠ .bf16x2 →
         Completes (.cvt src dst o) s fun l a =>
           let v := fDecode (fmtOf src) (elemBits src (valsOf (.cvt src dst o) (curLane s l)).s2)
           let st := (curLane s l).status
           let m : RMode := if o.g.sr then { mode := .sr, lfsr := (stLfsr st).toNat / 256 } else rmOf (stRM st)
           let r := roundVal (fmtOf dst) m v o.g.sat
           let st1 := st ||| flagBits r.flags
           let st2 := if o.g.sr && !isNan v && !isInf v then stSetLfsr st1 (lfsrStep (stLfsr st1)) else st1
           putX (.cvt src dst o) (BitVec.ofNat 64 r.bits) { consume o a with status := st2 })
     ∧ (∀ src, src = .f16x2 ∨ src = .bf16x2 → o.g.sr = false →
         Completes (.cvt src .f32 o) s fun l a =>
           let v := (valsOf (.cvt src .f32 o) (curLane s l)).s2.toNat
           let r := roundVal fp32 (rmOf (stRM (curLane s l).status))
             (fDecode (fmtOf src) (if o.imm.getLsbD 0 then v / 2 ^ 16 % 2 ^ 16 else v % 2 ^ 16)) o.g.sat
           putX (.cvt src .f32 o) (BitVec.ofNat 64 r.bits)
             { consume o a with status := (curLane s l).status ||| flagBits r.flags })
     ∧ (∀ dst, dst = .f16x2 ∨ dst = .bf16x2 → o.g.sr = false →
         Completes (.cvt .f32 dst o) s fun l a =>
           let v := valsOf (.cvt .f32 dst o) (curLane s l)
           let m := rmOf (stRM (curLane s l).status)
           let r0 := roundVal (fmtOf dst) m (fDecode fp32 (v.s1.toNat % 2 ^ 32)) o.g.sat
           let r1 := roundVal (fmtOf dst) m (fDecode fp32 (v.s2.toNat % 2 ^ 32)) o.g.sat
           putX (.cvt .f32 dst o) (BitVec.ofNat 64 (r0.bits + r1.bits * 2 ^ 16))
             { consume o a with status := (curLane s l).status ||| flagBits (orFlags r0.flags r1.flags) }))
  ∧ (∀ (t : FType) (o : Opnds) (s : State), Ready o s →
       let bad (enc : Bool) (l : Nat) : Bool :=
         let b := tableOf o s l
         !b.loaded || (enc && !b.encodable) || b.txr != stTxr (curLane s l).status
       ((∀ l ∈ execLanes s, bad true l = false) →
         Completes (.enc8 t o) s fun l a =>
           let f := fmtOf t
           let b := elemBits t (valsOf (.enc8 t o) (curLane s l)).s2
           let st := (curLane s l).status
           let m : RMode := if o.g.sr then { mode := .sr, lfsr := (stLfsr st).toNat / 256 } else rmOf (stRM st)
           let r := enc8 (b / 2 ^ (f.p - 1 + f.eb) % 2 == 1) (fDecode f b) (tableOf o s l) m o.g.sat
           let st1 := st ||| flagBits r.2
           let st2 := if o.g.sr && !isNan (fDecode f b) && !isInf (fDecode f b)
             then stSetLfsr st1 (lfsrStep (stLfsr st1)) else st1
           putX (.enc8 t o) (BitVec.ofNat 64 r.1) { consume o a with status := st2 })
       ∧ ((∀ l ∈ execLanes s, bad false l = false) →
         Completes (.dec8 t o) s fun l a =>
           let v := valsOf (.dec8 t o) (curLane s l)
           let x := dec8Val (tableOf o s l) (v.s2.toNat % 256)
           let m : RMode := if t = .f32 then { mode := .rne } else rmOf (stRM (curLane s l).status)
           let r := roundVal (fmtOf t) m (if isNan x then .nan false else x)
           putX (.dec8 t o) (BitVec.ofNat 64 r.bits)
             { consume o a with status := (curLane s l).status ||| flagBits r.flags })
       ∧ ((∃ l ∈ execLanes s, bad true l = true) → exec (.enc8 t o) s
           = raiseFails (.enc8 t o) s ((execLanes s).flatMap (tableFails true o s)))
       ∧ ((∃ l ∈ execLanes s, bad false l = true) → exec (.dec8 t o) s
           = raiseFails (.dec8 t o) s ((execLanes s).flatMap (tableFails false o s))))

/-- R28, R131 and R134: the integer that a finite value rounds to under each mode, and whether it changed. -/
def Obligations.RoundingToAnIntegerFollowsTheMode : Prop :=
  ∀ (n : Bool) (m : Nat) (e : Int) (lfsr : Nat),
    let x : Rat := m * (2 : Rat) ^ e
    let at_ (d : Rounding) := roundInt { mode := d, lfsr } n m e
    (at_ .rtz).1 = ⌊x⌋.toNat
    ∧ (at_ .rup).1 = (if n then ⌊x⌋.toNat else ⌈x⌉.toNat)
    ∧ (at_ .rdn).1 = (if n then ⌈x⌉.toNat else ⌊x⌋.toNat)
    ∧ |((at_ .rne).1 : Rat) - x| ≤ 1 / 2 ∧ (|((at_ .rne).1 : Rat) - x| = 1 / 2 → (at_ .rne).1 % 2 = 0)
    ∧ ∀ d, d ≠ .sr → ((at_ d).2 = true ↔ ((at_ d).1 : Rat) ≠ x)

/-! ## Control transfers -/

/-- R53, R66, R111, R112: where the transfers go and what they link. R113: a target that breaks R10 raises the control-target
fault in the lanes whose target does, at the transfer, with that target. R291: a transfer of a course that is not split and
whose lanes go to two addresses leaves the others in its top mark; one that it does not absorb splits the course before it,
and each lane executes it again as a split lane. -/
def Obligations.TransfersReachTheirTargets : Prop :=
  (∀ (o : Opnds) (s : State), Issues s →
     let rel (i : Instr) : DWord := match o.form with
       | .k => curPc s + BitVec.ofNat 64 (instrLen i - 2) + 2 * o.imm
       | .w => curPc s + 4 * o.imm
     let ret (i : Instr) : Word := (curPc s + BitVec.ofNat 64 (instrLen i)).setWidth 32
     let reg (l r : Nat) : Word := laneReg (curLane s l) r
     Jumps (.br o) s (fun _ => rel (.br o)) (fun a => a) ∧ Jumps (.brW o) s (fun _ => rel (.brW o)) (fun a => a)
     ∧ Jumps (.jmp o) s (fun _ => rel (.jmp o)) (fun a => a)
     ∧ Jumps (.call o) s (fun _ => rel (.call o)) (setLaneReg 30 (ret (.call o)))
     ∧ Jumps (.calli o) s (fun l => reg l ((s2Reg o).toNat + 1) ++ reg l (s2Reg o).toNat) (setLaneReg 30 (ret (.calli o)))
     ∧ Jumps (.ret o) s (fun l => (curPc s).extractLsb' 32 32 ++ reg l (s2Reg o).toNat) (fun a => a))
  ∧ (∀ (o : Opnds) (s : State),
       let reg (l r : Nat) : Word := laneReg (curLane s l) r
       let faults (i : Instr) (tgt : Nat → DWord) : Prop :=
         let bad := (execLanes s).filter fun l => breaksR10 (ctxForm (curCtx s)) (tgt l)
         bad ≠ [] → exec i s = trap i s { vector := 3, addr := tgt (bad.headD 0), mask := maskOf bad }
       faults (.br o) (fun _ => jTarget (.br o) s) ∧ faults (.brW o) (fun _ => jTarget (.brW o) s)
       ∧ faults (.jmp o) (fun _ => jTarget (.jmp o) s) ∧ faults (.call o) (fun _ => jTarget (.call o) s)
       ∧ faults (.calli o) (fun l => reg l ((s2Reg o).toNat + 1) ++ reg l (s2Reg o).toNat)
       ∧ faults (.ret o) (fun l => (curPc s).extractLsb' 32 32 ++ reg l (s2Reg o).toNat))


/-! ## Memory -/

/-- R148, R140, R145: a load of a strand reads its bytes of memory, lowest address least significant, extends them and
writes x; no byte of memory changes. That it is performed in the step that issues it, and whole, is the model's choice (log
6, log 18). -/
def Obligations.LoadsReadMemory : Prop :=
  ∀ (sz : Sys2Proof.ISize) (o : Opnds) (s : State) (l : Nat) (p : Passed), o.g.rlx = false →
    Reaches (.ld sz o) s (.load sz) l p →
    let v := memNat s p.acc.pa (isizeBytes sz)
    let x := o.x.toNat
    let a := curLane s l
    let b := loadInto sz x v a
    ∃ t : State, exec (.ld sz o) s = .next t ∧ AfterAccess (.ld sz o) s t l b ∧ t.mem = s.mem

/-- R148: a store of a strand writes the low bytes of its data operand at the translated address of its operand, and no
other byte; no register changes. That it is performed in the step that issues it, and whole, is the model's choice (log 6,
log 18). -/
def Obligations.StoresWriteMemory : Prop :=
  ∀ (sz : Sys2Proof.ISize) (o : Opnds) (s : State) (l : Nat) (p : Passed), o.g.rlx = false →
    Reaches (.st sz o) s (.store sz) l p →
    ∃ t : State, exec (.st sz o) s = .next t ∧ AfterAccess (.st sz o) s t l (curLane s l)
      ∧ Stores s t p.acc.pa (isizeBytes sz) (dataNat sz (curLane s l) o.x.toNat)

/-- R158 to R161: an atomic of a strand reads the old value at its home and writes the new one there; ATOM, CAS and AFN
return the old value in x, and RED returns nothing. R159 and R162: the new values of ATOM and RED, on numbers of the width. That
it is performed in the step that issues it is the model's choice (log 6). -/
def Obligations.AtomicsUpdateTheirHome : Prop :=
  (∀ (w : Width) (o : Opnds) (s : State) (l : Nat) (p : Passed), o.g.rlx = false →
     let n := match w with | .w32 => 4 | .w64 => 8
     let old := memNat s p.acc.pa n
     let a := curLane s l
     let x := o.x.toNat
     let b := match w with | .w32 => setLaneReg x (BitVec.ofNat 32 old) a | .w64 => setLanePair x (BitVec.ofNat 64 old) a
     let v := dataNat (sizeOfW w) a x
     (∀ op, Reaches (.atom op w o) s (.atom op w) l p →
       ∃ t : State, exec (.atom op w o) s = .next t ∧ AfterAccess (.atom op w o) s t l b
         ∧ Stores s t p.acc.pa n (atomNew op w old v))
     ∧ (∀ op, Reaches (.red op w o) s (.red op w) l p → memBad s p.acc.pa n = false →
       ∃ t : State, exec (.red op w o) s = .next t ∧ AfterAccess (.red op w o) s t l a
         ∧ Stores s t p.acc.pa n (atomNew op w old v))
     ∧ (Reaches (.cas w o) s (.cas w) l p →
       let new := match w with
         | .w32 => dataNat .w32 a (x + 1)
         | .w64 => dataNat .w64 a (x + 2)
       ∃ t : State, exec (.cas w o) s = .next t ∧ AfterAccess (.cas w o) s t l b
         ∧ Stores s t p.acc.pa n (if old = v then new else old))
     ∧ ∀ f, Reaches (.afn f w o) s (.afn f w) l p →
       ∃ t : State, exec (.afn f w o) s = .next t ∧ AfterAccess (.afn f w o) s t l b
         ∧ Stores s t p.acc.pa n (afnNew (afnWord s p.acc.pa f.toNat) w old v))
  ∧ (∀ (w : Width) (old v : Nat),
       let n := match w with | .w32 => 32 | .w64 => 64
       old < 2 ^ n → v < 2 ^ n →
       let a : BitVec n := BitVec.ofNat n old
       let b : BitVec n := BitVec.ofNat n v
       atomNew .add w old v = (a + b).toNat ∧ atomNew .and w old v = (a &&& b).toNat ∧ atomNew .or w old v = (a ||| b).toNat
       ∧ atomNew .xor w old v = (a ^^^ b).toNat ∧ atomNew .xchg w old v = v
       ∧ atomNew .min w old v = (if b.toInt < a.toInt then v else old)
       ∧ atomNew .max w old v = (if a.toInt < b.toInt then v else old)
       ∧ atomNew .minn w old v = min old v ∧ atomNew .maxn w old v = max old v
       ∧ atomNew .fadd w old v
           = (let f := match w with | .w32 => fp32 | .w64 => fp64
              (fAdd f { mode := .rne } (fDecode f old) (fDecode f v)).bits))

/-- R145, R147 and R164: an access of any lanes that pass their checks and hit no watchpoint is performed, or set on its way:
one of a device page waits for the lanes' earlier accesses; plain ones to the own package are performed, relaxed loads and
atomics return later, relaxed stores and reductions are posted where there is room and else wait, and an access to another
package is requested there, after the lanes' journal entries to the same bytes. The model's choices: a plain access is
performed in the step that issues it (log 6), the homes' checks of a relaxed access are made at issue on an L-core and when it
is performed elsewhere (log 59, log 92), a full path makes the instruction issue again (log 89), and a host range counts as
the own package's (log 147). -/
def Obligations.AccessesProceedByKind : Prop :=
  ∀ (i : Instr) (op : MemOp) (s : State) (ps : List Passed),
    (match i, op with
      | .ld sz _, .load z => z = sz | .st sz _, .store z => z = sz
      | .atom f w _, .atom g z => g = f ∧ z = w | .red f w _, .red g z => g = f ∧ z = w
      | .cas w _, .cas z => z = w | .afn f w _, .afn g z => g = f ∧ z = w
      | _, _ => False) →
    (∀ ans, (curLane s (execHead s)).wait ≠ .granted ans) →
    accessChecks i s op (!i.opnds.g.rlx) = ps.map .ok →
    let accs := accWords s op (ps.map (·.acc))
    let z := keepAll s (ps.map .ok)
    watchReport i z false (watchKinds op) (accs.map fun a => (a.lane, a.va, opBytes op)) = none →
    (checksNow s i.opnds.g.rlx accs = true → homeFails s op accs = []) → muted z = false →
    let posted := i.opnds.g.rlx = true ∧ (match op with | .store _ | .red _ _ => True | _ => False)
    let own := ∀ a ∈ accs, farFrom (pkgOf (curCore z a.lane)) a.pa = false
    (deviceWaits z accs = true → exec i s = .next (waitAt z .retry))
    ∧ (deviceWaits z accs = false →
      (posted → postsFit z accs = true → exec i s = .next (complete i (postLanes (touchAll z accs) op (z.free + 1) accs)))
      ∧ (posted → postsFit z accs = false → exec i s = .next (waitAt z .retry))
      ∧ (¬ posted → ¬ own → (∃ a ∈ accs, journalOverlap z z.cur.ctx a.lane a.pa (opBytes op) = true) →
          exec i s = .next (waitAt z .retry))
      ∧ (¬ posted → ¬ own → (∀ a ∈ accs, journalOverlap z z.cur.ctx a.lane a.pa (opBytes op) = false) →
          exec i s = .next (pushFlight (waitAt (forceAll (touchAll z accs) op accs) .access)
            [.fabricRequestArrival { src := pkgOf (curCtx z).core, dst := 0, acc := accessOf z op i.opnds.x accs }]))
      ∧ (¬ posted → own → i.opnds.g.rlx = true → exec i s = .next (performRelaxed i z op i.opnds.x accs))
      ∧ (i.opnds.g.rlx = false → own → exec i s = .next (performPlain i z op i.opnds.x accs)))

/-- R141, R149 and R166: a lane whose address is not a multiple of the access's size raises the alignment fault; one whose
translation fails, or whose page does not allow the access, raises what the translation says; a strand performs nothing.
R430: what was translated stays in the TLBs. -/
def Obligations.FailedChecksTrap : Prop :=
  ∀ (sz : Sys2Proof.ISize) (o : Opnds) (s : State) (l : Nat), OneLane s l →
    let va := memAddr o (curLane s l)
    let st := (curLane s l).status
    let page (k : AccKind) := translate s (curCore s l) (curLane s l).ttb va k (stPriv st)
    let z := keepWalk s s (curCore s l) (curLane s l).ttb va
    (va.toNat % isizeBytes sz ≠ 0 →
      exec (.ld sz o) s = trap (.ld sz o) s { vector := 8, reason := 0, addr := va, mask := maskOf [l] }
      ∧ exec (.st sz o) s = trap (.st sz o) s { vector := 8, reason := 0, addr := va, mask := maskOf [l] })
    ∧ (va.toNat % isizeBytes sz = 0 → ∀ f, f.vector < 14 →
      (page .read = .error f →
        exec (.ld sz o) s = trap (.ld sz o) z { vector := f.vector, reason := f.reason, addr := va, mask := maskOf [l] })
      ∧ (page .write = .error f →
        exec (.st sz o) s = trap (.st sz o) z { vector := f.vector, reason := f.reason, addr := va, mask := maskOf [l] }))

/-! ## Local memory, queues, fences and accesses on their way -/

/-- R142, R143, R148: a load from loc gives each lane the bytes at its 32-bit address, and a store writes the low bytes of
its data there and no other byte of any SRAM; a lane beyond the space, or not aligned, traps. -/
def Obligations.LocalLoadsAndStores : Prop :=
  ∀ (sz : Sys2Proof.ISize) (o : Opnds) (s : State),
    let n := isizeBytes sz
    let adr (l : Nat) := (locAddr o (curLane s l)).toNat
    let seen (i : Instr) (k : Bool × Bool) :=
      watchReport i s true k ((execLanes s).map fun l => (l, (locAddr o (curLane s l)).setWidth 64, n))
    (Issues s → (∀ l ∈ execLanes s, adr l % n = 0 ∧ adr l + n ≤ locLimit s (curCtx s) l
        ∧ spaceBad s (locSpace (curCtx s) l) (adr l) n = false) →
      seen (.ldl sz o) (true, false) = none →
      Completes (.ldl sz o) s fun l a => loadInto sz o.x.toNat (spaceNat s (locSpace (curCtx s) l) (adr l) n) a)
    ∧ (∀ l, Issues s → execLanes s = [l] → adr l % n = 0 → adr l + n ≤ locLimit s (curCtx s) l →
      seen (.stl sz o) (false, true) = none →
      ∃ t : State, exec (.stl sz o) s = .next t ∧ Passed0 (.stl sz o) s t ∧ t.mem = s.mem
        ∧ (∀ k, k < n → sramByte t (locPlace s l (adr l + k)).1 (locPlace s l (adr l + k)).2
            = BitVec.ofNat 8 (dataNat sz (curLane s l) o.x.toNat / 256 ^ k))
        ∧ ∀ c p, (∀ k, k < n → locPlace s l (adr l + k) ≠ (c, p)) → sramByte t c p = sramByte s c p)
    ∧ ∀ l, OneLane s l →
      (adr l % n ≠ 0 → exec (.stl sz o) s
        = trap (.stl sz o) s { vector := 8, reason := 0, addr := BitVec.ofNat 64 (adr l), mask := maskOf [l] })
      ∧ (adr l % n = 0 → locLimit s (curCtx s) l < adr l + n → exec (.ldl sz o) s
        = trap (.ldl sz o) s { vector := 9, reason := 1, addr := BitVec.ofNat 64 (adr l), mask := maskOf [l] })

/-- R151, R152, R154, R156, R157: LDQ takes an entry and its load is on its way; STQ takes the head entry and its store is
on its way; QADV drops or pushes entries, or waits for those that are in flight; QRST empties queues; PREF changes no register
and no byte of memory. R154: where LDQ has no free entry, STQ no filled one, and QADV cannot get what it needs, they raise the
queue-order fault in the lanes where that is so. -/
def Obligations.QueueInstructionsMoveEntries : Prop :=
  ∀ (sz : Sys2Proof.ISize) (o : Opnds) (s : State), Issues s →
    let n := isizeBytes sz
    let x := o.x.toNat
    let faults (i : Instr) (q reason : Nat) (bad : Nat → Prop) [DecidablePred bad] : Prop :=
      let ls := (execLanes s).filter fun l => bad l
      ls ≠ [] → exec i s = trap i s { vector := 6, reason, info := BitVec.ofNat 32 q, mask := maskOf ls }
    faults (.ldq sz o) x 2 (fun l => qFree (laneQ (curLane s l) x) = 0)
    ∧ faults (.stq sz o) (2 + x) 1 (fun l => (laneQ (curLane s l) (2 + x)).fill = 0)
    ∧ (∀ k : BitVec 3, o.zq = false → o.xq = false →
      let m := k.toNat + 1
      let never (l : Nat) : Prop := let w := laneQ (curLane s l) x
        if x < 2 then w.fill + w.inflight < m else qFree w + w.inflight < m
      let short (l : Nat) : Prop := let w := laneQ (curLane s l) x
        if x < 2 then w.fill < m else qFree w < m
      faults (.qadv k o) x (if x < 2 then 1 else 2) never
      ∧ ((∀ l ∈ execLanes s, ¬ never l) → (∃ l ∈ execLanes s, short l) → Waits (.qadv k o) s))
    ∧ (∀ l p, execLanes s = [l] → 1 ≤ qFree (laneQ (curLane s l) x) →
      checkAddr s l (memAddr o (curLane s l)) n .read false false = .ok p →
      watchReport (.ldq sz o) s false (true, false) [(l, p.acc.va, n)] = none →
      journalOverlap s s.cur.ctx l p.acc.pa n = false →
      ∃ t : State, ∃ e : QueueOp, exec (.ldq sz o) s = .next t ∧ t.mem = s.mem ∧ t.flight = s.flight ++ [.queueLoadFill e]
        ∧ e.ctx = s.cur.ctx ∧ e.lane = l ∧ e.queue = x ∧ e.entry = (laneQ (curLane s l) x).prod ∧ e.pa = p.acc.pa
        ∧ e.sz = sz
        ∧ Passes (.ldq sz o) s t fun _ a => setLaneQ x
            (let w := laneQ a x
             { w with ents := tset {} w.ents w.prod {}, prod := (w.prod + 1) % 8, inflight := w.inflight + 1 }) a)
    ∧ (∀ l p, execLanes s = [l] → 1 ≤ (laneQ (curLane s l) (2 + x)).fill → skipsStq (2 + x) (curLane s l) = false →
      checkAddr s l (memAddr o (curLane s l)) n .write false false = .ok p →
      watchReport (.stq sz o) s false (false, true) [(l, p.acc.va, n)] = none →
      farFrom (pkgOf (curCore s l)) p.acc.pa = false → muted s = false →
      ∃ t : State, ∃ e : QueueOp, exec (.stq sz o) s = .next t ∧ t.mem = s.mem ∧ t.flight = s.flight ++ [.storeQueuePerform e]
        ∧ e.ctx = s.cur.ctx ∧ e.lane = l ∧ e.queue = 2 + x ∧ e.pa = p.acc.pa ∧ e.sz = sz
        ∧ e.data = (qHead (laneQ (curLane s l) (2 + x))).data
        ∧ Passes (.stq sz o) s t fun _ a => setLaneQ (2 + x)
            (let w := laneQ a (2 + x)
             { w with ents := tset {} w.ents w.cons {}, cons := (w.cons + 1) % 8, fill := w.fill - 1,
                      inflight := w.inflight + 1 }) a)
    ∧ (∀ k, x < 2 → (∀ l ∈ execLanes s, k.toNat + 1 ≤ (laneQ (curLane s l) x).fill) →
      o.zq = false → o.xq = false → ∃ f : Queue → Queue,
        Completes (.qadv k o) s (fun _ a => setLaneQ x (f (laneQ a x)) a)
        ∧ ∀ q, (f q).cons = (q.cons + (k.toNat + 1)) % 8
          ∧ (f q).fill = q.fill - (k.toNat + 1) ∧ (f q).inflight = q.inflight ∧ (f q).prod = q.prod)
    ∧ (∀ k, 2 ≤ x → x < 4 → (∀ l ∈ execLanes s, k.toNat + 1 ≤ qFree (laneQ (curLane s l) x)) →
      o.zq = false → o.xq = false → ∃ f : Queue → Queue,
        Completes (.qadv k o) s (fun _ a => setLaneQ x (f (laneQ a x)) a)
        ∧ ∀ q, (f q).prod = (q.prod + (k.toNat + 1)) % 8
          ∧ (f q).fill = q.fill + (k.toNat + 1) ∧ (f q).inflight = q.inflight ∧ (f q).cons = q.cons)
    ∧ (o.zq = false → o.xq = false →
      (x = 4 → (∀ l ∈ execLanes s, ∀ q, q < 4 → (laneQ (curLane s l) q).inflight = 0) →
        Completes (.qrst o) s fun _ a => setLaneQ 3 {} (setLaneQ 2 {} (setLaneQ 1 {} (setLaneQ 0 {} a))))
      ∧ (x < 4 → (∀ l ∈ execLanes s, (laneQ (curLane s l) x).inflight = 0) →
        Completes (.qrst o) s fun _ a => setLaneQ x {} a)
      ∧ (x < 4 → (∃ l ∈ execLanes s, (laneQ (curLane s l) x).inflight ≠ 0) → Waits (.qrst o) s))
    ∧ ∀ k, ∃ t : State, exec (.pref k o) s = .next t ∧ t.mem = s.mem ∧ Passed0 (.pref k o) s t

/-- R163, R435, R436, R489: a fence completes once the accesses it orders are performed, and waits until then. TFENCE, whose
SCOPE 1 to 4 act as .bay, empties the walk caches in its scope, where no later walk reads a value that a store of its strand replaced before
it; TLBI drops what the TLBs of the bays, Trusses and cores in its scope hold. -/
def Obligations.FencesWaitForAccesses : Prop :=
  ∀ (o : Opnds) (s : State), Issues s →
    let sc := o.g.scope
    let xsc := match sc with
      | .none | .strand | .core | .truss | .bay => Scope.bay
      | .die => .die
      | .pkg => .pkg
      | .sys => .sys
    let reach (b : Nat) : Prop := xlInScope (ownXl s) xsc b = true
    let c := s.cur.ctx
    let ls := execLanes s
    let near := sc = .none ∨ sc = .strand
    (∀ i, i = .fence o ∨ i = .fenceRel o →
      (accessesOut s c ls sc = false → Completes i s fun _ a => a) ∧ (accessesOut s c ls sc = true → Waits i s))
    ∧ (loadsOut s c ls = false → journalOut s c ls none = false → Completes (.fenceAcq o) s fun _ a => a)
    ∧ (¬ near → loadsOut s c ls = true → Waits (.fenceAcq o) s)
    ∧ (journalOut s c ls none = false → (Completes (.xfence o) s fun _ a => a) ∧ Completes (.xfencePkg o) s fun _ a => a)
    ∧ (journalOut s c ls none = true → Waits (.xfence o) s)
    ∧ (accessesOut s c ls xsc = true → Waits (.tfence o) s)
    ∧ (accessesOut s c ls xsc = false → ls ≠ [] →
      ∃ t : State, exec (.tfence o) s = .next t ∧ Passed0 (.tfence o) s t ∧ t.mem = s.mem
        ∧ ∀ b, (reach b → (getBay t b).walk = []
              ∧ ∀ w : OldWord, w.since < s.free → (∀ y, w.by_ = some y → y.1 = c ∧ ∀ l ∈ y.2, l ∈ ls) → fencedOld t b w = true)
            ∧ (¬ reach b → (getBay t b).walk = (getBay s b).walk) ∧ (getBay t b).tlb = (getBay s b).tlb)
    ∧ (curPriv s = true → accessesOut s c ls xsc = false → xlBusy s (ownXl s) xsc = false → ls ≠ [] →
      let held (t : State) (P : List TlbEnt → Prop) : Prop := (∀ b, reach b → P (getBay t b).tlb)
        ∧ (∀ k, reach (k / 16) → P (getTruss t k).tlb) ∧ ∀ k, reach (xlBayOf k) → P (getCore t k).tlb
      let asid (i : Instr) (l : Nat) : Nat := ((valsOf i (curLane s l)).s2.extractLsb' 0 12).toNat
      (∃ t : State, exec (.tlbiAll o) s = .next t ∧ Passed0 (.tlbiAll o) s t ∧ held t (fun e => e = [])
        ∧ ∀ b, reach b → (getBay t b).walk = [])
      ∧ (∃ t : State, exec (.tlbiAsid o) s = .next t ∧ Passed0 (.tlbiAsid o) s t
        ∧ ∀ l ∈ ls, held t fun es => ∀ e ∈ es, e.asid ≠ asid (.tlbiAsid o) l)
      ∧ ∃ t : State, exec (.tlbiPage o) s = .next t ∧ Passed0 (.tlbiPage o) s t
        ∧ ∀ l ∈ ls, let va := (valsOf (.tlbiPage o) (curLane s l)).s1
            canonical va = true → held t fun es => tlbHits es (asid (.tlbiPage o) l) va = [])
    ∧ (curPriv s = true → accessesOut s c ls xsc = true → ∀ i, i = .tlbiAll o ∨ i = .tlbiAsid o ∨ i = .tlbiPage o → Waits i s)
    ∧ (curPriv s = false → ∀ i, i = .tlbiAll o ∨ i = .tlbiAsid o ∨ i = .tlbiPage o → exec i s = privTrap i s)

/-! ## Courses -/

/-- R115, R290, R295: MARK pushes a mark and JOIN goes on with the lanes a mark holds, in a course that is not split; in a
split lane they count DEPTH, and trap where it is full or 0; in a strand they do nothing. A MARK whose label breaks R10
raises the control-target fault; one that some lanes annul and others execute splits the course. -/
def Obligations.MarksAndJoins : Prop :=
  ∀ (o : Opnds) (s : State), Issues s →
    let x := curCtx s
    let after (t : State) := getCtx t s.cur.ctx
    let mark := Instr.mark o
    let join := Instr.join o
    let whole := isStrand x = false ∧ x.split = false ∧ execLanes s = s.cur.lanes
    let label := jTarget mark s
    (isStrand x = true → (Completes join s fun _ a => a)
      ∧ (breaksR10 (ctxForm x) label = false → Completes mark s fun _ a => a))
    ∧ (isStrand x = false → x.split = true →
      ((∀ l ∈ execLanes s, (curLane s l).depth ≠ 255) → breaksR10 (ctxForm x) label = false →
        Completes mark s fun _ a => { a with depth := a.depth + 1 })
      ∧ ((∀ l ∈ execLanes s, (curLane s l).depth ≠ 0) → Completes join s fun _ a => { a with depth := a.depth - 1 })
      ∧ (let full := (execLanes s).filter fun l => (curLane s l).depth == 255
         full ≠ [] → breaksR10 (ctxForm x) label = false →
          exec mark s = trap mark s { vector := 21, reason := 8, mask := maskOf full })
      ∧ (let empty := (execLanes s).filter fun l => (curLane s l).depth == 0
         empty ≠ [] → exec join s = trap join s { vector := 21, reason := 4, mask := maskOf empty }))
    ∧ (breaksR10 (ctxForm x) label = true → exec mark s = trapExec mark s 3 0 0 label)
    ∧ (isStrand x = false → x.split = false → (execLanes s).length ≠ s.cur.lanes.length →
      ∀ i, (i = mark ∧ breaksR10 (ctxForm x) label = false) ∨ i = join →
        ∃ t : State, exec i s = .next t ∧ t = { s with ctxs := t.ctxs } ∧ (after t).split = true ∧ (after t).cause = 1)
    ∧ (whole → breaksR10 (ctxForm x) label = false → x.marks.length < 16 →
      ∃ t : State, exec mark s = .next t ∧ Passed0 mark s t ∧ t.mem = s.mem
        ∧ (after t).marks = { rj := label, mask := maskOf s.cur.lanes } :: x.marks)
    ∧ (whole → breaksR10 (ctxForm x) label = false → x.marks.length = 16 →
      ∃ t : State, exec mark s = .next t ∧ t.cur = s.cur ∧ (after t).split = true ∧ (after t).cause = 2)
    ∧ (whole → ∀ m ms, x.marks = m :: ms → curPc s = m.rj →
      ∃ t : State, exec join s = .next t ∧ t.cur = { s.cur with done := true } ∧ t.mem = s.mem
        ∧ (after t).marks = (if m.dmask = 0 then ms else { m with dmask := 0 } :: ms)
        ∧ ∀ l, l < x.lanes.length →
          (laneOf t s l).actv = (inMask (if m.dmask = 0 then m.mask else m.dmask) l && (curLane s l).live)
          ∧ (laneOf t s l).pc = (if m.dmask = 0 then nextPc join s else m.dpc)
          ∧ (laneOf t s l).regs = (curLane s l).regs)
    ∧ (whole → x.marks = [] → exec join s = trapExec join s 21 4)
    ∧ (whole → ∀ m ms, x.marks = m :: ms → curPc s ≠ m.rj → exec join s = trapExec join s 21 5)

/-- R288, R289, R296, R299, R308, R309: strands meet in CLASP and fuse, and so do the lanes of a split course that names its own
set; UNCLASP splits a course, and its lanes meet again; BAR holds a course, from its arrival until its bundle has arrived, and
faults in a strand, under a mark, and where lanes are out; CMODE sets the cache mode of its Truss. -/
def Obligations.CoursesFuseSplitAndMeet : Prop :=
  ∀ (n : BitVec 2) (o : Opnds) (s : State), Issues s → queueGate o s = .go →
    let x := curCtx s
    let l := execHead s
    let truss := trussOf (curCore s l)
    let base := (o.imm.extractLsb' 0 5).toNat
    let w := 8 * 2 ^ n.toNat
    let fits := base % w = 0 ∧ base + w ≤ 32 ∧ x.slot ≠ some 0
    let met := (curLane s l).wait = .woken 1
    let after (t : State) := getCtx t s.cur.ctx
    (met → Gives (.clasp n o) s fun _ => 1)
    ∧ (¬ met → fits → isStrand x = false → x.split = false → x.core = truss * 64 + base → x.lanes.length = w →
      Gives (.clasp n o) s fun _ => 0)
    ∧ (¬ met → fits → isStrand x = true →
      (∀ k, k < w → ∃ c, boundAt s (truss * 64 + base + k) (x.slot.getD 0) = some c ∧ isStrand (getCtx s c) = true) →
      ∃ t : State, exec (.clasp n o) s = .next t ∧ t.cur = s.cur ∧ ∀ k ∈ s.cur.lanes, k < x.lanes.length →
        (laneOf t s k).wait = .clasp base w ∧ (laneOf t s k).pc = (curLane s k).pc)
    ∧ (¬ met → ¬ fits → exec (.clasp n o) s = trapExec (.clasp n o) s 21 1)
    ∧ (¬ met → fits → isStrand x = false → ¬ (x.core = truss * 64 + base ∧ x.lanes.length = w) →
      exec (.clasp n o) s = trapExec (.clasp n o) s 21 3)
    ∧ (¬ met → fits → isStrand x = false → x.split = true → x.core = truss * 64 + base → x.lanes.length = w →
      ∃ t : State, exec (.clasp n o) s = .next t ∧ t.cur = s.cur ∧ ∀ k ∈ s.cur.lanes, k < x.lanes.length →
        if (curLane s k).annul = 0 then (laneOf t s k).wait = .clasp base w ∧ (laneOf t s k).pc = (curLane s k).pc
        else (laneOf t s k).pc = nextPc (.clasp n o) s ∧ (laneOf t s k).annul = (curLane s k).annul - 1)
    ∧ (isStrand x = true → ∀ i, i = .unclasp o ∨ i = .unclaspJoin o → exec i s = trapExec i s 21 1)
    ∧ (isStrand x = false → x.split = true → ∀ i, i = .unclasp o ∨ i = .unclaspJoin o → Completes i s fun _ a => a)
    ∧ (isStrand x = false → x.split = false →
      (∃ t : State, exec (.unclasp o) s = .next t ∧ (after t).split = true ∧ (after t).cause = 5 ∧ (after t).rjv = false
        ∧ (after t).marks = [] ∧ t.cur = { s.cur with done := true })
      ∧ (∀ m ms, x.marks = m :: ms → ∃ t : State, exec (.unclaspJoin o) s = .next t ∧ (after t).split = true ∧ (after t).rjv = true
        ∧ (after t).srj = (x.marks.getLast?.map (·.rj)).getD 0 ∧ t.cur = { s.cur with done := true }))
    ∧ (muted s = false → isStrand x = false → x.split = false → ((curLane s l).wait = .woken 0 ∨ (curLane s l).wait = .woken 1) →
      Completes (.bar o) s fun _ a => a)
    ∧ (muted s = false → isStrand x = false → x.split = false → (curLane s l).wait ≠ .woken 0 → (curLane s l).wait ≠ .woken 1 →
      x.mate = none →
      (maskOf s.cur.lanes ≠ maskOf (liveLanes x) → exec (.bar o) s = trapExec (.bar o) s 21 7)
      ∧ (maskOf s.cur.lanes = maskOf (liveLanes x) → accessesOut s s.cur.ctx (liveLanes x) .bay = true → Waits (.bar o) s)
      ∧ (maskOf s.cur.lanes = maskOf (liveLanes x) → accessesOut s s.cur.ctx (liveLanes x) .bay = false →
        ∃ t : State, exec (.bar o) s = .next t ∧ (x.kind = .course → queuesBusy x = false → (after t).slot = none)
          ∧ ∀ k ∈ liveLanes x, (laneOf t s k).wait = .arrived false ∧ (laneOf t s k).pc = (curLane s k).pc
              ∧ (laneOf t s k).regs = (curLane s k).regs))
    ∧ (muted s = false → isStrand x = true → exec (.bar o) s = trapExec (.bar o) s 21 7)
    ∧ (muted s = false → isStrand x = false → x.split = true →
      let under := (execLanes s).filter fun k => (curLane s k).depth != 0
      under ≠ [] → exec (.bar o) s = trap (.bar o) s { vector := 21, reason := 7, mask := maskOf under })
    ∧ (muted s = false → isStrand x = false → x.split = true → (∀ k ∈ execLanes s, (curLane s k).depth = 0) →
      ∃ t : State, exec (.bar o) s = .next t ∧ ∀ k ∈ execLanes s, k < x.lanes.length → (laneOf t s k).wait = .bar)
    ∧ (isKeeper x = true → curPriv s = true → quiescent s (trussOf x.core) = true →
      ∀ i v, (i = .cmodePrivate o ∧ v = 0) ∨ (i = .cmodeShared o ∧ v = 1) →
        ∃ t : State, exec i s = .next t ∧ Passed0 i s t ∧ trussReg t (trussOf x.core) 0x191 = v)
    ∧ (isKeeper x = false → ∀ i, i = .cmodePrivate o ∨ i = .cmodeShared o → exec i s = privTrap i s)

/-- R302 to R306: LANE, WIDTH and the cross-lane instructions of a course that is not split and has no mate: what each
participant gets from all of them. A split lane raises course fault 6. -/
def Obligations.CrossLaneResults : Prop :=
  ∀ (o : Opnds) (s : State), Issues s → s.cur.lanes.Pairwise (· < ·) → (∀ l ∈ s.cur.lanes, l < 32) →
    queueGate o s = .go →
    let x := curCtx s
    let ls := execLanes s
    let num (l : Nat) := if x.half then 32 + l else l
    let one (i : Instr) (v : Nat → Word) := Completes i s fun l a => putX i ((v l).setWidth 64) a
    let folds (i : Instr) (f : LaneOp) (vals : Nat → List Word) := Completes i s fun l a =>
      let r := combineAll f (rmOf (stRM (curLane s l).status)) (vals l)
      putX i (r.1.setWidth 64) { a with status := (curLane s l).status ||| flagBits r.2 }
    let strand := isStrand x
    (Completes (.lane o) s fun l a => putX (.lane o) (BitVec.ofNat 64 (if strand then 0 else num l)) (consume o a))
    ∧ (Completes (.laneAct o) s fun l a => putX (.laneAct o)
        ((if strand then 1 else if x.split then 1 <<< l else maskOf (actLanes x) : Word).setWidth 64) (consume o a))
    ∧ (Gives (.laneLive o) s fun _ => (if strand then 1 else maskOf (liveLanes x) : Word).setWidth 64)
    ∧ (Gives (.width o) s fun _ => BitVec.ofNat 64 (logicalWidth x))
    ∧ (muted s = false → x.mate = none → (strand = true ∨ x.split = false) →
      (∀ m, ∃ v : Nat → Word, one (.shfl m o) v ∧ ∀ l ∈ ls,
        let d := (o.imm.extractLsb' 0 6).toNat
        let i := Instr.shfl m o
        let src : Option Nat := match m with
          | .pick => some (a32 i (curLane s l)).toNat
          | .lo => if d ≤ num l then some (num l - d) else none
          | .hi => some (num l + d)
          | .mix => some (num l ^^^ d)
          | .rot => some ((num l + d) % logicalWidth x)
        (∀ k ∈ ls, src = some (num k) → v l = b32 i (curLane s k))
          ∧ ((∀ k ∈ ls, src ≠ some (num k)) → v l = b32 i (curLane s l)))
      ∧ (∀ m, ∃ v : Word, one (.vote m o) (fun _ => v) ∧
        let i := Instr.vote m o
        let hit (l : Nat) := b32 i (curLane s l) ≠ 0
        match m with
        | .every => v = 1 ∧ (∀ l ∈ ls, hit l) ∨ v = 0 ∧ ∃ l ∈ ls, ¬ hit l
        | .some => v = 1 ∧ (∃ l ∈ ls, hit l) ∨ v = 0 ∧ ∀ l ∈ ls, ¬ hit l
        | .mask => ∀ k, k < 32 → v.getLsbD k = decide (x.half = false ∧ k ∈ ls ∧ hit k)
        | .same => v = 1 ∧ (∀ l ∈ ls, ∀ k ∈ ls, b32 i (curLane s l) = b32 i (curLane s k))
            ∨ v = 0 ∧ ∃ l ∈ ls, ∃ k ∈ ls, b32 i (curLane s l) ≠ b32 i (curLane s k)
        | .maskhi => ∀ k, k < 32 → v.getLsbD k = decide (x.half = true ∧ k ∈ ls ∧ hit k)
        | .count => v = BitVec.ofNat 32 (ls.countP fun l => b32 i (curLane s l) != 0))
      ∧ (∀ f, folds (.rseg f o) f fun l =>
        let i := Instr.rseg f o
        (ls.filter fun k => ls.all fun j =>
            !(decide (min l k < j ∧ j ≤ max l k) && (a32 i (curLane s j)).getLsbD 0)).map fun k => b32 i (curLane s k))
      ∧ ∀ f, folds (.scan f o) f fun l =>
        (ls.filter fun k => if o.imm.getLsbD 0 then k < l else k ≤ l).map fun k => b32 (.scan f o) (curLane s k))
    ∧ (muted s = false → strand = false → x.split = true → ∀ i,
        (∃ m, i = .shfl m o) ∨ (∃ m, i = .vote m o) ∨ (∃ f, i = .rseg f o) ∨ (∃ f, i = .scan f o) →
        exec i s = trapExec i s 21 6)

/-! ## Strands: starting, ending and waiting -/

/-- R196 to R202: SPAWN sends a record with the entry, the b registers and the task of its strand and waits for the
answer, after its own stores that are on their way where it reads a descriptor (R146, R479); QUIT ends its context and leaves an exit record; REAP takes the oldest record, or ends a context by force. -/
def Obligations.SpawnQuitAndReap : Prop :=
  ∀ (o : Opnds) (s : State) (l : Nat), isStrand (curCtx s) = true → s.cur.lanes = [l] → l < (curCtx s).lanes.length →
    (curLane s l).annul = 0 → Unlogged s →
    let c := s.cur.ctx
    let x := curCtx s
    let a := curLane s l
    let core := curCore s l
    let quad (i : Instr) (t : State) (v : QWord) :=
      t.cur = { s.cur with done := true }
        ∧ (getCtx t c).lanes = lanesAfter i s fun _ b => setLaneQuad o.x.toNat v b
    (∀ i course, (i = .spawnCtx o ∧ course = false) ∨ (i = .spawnCourse o ∧ course = true) →
      let n := (valsOf i a).s1.toNat % 0x100000000
      let e := (valsOf i a).s2
      (∀ v left, a.wait = .answer 0 [(l, v)] left →
        ∃ t : State, exec i s = .next t ∧ Passes i s t fun _ b => putX i (BitVec.ofNat 64 v) (consume o b))
      ∧ (a.wait = .none → e.getLsbD 0 = true → (spawnTarget s (pkgOf core) course n).isSome = true → descWaits s l (e - 1) = true →
        Waits i s)
      ∧ (a.wait = .none → ∀ k, spawnTarget s (pkgOf core) course n = some k →
        (e.getLsbD 0 = true → descWaits s l (e - 1) = false) →
        let z := if e.getLsbD 0 then forceStores s l else s
        (spawnEntry z l e (kindForm (coreKind k)) = none →
          exec i s = trap i z { vector := 3, addr := e, mask := maskOf [l] })
        ∧ ∀ kern p, spawnEntry z l e (kindForm (coreKind k)) = some (kern, p) → queueGate o z = .go →
          accessesOut z c [l] (relScope z [n]) = false → (e.getLsbD 0 = true → s.flight = []) →
          ∃ t : State, ∃ r : SpawnRec, exec i s = .next t ∧ t.flight = s.flight ++ [.spawnRecordArrival r] ∧ t.mem = s.mem
            ∧ r.target = k ∧ r.course = course ∧ r.pc = p ∧ r.kernel = kern ∧ r.task = x.task ∧ r.ttb = a.ttb
            ∧ r.b = (List.range 8).map (laneB a) ∧ r.ctx = c ∧ (laneOf t s l).wait = .answer 1 [] []))
    ∧ (curPriv s = true → exec (.quit o) s = privTrap (.quit o) s)
    ∧ (curPriv s = false → queueGate o s = .go → accessesOut s c [l] .sys = false → x.lanes.length = 1 → NoLaunch s →
      (∀ q ∈ a.queues, q.2.inflight = 0) → (getCore s core).exitWait = [] → (getCore s core).exitQ.length < 32 →
      ∃ t : State, ∃ r, exec (.quit o) s = .next t ∧ (getCtx t c).alive = false
        ∧ (getCore t core).exitQ = (getCore s core).exitQ ++ [r] ∧ r.ctx = c ∧ r.w1 = b32 (.quit o) a
        ∧ r.w2 = x.task.setWidth 32 ∧ r.w3 = x.wsptr)
    ∧ (curPriv s = true → NoLaunch s → ∀ i, i = .reapPoll o ∨ i = .reapWait o → ∀ r q, (getCore s core).exitQ = r :: q →
      ∃ t : State, exec i s = .next t ∧ quad i t (r.w3 ++ r.w2 ++ r.w1 ++ r.w0) ∧ (getCore t core).exitQ = q
        ∧ (getCtx t r.ctx).wsOn = false)
    ∧ (curPriv s = true → (getCore s core).exitQ = [] →
      (∃ t : State, exec (.reapPoll o) s = .next t ∧ quad (.reapPoll o) t 0)
      ∧ ∃ t : State, exec (.reapWait o) s = .next t ∧ t.cur = s.cur ∧ (laneOf t s l).wait = .reap)
    ∧ (curPriv s = true → queueGate o s = .go → let i := Instr.reapForce o
      let quad (t : State) (v : QWord) :=
        t.cur = { s.cur with done := true }
          ∧ (getCtx t c).lanes = lanesAfter i s fun _ b => setLaneQuad o.x.toNat v (consume o b)
      match forceTarget s core ((valsOf i a).s2.toNat % 0x100000000) with
      | none => ∃ t : State, exec i s = .next t ∧ quad t 0
      | some d => d ≠ c → (getCtx s d).alive = true → queuesBusy (getCtx s d) = false → NoLaunch s →
        ∃ t : State, exec i s = .next t ∧ quad t (quadOf (exitRecord (getCtx s d) d true 0))
          ∧ (getCtx t d).alive = false ∧ (getCtx t d).wsOn = false)
    ∧ (curPriv s = false → ∀ i, i = .reapPoll o ∨ i = .reapWait o ∨ i = .reapForce o → exec i s = privTrap i s)

/-- R204 to R209: SLEEP ends with a pending wake, at its time, or waits; WAKE sends a wake; YLD gives up the slot of a
course; YLD.cc waits for a completion counter; SPIN waits while memory holds its value; WSP binds a strand to a slot and
reads where a slot's workspace lies. -/
def Obligations.SleepWakeYieldAndSpin : Prop :=
  ∀ (o : Opnds) (s : State) (l : Nat), isStrand (curCtx s) = true → s.cur.lanes = [l] → l < (curCtx s).lanes.length →
    (curLane s l).annul = 0 → Unlogged s → queueGate o s = .go →
    let c := s.cur.ctx
    let x := curCtx s
    let a := curLane s l
    let core := curCore s l
    let sleep := Instr.sleep o
    let dur := (valsOf sleep a).s2.toNat % 0x100000000
    let ends (r : Nat) := ∃ t : State, exec sleep s = .next t ∧ Passes sleep s t fun _ b =>
      putX sleep (BitVec.ofNat 64 r) (consume o b)
    (∀ r, a.wait = .woken r → ends r)
    ∧ (a.wait = .none → a.pendWake = true → ∃ t : State, exec sleep s = .next t
        ∧ Passes sleep s t fun _ b => putX sleep 0 { consume o b with pendWake := false })
    ∧ (∀ t0 d, a.wait = .sleep t0 d → a.pendWake = false → d ≠ 0 → d ≤ cycOf s core - t0 → ends 1)
    ∧ (a.wait = .none → a.pendWake = false → ∃ t : State, exec sleep s = .next t ∧ t.cur = s.cur
        ∧ (laneOf t s l).wait = .sleep (cycOf s core) dur)
    ∧ (let i := Instr.wake o
       let v := (valsOf i a).s2
       let n := v.toNat % 0x100000000
       accessesOut s c [l] (relScope s [n]) = false →
        ∃ t : State, exec i s = .next t ∧ Passed0 i s t ∧ t.mem = s.mem
          ∧ if validNode n then ∃ k, t.flight = s.flight ++ [.wakeArrival k] ∧ k.target = keyNamed s (pkgOf core) n ∧ k.src = core
                ∧ k.word = v.extractLsb' 32 32 ∧ k.task = x.task
            else t.flight = s.flight)
    ∧ Completes (.yld o) s (fun _ b => b)
    ∧ (let i := Instr.yldCc o
       let n := (valsOf i a).x.toNat % 128
       let cont := curPc s + jUnit o.form * o.imm
       (coreKind core = .eave → n < 16) → breaksR10 (ctxForm x) cont = false →
        ∃ t : State, exec i s = .next t ∧ t.cur = { s.cur with done := true } ∧ t.mem = s.mem
          ∧ (laneOf t s l).wait = .yldCc n ((valsOf i a).s2.toNat % 0x100000000) cont (nextPc i s)
          ∧ (laneOf t s l).regs = a.regs)
    ∧ (∀ w, let i := Instr.spin w o
       let n := match w with | .w32 => 4 | .w64 => 8
       (∀ r, a.wait = .woken r → Completes i s fun _ b => b)
       ∧ ∀ p, Reaches i s (.spin w) l p →
        (memNat s p.acc.pa n ≠ dataNat (sizeOfW w) a o.x.toNat → ∃ t : State, exec i s = .next t ∧ Passed0 i s t ∧ t.mem = s.mem)
        ∧ (memNat s p.acc.pa n = dataNat (sizeOfW w) a o.x.toNat → ∃ t : State, exec i s = .next t ∧ t.cur = s.cur
            ∧ (laneOf t s l).wait = .spin [p.acc.pa / 128]))
    ∧ (curPriv s = true → let i := Instr.wspBind o
       let slot := (valsOf i a).s1.toNat % 16
       let off := (valsOf i a).s2.toNat % 0x100000000
       (∀ d, slot ≠ 0 → slot < slotCount (coreKind core) → boundAt s core slot = none → unboundStrand s core off = some d →
        d ≠ c → ∃ t : State, exec i s = .next t ∧ (getCtx t d).slot = some slot ∧ t.cur = { s.cur with done := true }
          ∧ (getCtx t c).lanes = lanesAfter i s fun _ b => consume o b)
       ∧ ((slot = 0 ∨ slotCount (coreKind core) ≤ slot ∨ boundAt s core slot ≠ none ∨ unboundStrand s core off = none) →
        exec i s = trap i s { vector := 20, reason := 4, mask := maskOf [l] }))
    ∧ (curPriv s = true → Gives (.wspRead o) s fun b =>
        (match boundAt s core ((valsOf (.wspRead o) b).s2.toNat % 16) with
         | some d => (getCtx s d).wsptr
         | none => (0xFFFFFFFF : Word)).setWidth 64)
    ∧ (curPriv s = false → ∀ i, i = .wspBind o ∨ i = .wspRead o → exec i s = privTrap i s)

/-- R195, R13: GETS reads a system register into a pair; SETS writes STATUS but for PRIV and the annulled fields, writes a
field of an open register with PRIV = 1, and leaves a system register as it is with PRIV = 0. -/
def Obligations.SystemRegistersReadAndWrite : Prop :=
  ∀ (o : Opnds) (s : State), Issues s → Unlogged s → muted s = false →
    let c := s.cur.ctx
    let idx := (o.imm.extractLsb' 0 12).toNat
    let v (l : Nat) := lanePair (curLane s l) o.x.toNat
    let sets := Instr.sets o
    (∃ t : State, exec (.gets o) s = .next t ∧ Passes (.gets o) s t fun l b => setLanePair o.x.toNat (sysRead s c l idx) b)
    ∧ (idx = 0 → Completes sets s fun l b =>
        { b with status := (if (v l).extractLsb' 32 32 = 0 then 1 else (v l).extractLsb' 32 32)
                   ++ ((curLane s l).status.extractLsb' 8 24 ++ (v l).extractLsb' 0 8) })
    ∧ (idx = 0x131 → curPriv s = false → (∀ l ∈ execLanes s, stPriv (curLane s l).status = false) →
        Completes sets s fun _ b => b)
    ∧ (8 ≤ idx → (idx < 0x130 ∨ 0x139 < idx) → idx < 0x200 →
      (∀ l ∈ execLanes s, stPriv (curLane s l).status = false) → Completes sets s fun _ b => b)
    ∧ (∀ l m, execLanes s = [l] → stPriv (curLane s l).status = true → coreKind (curCore s l) = .dcore →
      (idx = 0x140 ∧ m = 0xFFFFFFFFFFFFF000 ∨ idx = 0x142 ∧ m = 0xF ∨ idx = 0x143 ∧ m = 0xFFFFFFFFFFFFFFFF
        ∨ idx = 0x155 ∧ m = 0xFFFFFFFF) →
      ∃ t : State, exec sets s = .next t ∧ Passed0 sets s t ∧ t.mem = s.mem
        ∧ coreReg t (curCore s l) idx = (coreReg s (curCore s l) idx &&& ~~~m) ||| (v l &&& m)
        ∧ ∀ k j, (k ≠ curCore s l ∨ j ≠ idx) → coreReg t k j = coreReg s k j)
    ∧ ∀ l, execLanes s = [l] → stPriv (curLane s l).status = true → coreKind (curCore s l) = .dcore → idx = 0x102 →
      let z := v l &&& 0x3FFFFFFF
      (∀ r, lcarveReason s (curCore s l) z = some r →
        exec sets s = trap sets s { vector := 20, reason := r, mask := maskOf [l] })
      ∧ (lcarveReason s (curCore s l) z = none →
        ∃ t : State, exec sets s = .next t ∧ Passed0 sets s t ∧ t.due = s.due ++ [.lcarveWrite (curCore s l) z])

/-- R210, R211: CINV and CWB write the dirty bytes of the lines that they name back and drop or keep the lines; the code
words of a line leave the fetch paths. -/
def Obligations.CacheInstructionsDropLines : Prop :=
  ∀ (o : Opnds) (s : State), Issues s →
    let cores := coresOfCtx (curCtx s)
    let caches (l : Nat) := cinvCaches s (curCore s l)
    (∃ t : State, exec (.cinvData o) s = .next t ∧ Passed0 (.cinvData o) s t
      ∧ ∀ l ∈ execLanes s, ∀ pa, cinvLine s (.cinvData o) l .read = some pa → ∀ k ∈ caches l, cacheFind t k pa = none)
    ∧ (∃ t : State, exec (.cwbLine o) s = .next t ∧ Passed0 (.cwbLine o) s t
      ∧ ∀ l ∈ execLanes s, ∀ pa, cinvLine s (.cwbLine o) l .read = some pa → ∀ k ∈ caches l,
          ∀ e, cacheFind t k pa = some e → ∀ d ∈ e.dirty, d = false)
    ∧ (∃ t : State, exec (.cinvCode o) s = .next t ∧ Passed0 (.cinvCode o) s t ∧ t.mem = s.mem
      ∧ ∀ l ∈ execLanes s, ∀ pa, cinvLine s (.cinvCode o) l .fetch = some pa → ∀ k ∈ cores,
          (∀ e ∈ (getCore t k).code, e.1 / lineBytes ≠ pa / lineBytes)
            ∧ (coreKind k = .dcore → ∀ e ∈ (getTruss t (trussOf k)).code, e.1 / lineBytes ≠ pa / lineBytes))
    ∧ (curPriv s = true → ∃ t : State, exec (.cinvAll o) s = .next t ∧ Passed0 (.cinvAll o) s t
      ∧ (∀ l ∈ execLanes s, ∀ k ∈ caches l, cacheLines t k = []) ∧ ∀ k ∈ cores, (getCore t k).code = []
        ∧ (coreKind k = .dcore → (getTruss t (trussOf k)).code = []))
    ∧ (curPriv s = false → exec (.cinvAll o) s = privTrap (.cinvAll o) s)
    ∧ ∃ t : State, exec (.cwbAll o) s = .next t ∧ Passed0 (.cwbAll o) s t
      ∧ ∀ l ∈ execLanes s, ∀ k ∈ caches l, ∀ e ∈ cacheLines t k, ∀ d ∈ e.dirty, d = false

/-! ## Messages -/

/-- R226 to R230: MSEND puts a message with 48 bytes of memory in its engine's send queue; MBIND configures and binds a
class and answers its old register; MWAIT waits for entries and answers the address of the oldest; MACK frees entries. Two
clauses are the model's choice: MBIND with UN and KEEP unbinds (log 22), and a MSEND of class 0 with flow 2 carries flow 1
(`sentFlow`, log 102). -/
def Obligations.MessagesAreSentAndTaken : Prop :=
  ∀ (k : BitVec 3) (o : Opnds) (s : State) (l : Nat), OneLane s l → coreKind (curCtx s).core = .dcore → Unlogged s →
    let x := curCtx s
    let a := curLane s l
    let core := curCore s l
    let cls := k.toNat
    let old := mcls s core cls
    let owned := mcOwns old x = true
    let gives (i : Instr) (v : DWord) (t : State) := exec i s = .next t ∧ Passes i s t fun _ b => putX i v (consume o b)
    (∀ fs, let i := Instr.msend k fs o
      let off := b32 i a
      let node := (a32 i a).toNat
      (off.toNat % 16 ≠ 0 → validNode node = true →
        exec i s = trap i s { vector := 8, reason := 0, addr := off.setWidth 64, mask := maskOf [l] })
      ∧ (off.toNat % 16 = 0 → off.toNat + 48 ≤ locLimit s x l → validNode node = true →
          spaceBad s (locSpace x l) off.toNat 48 = false → accessesOut s s.cur.ctx [l] o.g.scope = false →
        (sendRoom s core cls = true → ∃ t : State, ∃ m : Msg, exec i s = .next t ∧ Passed0 i s t ∧ t.mem = s.mem
          ∧ m.dst = keyNamed s (pkgOf core) node ∧ m.cls = cls ∧ m.flow = sentFlow cls ((valsOf i a).x.toNat % 65536) ∧ m.task = x.task ∧ m.src = core
          ∧ m.fsens = fs ∧ m.txr = stTxr a.status ∧ m.payload = spaceBytes s (locSpace x l) off.toNat 48
          ∧ m.stamp = cstamp s core + 1
          ∧ (getCore t core).sendQ = (getCore s core).sendQ ++ [{ msg := m }]
          ∧ t.flight = s.flight ++ [.messageArrival m])
        ∧ (sendRoom s core cls = false → ∃ t : State, ∃ m : Msg, exec i s = .next t ∧ t.cur = s.cur ∧ t.flight = s.flight
          ∧ (laneOf t s l).wait = .msend [m])))
    ∧ (queueGate o s = .go → (k ≠ 0 ∨ curPriv s = true) → (heldByOther s l cls = false ∨ curPriv s = true) →
      (∀ i, i = .mbind k o →
        let v := (valsOf i a).s2
        (classReason s core old (mcApply old v) none = 0 → ∃ t : State, gives i (old &&& 0xFFFFFFFF) t
          ∧ mcls t core cls &&& 0xB800FFFF = v &&& 0xB800FFFF ∧ mcBnd (mcls t core cls) = true
          ∧ fld (mcls t core cls) 16 11 = mcWord x ∧ mcHead (mcls t core cls) = mcHead old
          ∧ mcCount (mcls t core cls) = mcCount old)
        ∧ ∀ r, r ≠ 0 → classReason s core old (mcApply old v) none = r →
          exec i s = trap i s { vector := 20, reason := r, mask := maskOf [l] })
      ∧ (∃ t : State, gives (.mbindKeep k o) (old &&& 0xFFFFFFFF) t ∧ mcBnd (mcls t core cls) = true
          ∧ fld (mcls t core cls) 16 11 = mcWord x ∧ mcls t core cls &&& 0xB800FFFF = old &&& 0xB800FFFF)
      ∧ ∀ kp, ∃ t : State, gives (.mbindUn k kp o) (old &&& 0xFFFFFFFF) t ∧ mcls t core cls = old &&& ~~~0x40000000)
    ∧ (k = 0 → curPriv s = false → ∀ i, i = .mbind k o ∨ i = .mbindKeep k o ∨ (∃ kp, i = .mbindUn k kp o) →
        exec i s = privTrap i s)
    ∧ (queueGate o s = .go → ∀ i any, (i = .mwaitAll k o ∧ any = false) ∨ (i = .mwaitAny k o ∧ any = true) →
      let n := (valsOf i a).s2.toNat % 0x100000000
      (¬ owned → exec i s = trap i s { vector := 19, reason := 1, info := BitVec.ofNat 32 cls, mask := maskOf [l] })
      ∧ (owned → 2 ^ mcLog old < n →
        exec i s = trap i s { vector := 19, reason := 3, info := BitVec.ofNat 32 cls, mask := maskOf [l] })
      ∧ (owned → n ≤ 2 ^ mcLog old → mcCount old < n →
        ∃ t : State, exec i s = .next t ∧ t.cur = s.cur ∧ (laneOf t s l).wait = .mwait any cls [(l, n)])
      ∧ (owned → 0 < n → n ≤ 2 ^ mcLog old → n ≤ mcCount old → firstMismatch s l cls n = none →
        ∃ t : State, gives i (BitVec.ofNat 64 (mcBase old * 64 + 64 * mcHead old)) t ∧ t.cores = s.cores))
    ∧ (queueGate o s = .go → let i := Instr.mack k o
      let n := (valsOf i a).s2.toNat % 0x100000000
      (owned → mcCount old < n →
        exec i s = trap i s { vector := 19, reason := 4, info := BitVec.ofNat 32 cls, mask := maskOf [l] })
      ∧ (owned → n ≤ mcCount old → mcLog old ≤ 10 → ∃ t : State, exec i s = .next t ∧ Passes i s t (fun _ b => consume o b)
        ∧ mcHead (mcls t core cls) = (mcHead old + n) % 2 ^ mcLog old ∧ mcCount (mcls t core cls) = mcCount old - n
        ∧ fld (mcls t core cls) 0 32 = fld old 0 32))

/-- R219, R222, R223, R225, R258, R484: a message of a task that is alive reaches the buffer of an enabled class with room, stays
with its sender where the class is full, and comes back as a notice where the class is disabled; one of a dead task is
dropped; a write of 64 bytes to a window makes a message, whose sender is the host proxy where the host writes it in BAR0. -/
def Obligations.MessagesArriveInTheirClass : Prop :=
  ∀ (s : State) (m : Msg), coreKind m.dst = .dcore → engineKind m.dst = .core .dcore → m.cls ≠ 0 → m.cls < 8 →
    (getCore s m.dst).retired = false → replayOn s m.dst = false →
    (m.who = .nobody) →
    let v := mcls s m.dst m.cls
    let n := 2 ^ mcLog v
    let dead := m.task ≠ 0 ∧ (tagDead s m.src m.task = true ∨ tagDead s m.dst m.task = true)
    let arrives (i : Instr) (z : State) :=
      (dead → ∃ t : State, exec i s = .next t ∧ t = { s with cores := t.cores }
        ∧ (getCore t m.src).sendQ = (getCore z m.src).sendQ.eraseP fun e => e.msg == m && !e.refused)
      ∧ (¬ dead → mcEn v = true → mcCount v < n → mcLog v ≤ 10 → ∃ t : State, exec i s = .next t ∧ t.mem = s.mem
        ∧ mcCount (mcls t m.dst m.cls) = mcCount v + 1 ∧ mcHead (mcls t m.dst m.cls) = mcHead v
        ∧ spaceBytes t (.scratch m.dst) (mcBase v * 64 + 64 * ((mcHead v + mcCount v) % n)) 64
            = headerBytes s m ++ padBytes 48 m.payload
        ∧ cstamp t m.dst = laterStamp (cstamp s m.dst) m.stamp + 1
        ∧ (m.src ≠ m.dst → (getCore t m.src).sendQ = (getCore z m.src).sendQ.eraseP fun e => e.msg == m && !e.refused))
      ∧ (¬ dead → mcEn v = true → n ≤ mcCount v → ∃ t : State, exec i s = .next t ∧ t = { s with cores := t.cores }
          ∧ (getCore t m.src).sendQ
            = setAt (getCore z m.src).sendQ ((getCore z m.src).sendQ.findIdx fun e => e.msg == m && !e.refused)
                fun e => { e with refused := true })
      ∧ (¬ dead → mcEn v = false → m.notice = false → ∃ t : State, ∃ e : Msg, exec i s = .next t ∧ t.mem = s.mem
          ∧ t.flight = s.flight ++ [.messageArrival e] ∧ e.dst = m.src ∧ e.cls = 0 ∧ e.task = 0 ∧ e.src = m.dst
          ∧ e.payload = padBytes 48 (headerBytes s m ++ [1]))
    (s.ev = some (.messageArrival m) → arrives .messageArrival s)
    ∧ (∀ k e, s.ev = some (.messageRetry m.src k) → (getCore s m.src).sendQ[k]? = some e → e.msg = m →
      (e.refused = false → exec .messageRetry s = .next s)
      ∧ (e.refused = true → arrives .messageRetry
          (modCore s m.src fun c => { c with sendQ := setAt c.sendQ k fun b => { b with refused := false } })))
    ∧ ∀ pa w bs, (s.ev = some (.windowWrite pa w bs) ∨ ∃ pkg off, s.ev = some (.bar0Write pkg off bs)
        ∧ w = some (hostProxyKey pkg) ∧ pa = pkg * 0x100000000000 + 0xF0000000000 + off) →
      let w0 := leNat (bs.take 4)
      (∀ src, w = some src → bs.length = 64 → pa % 64 = 0 → w0 / 256 = nodeId s (windowEngine pa) / 256 →
        ∃ t : State, ∃ e : Msg, exec .windowWrite s = .next t ∧ t.flight = s.flight ++ [.messageArrival e] ∧ e.dst = windowEngine pa
          ∧ e.cls = w0 / 32 % 8 ∧ e.src = src ∧ e.payload = bs.drop 16
          ∧ (getCore t src).sendQ = (getCore s src).sendQ ++ [{ msg := e }])
      ∧ ((w = none ∨ bs.length ≠ 64 ∨ pa % 64 ≠ 0) → fld (coreReg s (windowEngine pa) 0x118) 0 31 < 0x7FFFFFFF →
        ∃ t : State, exec .windowWrite s = .next t ∧ t.flight = s.flight
          ∧ coreReg t (windowEngine pa) 0x118 = coreReg s (windowEngine pa) 0x118 + 1)

/-! ## Engines -/

/-- R317, R318, R328 to R335: a matrix, gather or join instruction of a strand that passes its checks puts an entry with its
operands in its queue, or waits for room; MFMT and MTAB write the slot's format context. -/
def Obligations.MatrixInstructionsEnqueue : Prop :=
  ∀ (sh : Shape) (o : Opnds) (s : State) (l : Nat), OneLane s l → coreKind (curCtx s).core = .dcore → Unlogged s →
    queueGate o s = .go →
    let x := curCtx s
    let a := curLane s l
    let slot := x.slot.getD 0
    let lim := issueLimit s
    let m := shapeM sh
    let n := shapeN sh
    let k := shapeK sh
    let q := QueueId.slice x.core
    let fmt (t : State) : FmtCtx := tget {} (getCore t x.core).fmts slot
    let c (i : Instr) := (valsOf i a).x.toNat % 0x100000000
    let u (i : Instr) := (valsOf i a).s1.toNat
    let v (i : Instr) := (valsOf i a).s2.toNat
    let t := memType o
    let size := memSize t
    (∀ w, issueWord s = some w →
      let cOk (i : Instr) := c i % 64 = 0 ∧ c i + m * n * accBytes w ≤ spaceSize s (.accCore x.core)
      let abOk (i : Instr) := u i % 0x100000000 % 64 = 0 ∧ v i % 64 = 0 ∧ u i % 0x100000000 + aBytes w m k ≤ lim
        ∧ (if o.imm.getLsbD 7 then failsOf (checkPages s l (v i) (bBytes w n k) .read) = []
           else v i + bBytes w n k ≤ lim) ∧ tableFailsOf s w = []
      (cOk (.mzro sh o) → o.zq = false → Enqueues (.mzro sh o) s q)
      ∧ (cOk (.mma sh o) → abOk (.mma sh o) → Enqueues (.mma sh o) s q)
      ∧ (let i := Instr.mmag sh o
         cOk i → abOk i → u i / 0x100000000 % 2 = 0 → u i / 0x100000000 + 2 * m ≤ lim → Enqueues i s q)
      ∧ (let i := Instr.mldc sh o
         cOk i → u i % size = 0 → v i % size = 0 → u i + ((m - 1) * v i + n * size) ≤ lim → Enqueues i s q)
      ∧ (let i := Instr.mstc sh o
         let st := v i % 0x100000000
         cOk i → mstcTable s t = [] →
          (t < 6 → u i % size = 0 → st % size = 0 → u i + ((m - 1) * st + n * size) ≤ lim → Enqueues i s q)
          ∧ (6 ≤ t → u i % 4 = 0 → st % 4 = 0 →
            (∀ r, r < m → failsOf (checkPages s l ((u i + r * st) % 0x10000000000000000) (4 * n) .write) = []) → Enqueues i s q)))
    ∧ (issueWord s = none → ∀ i, (i = .mzro sh o ∨ i = .mma sh o) → c i % 64 = 0 → u i % 0x100000000 % 64 = 0 → v i % 64 = 0 →
        exec i s = trapExec i s 22 1)
    ∧ (∀ lg w, let i := Instr.gath lg w o
      let e := 2 ^ lg.toNat
      let b := if w then 4 else 2
      let g := (o.imm.extractLsb' 8 10).toNat + 1
      c i % e = 0 → u i % e = 0 → v i % b = 0 → c i + g * e ≤ lim → v i + g * b ≤ lim →
        Enqueues i s (.gather (trussOf x.core)))
    ∧ (∀ mask, let i := Instr.mqf mask o
      let qs := (if mask.getLsbD 0 then [QueueId.matrix (trussOf x.core)] else [])
        ++ (if mask.getLsbD 1 then [.gather (trussOf x.core)] else []) ++ (if mask.getLsbD 2 then [q] else [])
      ((∀ y ∈ qs, queueRoom s y = true) → ∃ (z : State) (e : QEnt), exec i s = .next z ∧ Passed0 i s z ∧ z.mem = s.mem ∧ e.instr = i
        ∧ (∀ y ∈ qs, queueOf z y = queueOf s y ++ [e]) ∧ ∀ y, y ∉ qs → queueOf z y = queueOf s y)
      ∧ ((∃ y ∈ qs, queueRoom s y = false) → Waits i s))
    ∧ (let i := Instr.mfmt o
      let w : BitVec 9 := o.imm.setWidth 9
      (fwOk w = true → fmtBusy s = false → ∃ z : State, exec i s = .next z ∧ Passed0 i s z ∧ z.mem = s.mem
        ∧ (fmt z).set = true ∧ (fmt z).word = w ∧ (fmt z).owner = fmtOwner x
        ∧ ((fmt s).owner = fmtOwner x → (fmt z).a = (fmt s).a ∧ (fmt z).b = (fmt s).b))
      ∧ (fwOk w = true → fmtBusy s = true → Waits i s)
      ∧ (fwOk w = false → exec i s = trapExec i s 22 2))
    ∧ ∀ tbl four, fmtBusy s = false →
      let loads (i : Instr) (es : List (BitVec 19)) := ∃ z : State, exec i s = .next z ∧ z.mem = s.mem
        ∧ (if tbl then (fmt z).b else (fmt z).a) = loadedTable four (stTxr a.status) es
        ∧ (if tbl then (fmt z).a = (claimed x (fmt s)).a else (fmt z).b = (claimed x (fmt s)).b)
        ∧ (laneOf z s l).hold = (if four then 1 else 16) ∧ (laneOf z s l).pc = nextPc i s ∧ (laneOf z s l).regs = a.regs
      (∀ p, loads (.mtabPreset tbl four p o) (presetEntries p (stTxr a.status)))
      ∧ (let i := Instr.mtab tbl four o
        let p := v i % 0x100000000
        let g := if four then 16 else 256
        let word (j : Nat) := spaceNat s (.scratch x.core) (p + 4 * j) 4
        p % 4 = 0 → p + 4 * g ≤ lim →
        (∀ j, j < g → word j < 0x80000 ∧ spaceBad s (.scratch x.core) (p + 4 * j) 4 = false) →
        (four = true → fourOk (stTxr a.status) ((List.range g).map fun j => BitVec.ofNat 19 (word j)) = true) →
        loads i ((List.range g).map fun j => BitVec.ofNat 19 (word j)))

/-- R324 to R328, R331, R334: the next entry of a queue starts; a running one leaves its queue at its completion and adds 1 to
its counter; an MZRO entry leaves zeros in C; a home adds a partial to its word. -/
def Obligations.EngineEntriesStartAndComplete : Prop :=
  ∀ (s : State) (q : QueueId),
    (s.ev = some (.engineEntryStart q) →
      (nextEntry s q = none → exec .engineEntryStart s = .next s)
      ∧ ∀ e, nextEntry s q = some e → isJoin e = false → ∃ t : State, exec .engineEntryStart s = .next t ∧ t.mem = s.mem
        ∧ queueOf t q = (queueOf s q).map fun k =>
            if k.id = e.id then { k with started := true, sent := startsAccepted s e } else k)
    ∧ (s.ev = some (.engineEntryComplete q) →
      (runningEntry s q = none → exec .engineEntryComplete s = .next s)
      ∧ ∀ e, runningEntry s q = some e → e.killed = false →
        (match e.instr with
          | .mma _ _ | .mmag _ _ | .mldc _ _ | .mzro _ _ | .gath _ _ _ => True
          | .mstc _ o => memType o < 6
          | _ => False) → e.out = 0 →
        ∃ t : State, exec .engineEntryComplete s = .next t ∧ queueOf t q = (queueOf s q).filter (fun k => k.id != e.id)
          ∧ fld (ccReg t e.core (ccOf e.instr)) 0 32 = (fld (ccReg s e.core (ccOf e.instr)) 0 32 + 1) % 0x100000000
          ∧ ∀ sh o, e.instr = .mzro sh o → e.course = false → ∀ j,
            j < shapeM sh * shapeN sh * accBytes (entryFmt s e).word →
            spaceByte t (.accCore e.core) (e.x.toNat % 0x100000000 + j) = 0)
    ∧ ∀ p e, s.ev = some (.homePartialAdd p) → (queueOf s p.queue).find? (fun k => k.id == p.entry) = some e →
      p.seq = none → farFrom (pkgOf e.core) p.pa = false → memBad s p.pa 4 = false → targetOf p.pa ≠ .window →
      let r := fAdd fp32 { mode := .rne } (fDecode fp32 (memNat s p.pa 4)) (fDecode fp32 p.val.toNat)
      ∃ t : State, exec .homePartialAdd s = .next t ∧ Stores s t p.pa 4 r.bits
        ∧ queueOf t p.queue = (queueOf s p.queue).map fun k => if k.id = p.entry
            then { k with out := k.out - 1, flags := orCc k.flags (if r.flags.nx then 1 else 0) } else k

/-- R459 to R464, R487, R488: a copy instruction that passes its checks puts an entry in its copy queue, or waits for room;
FPUT stores its bytes as one access on its way. TSEND and TGET run on an Eave core (R456). -/
def Obligations.CopyInstructionsEnqueue : Prop :=
  ∀ (o : Opnds) (s : State) (l : Nat), OneLane s l → Unlogged s → o.zq = false →
    let x := curCtx s
    let a := curLane s l
    let lim := issueLimit s
    let d (i : Instr) := (valsOf i a).x.toNat
    let u (i : Instr) := (valsOf i a).s1.toNat
    let v (i : Instr) := (valsOf i a).s2.toNat
    let q := QueueId.copyT (trussOf x.core)
    (coreKind x.core = .dcore →
     (let i := Instr.cpy o
      d i % 32 = 0 → u i % 32 = 0 → v i % 0x100000000 % 32 = 0 → v i % 0x100000000 ≤ 0x80000000 → Enqueues i s q)
     ∧ (let i := Instr.cpy o
       d i % 32 ≠ 0 → exec i s = trapExec i s 8 0 0 (valsOf i a).x)
     ∧ (let i := Instr.cpyr o
       let off := v i % 0x100000000
       let b := spaceBytes s (.scratch x.core) off 32
       off % 32 = 0 → off + 32 ≤ locLimit s x l → spaceBad s (.scratch x.core) off 32 = false →
         at_ b 0 8 % 32 = 0 → at_ b 8 8 % 32 = 0 → at_ b 16 4 % 32 = 0 → at_ b 24 4 % 32 = 0 → at_ b 28 4 % 32 = 0 →
         Enqueues i s q)
     ∧ (let i := Instr.fget o
       d i % 32 = 0 → u i % 0x100000000 % 32 = 0 → v i % 0x100000000 % 32 = 0 → v i % 0x100000000 ≤ 0x100000 →
         u i % 0x100000000 + v i % 0x100000000 ≤ lim → Enqueues i s q)
     ∧ (let i := Instr.cpyJoin o
       let mask := (o.imm.extractLsb' 0 3).toNat
       let qs := [q] ++ (if mask.testBit 0 then [QueueId.matrix (trussOf x.core)] else [])
         ++ (if mask.testBit 1 then [.gather (trussOf x.core)] else []) ++ (if mask.testBit 2 then [.slice x.core] else [])
       ((∀ y ∈ qs, queueRoom s y = true) → ∃ (z : State) (e : QEnt), exec i s = .next z ∧ Passed0 i s z ∧ z.mem = s.mem ∧ e.instr = i
         ∧ (∀ y ∈ qs, queueOf z y = queueOf s y ++ [e]) ∧ ∀ y, y ∉ qs → queueOf z y = queueOf s y)
       ∧ ((∃ y ∈ qs, queueRoom s y = false) → Waits i s))
     ∧ (let i := Instr.fput o
       let n := ((o.imm.extractLsb' 0 8).toNat + 1) * 16
       let off := v i % 0x100000000
       ∀ p, n ≤ 128 → d i % n = 0 → fputChecks s l (d i) n = [.ok p] → off % 16 = 0 → off + n ≤ locLimit s x l →
         spaceBad s (.scratch x.core) off n = false →
         let pa := p.acc.pa / 4096 * 4096 + d i % 4096
         p.acc.va.toNat / 4096 = d i / 4096 → farFrom (pkgOf (curCore s l)) pa = false →
         (relaxedCount s s.cur.ctx l < 8 → ∃ (z : State) (e : PostedOp), exec i s = .next z ∧ Passed0 i s z ∧ z.mem = s.mem
           ∧ z.flight = s.flight ++ [.relaxedStorePerform e] ∧ e.ctx = s.cur.ctx ∧ e.acc.lane = l ∧ e.acc.pa = pa
           ∧ e.bytes = spaceBytes s (.scratch x.core) off n)
         ∧ (8 ≤ relaxedCount s s.cur.ctx l → ∃ (z : State), ∃ r, exec i s = .next z ∧ z.cur = s.cur ∧ z.flight = s.flight
           ∧ (laneOf z s l).wait = .fput r)))
    ∧ (coreKind x.core = .eave → ∀ i, i = .tsend o ∨ i = .tget o → d i % 32 = 0 → v i % 0x100000000 % 32 = 0 →
        v i / 0x100000000 % 32 = 0 → 32 ≤ v i / 0x100000000 → v i / 0x100000000 ≤ 65536 →
        (trussNode s (pkgOf x.core) (u i % 0x100000000)).isSome = true → Enqueues i s (.copyE x.core))

/-- R460, R461, R463: a copy entry that ends copies its sectors and counts, or sends its message; an entry for a Truss that did
not accept it sets FAULT and copies nothing. -/
def Obligations.CopyEntriesComplete : Prop :=
  ∀ (s : State) (q : QueueId) (e : QEnt), s.ev = some (.copyEntryComplete q) → runningEntry s q = some e → e.killed = false →
    let counts (t : State) (f : Nat) := queueOf t q = (queueOf s q).filter (fun k => k.id != e.id)
      ∧ ccReg t e.core (ccOf e.instr) = setFld (ccReg s e.core (ccOf e.instr) ||| BitVec.ofNat 64 (f * 0x200000000)) 0 32
          (fld (ccReg s e.core (ccOf e.instr)) 0 32 + 1)
    (∀ o, e.instr = .cpy o → e.s2.toNat % 0x100000000 = 32 → e.instr.opnds.imm.getLsbD 7 = false →
      (∀ bs pa, readSector s e e.s1.toNat = some (bs, false) → sectorPa s e (e.x.toNat % 0x10000000000000000) = some pa →
        targetOf pa ≠ .window → ∃ t : State, exec .copyEntryComplete s = .next t ∧ counts t 0 ∧ memBytes t pa 32 = bs
          ∧ ∀ b, (b < pa ∨ pa + 32 ≤ b) → memByte t b = memByte s b)
      ∧ (readSector s e e.s1.toNat = none → ∃ t : State, exec .copyEntryComplete s = .next t ∧ counts t 32 ∧ t.mem = s.mem))
    ∧ (∀ o, e.instr = .cpy o ∨ e.instr = .cpyr o ∨ e.instr = .fget o → e.instr.opnds.imm.getLsbD 7 = true →
      (∀ k, q ≠ .matrix k ∧ q ≠ .gather k ∧ q ≠ .slice k) →
      ∃ t : State, ∃ m : Msg, exec .copyEntryComplete s = .next t ∧ m.dst = e.core ∧ m.src = e.core ∧ m.task = e.task ∧ m.rel = true
        ∧ m.cls = (e.instr.opnds.imm.extractLsb' 8 3).toNat ∧ Ev.messageArrival m ∈ t.flight
        ∧ queueOf t q = (queueOf s q).filter (fun k => k.id != e.id))
    ∧ (∀ o, e.instr = .tsend o ∨ e.instr = .tget o → e.sent = false →
      ∃ t : State, exec .copyEntryComplete s = .next t ∧ counts t 32 ∧ t.mem = s.mem ∧ t.flight = s.flight)

/-! ## The die mesh, work lists, leases and migration -/

/-- R351 to R354, R358, R388: MCAST sends one delivery to every participant; RRED gives its contribution to its reduction
or waits for a buffer; WPUSH and WPOP move entries of the work list of their core; LEASE sets and reads a lease. -/
def Obligations.CollectivesWorkListsAndLeases : Prop :=
  ∀ (o : Opnds) (s : State), Issues s → Unlogged s → muted s = false →
    let x := curCtx s
    let v (i : Instr) := valsOf i (curLane s (execHead s))
    let k := x.core
    let bytes := spanBytes o
    let span (i : Instr) := isStrand x = true ∧ queueGate o s = .go ∧ (v i).s1.toNat % 16 = 0 ∧ (v i).s2.toNat % 16 = 0
      ∧ (v i).s1.toNat + bytes ≤ issueLimit s
    let read (i : Instr) := spaceBytes s (.scratch k) (v i).s1.toNat bytes
    (let i := Instr.mcast o
     let d := (v i).x
     (span i → spanOk d = true → ∃ t : State, exec i s = .next t ∧ Passes i s t (fun _ a => consume o a) ∧ t.mem = s.mem
       ∧ t.flight = s.flight ++ (participants (dieOf k) d).map fun c => .routerDelivery
          { core := c, slot := spanSlot d, off := (v i).s2.toNat, bytes := read i, task := x.task, cc := ccOf i, src := k,
            id := s.free, flags := 0 })
     ∧ (span i → spanOk d = false → exec i s = trapExec i s 19 7))
    ∧ (∀ i all, (i = .rredLast o ∧ all = false) ∨ (i = .rredAll o ∧ all = true) → span i →
      let d := (v i).x
      (spanOk d = false → exec i s = trapExec i s 19 7)
      ∧ (spanOk d = true → spanIndex s d = none → exec i s = trapExec i s 19 8)
      ∧ ∀ j, spanOk d = true → spanIndex s d = some j →
        let room := routerRoom s (dieOf k) (trussOf k) (redFor s (dieOf k) d (spanTag o) x.task j)
        (room = false → Waits i s)
        ∧ (room = true → ∃ t : State, exec i s = .next t ∧ Passes i s t (fun _ a => consume o a) ∧ t.mem = s.mem
          ∧ ∃ r ∈ (getDie t (dieOf k)).reds, r.desc = d ∧ r.tag = spanTag o ∧ r.task = x.task
            ∧ ({ j, bytes := read i, spec := { all, off := (v i).s2.toNat, cc := ccOf i, src := k } } : RedPart) ∈ r.parts))
    ∧ (let i := Instr.wpush o
      let e := (v i).s2
      let gives (r : Nat) (t : State) := exec i s = .next t ∧ Passes i s t fun _ a => putX i (BitVec.ofNat 64 r) a
      (isStrand x = false → exec i s = trapExec i s 21 10)
      ∧ (isStrand x = true → wlEn (wlCtl s k) = false → ∃ t : State, gives 3 t ∧ t.cores = s.cores)
      ∧ (isStrand x = true → wlEn (wlCtl s k) = true → e.extractLsb' 32 32 = 0xFFFFFFFF →
        ∃ t : State, gives 2 t ∧ t.mem = s.mem ∧ (wlBatch (wlCtl s k) = 0 → t.cores = s.cores))
      ∧ (isStrand x = true → wlEn (wlCtl s k) = true → e.extractLsb' 32 32 ≠ 0xFFFFFFFF →
        (wlCountOf s k = wlSize s k → ∃ t : State, gives 1 t ∧ t.mem = s.mem ∧ (wlBatch (wlCtl s k) = 0 → t.cores = s.cores))
        ∧ (wlCountOf s k < wlSize s k → accessesOut s s.cur.ctx (execLanes s) .bay = false →
          ∃ t : State, gives 0 t ∧ t.mem = s.mem ∧ (wlLog (wlCtl s k) ≤ 11 → wlBatch (wlCtl s k) = 0 →
            wlCountOf t k = wlCountOf s k + 1 ∧ wlHeadOf t k = wlHeadOf s k ∧ wlEntry t k (wlCountOf s k) = e.toNat
            ∧ ∀ n, n < wlCountOf s k → wlEntry t k n = wlEntry s k n))))
    ∧ (∀ i head, (i = .wpopTail o ∧ head = false) ∨ (i = .wpopHead o ∧ head = true) → isStrand x = true →
      let gives (r : Nat) (t : State) := exec i s = .next t ∧ Passes i s t fun _ a => setLanePair o.x.toNat (BitVec.ofNat 64 r) a
      ((wlEn (wlCtl s k) = false ∨ wlCountOf s k = 0) → ∃ t : State, gives (0x10000000000000000 - 1) t ∧ t.mem = s.mem
        ∧ ((wlEn (wlCtl s k) = false ∨ wlBatch (wlCtl s k) = 0) → t.cores = s.cores))
      ∧ (wlEn (wlCtl s k) = true → wlCountOf s k ≠ 0 →
        ∃ t : State, gives (wlEntry s k (if head then 0 else wlCountOf s k - 1)) t ∧ t.mem = s.mem
          ∧ (wlLog (wlCtl s k) ≤ 11 → wlBatch (wlCtl s k) = 0 → wlCountOf t k = wlCountOf s k - 1
          ∧ wlHeadOf t k = if head then (wlHeadOf s k + 1) % wlSize s k else wlHeadOf s k)))
    ∧ ∀ i read, (i = .lease o ∧ read = false) ∨ (i = .leaseRd o ∧ read = true) →
      (isStrand x = true → queueGate o s = .go → Gives i s fun _ => 0)
      ∧ (isStrand x = false → ∃ t : State, exec i s = .next t ∧ t.cur = { s.cur with done := true } ∧ t.mem = s.mem
        ∧ (getCtx t s.cur.ctx).lanes = lanesAfter i s (fun _ a => putX i ((leasev x).setWidth 64) a)
        ∧ (getCtx t s.cur.ctx).lease = if read then x.lease else
            let n := (v i).s2.toNat % 0x100000000
            if n = 0 then { x.lease with decl := false, lines := x.lease.est }
            else { x.lease with decl := true, lines := 8 * Nat.min n 65535 })

/-- R353 to R355: a delivery to a slot that a context of its task holds is written there and counts once its group has
arrived; one that nobody can take is discarded and sets FAULT; one of a dead task leaves no trace; the two contributions
of a reduction are added element by element and the sum is delivered. -/
def Obligations.DeliveriesAndReductions : Prop :=
  ∀ (s : State),
    (∀ d, s.ev = some (.routerDelivery d) →
      let n := d.bytes.length
      let truss := trussOf d.core * 64
      let lone := ∀ e ∈ s.flight, sameGroup d e = false
      (tagDead s d.core d.task = true → exec .routerDelivery s = .next s)
      ∧ (∀ c, tagDead s d.core d.task = false → d.off + n ≤ slotScratch s d.core → boundAt s d.core d.slot = some c →
        (getCtx s c).task = d.task → ∃ t : State, exec .routerDelivery s = .next t ∧ t.mem = s.mem
          ∧ spaceBytes t (.scratch d.core) d.off n = d.bytes
          ∧ (∀ a, (a < d.off ∨ d.off + n ≤ a) → spaceByte t (.scratch d.core) a = spaceByte s (.scratch d.core) a)
          ∧ (lone → fld (ccReg t truss d.cc) 0 32 = (fld (ccReg s truss d.cc) 0 32 + 1) % 0x100000000))
      ∧ (tagDead s d.core d.task = false →
        (slotScratch s d.core < d.off + n ∨ (∃ c, boundAt s d.core d.slot = some c ∧ (getCtx s c).task ≠ d.task)
          ∨ boundAt s d.core d.slot = none ∧ leftAt s d.core d.slot d.task = none) → lone →
        ∃ t : State, exec .routerDelivery s = .next t ∧ t.mem = s.mem ∧ (ccReg t truss d.cc).getLsbD 38 = true
          ∧ fld (ccReg t truss d.cc) 0 32 = (fld (ccReg s truss d.cc) 0 32 + 1) % 0x100000000
          ∧ ∀ a, spaceByte t (.scratch d.core) a = spaceByte s (.scratch d.core) a))
    ∧ ∀ die id, s.ev = some (.reductionStep die id) →
      let found := (getDie s die).reds.find? fun r => r.id == id && redReady die r
      (found = none → exec .reductionStep s = .next s)
      ∧ ∀ r p0 p1 n, found = some r → (participants die r.desc).length = 2 → r.head = none → r.step = 0 → r.bad = false →
        r.flags = 0 → partOf r 0 = some p0 → partOf r 1 = some p1 → p0.bytes.length = 4 * n → p1.bytes.length = 4 * n →
        p1.spec.all = p0.spec.all → p1.spec.off = p0.spec.off → p1.spec.cc = p0.spec.cc →
        let cs := participants die r.desc
        ∃ t : State, ∃ bytes flags, exec .reductionStep s = .next t ∧ bytes.length = 4 * n ∧ t.mem = s.mem
          ∧ (∀ j, j < n → at_ bytes (4 * j) 4
              = (fAdd fp32 { mode := .rne } (fDecode fp32 (at_ p0.bytes (4 * j) 4)) (fDecode fp32 (at_ p1.bytes (4 * j) 4))).bits)
          ∧ t.flight = s.flight ++ (if p0.spec.all then cs else cs.drop 1).map (fun c => .routerDelivery
              { core := c, slot := spanSlot r.desc, off := p0.spec.off, bytes, task := r.task, cc := p0.spec.cc,
                src := p0.spec.src, id := s.free, flags })
          ∧ ∀ e ∈ (getDie t die).reds, e.id ≠ id

/-- R400, R404, R406: MIGR gives 14 to a strand, to the handler of a course and 1 to a course that has the class already or that
the unit has just moved to this point; a course of the other class that is not split waits for its migration; no record of the
point is a migration fault. That the strand and the handler (14) come before the equal class (1) is the model's choice (log
56), and so is that the lanes that execute MIGR get the value (log 76). -/
def Obligations.MigrationInstructions : Prop :=
  ∀ (o : Opnds) (s : State) (i : Instr) (toL : Bool), Issues s →
    (i = .migrL o ∧ toL = true) ∨ (i = .migrD o ∧ toL = false) ∨ (i = .migrAny o ∧ toL = !isL (curCtx s)) →
    let x := curCtx s
    let inH := s.cur.lanes.any fun l => (getLane x l).inHandler
    let here := x.migHere = some (curPc s)
    let gives (r : Nat) (t : State) := exec i s = .next t ∧ t.mem = s.mem ∧ t.cur.done = true ∧ t.cur.ctx = s.cur.ctx
      ∧ (getCtx t s.cur.ctx).lanes = lanesAfter i s fun _ a => putX i (BitVec.ofNat 64 r) a
    (recordAt s x (curPc s) = none → exec i s = trapExec i s 23 2)
    ∧ (recordAt s x (curPc s) = some none → exec i s = trapExec i s 23 1)
    ∧ ∀ p, recordAt s x (curPc s) = some (some p) →
      (isStrand x = true → ∃ t : State, gives 14 t)
      ∧ (isStrand x = false → inH = false → isL x ≠ toL → ¬ here → x.split = true → ∃ t : State, gives 6 t)
      ∧ (isStrand x = false → inH = false → isL x ≠ toL → ¬ here → x.split = false → ∃ t : State, exec i s = .next t ∧ t.mem = s.mem
        ∧ t.cur = s.cur ∧ ∀ l ∈ s.cur.lanes, l < x.lanes.length →
          (laneOf t s l).wait = .migr (if toL then 0 else 1) o.x.toNat (nextPc i s) ∧ (laneOf t s l).pc = (getLane x l).pc)
      ∧ (∀ r, isStrand x = false → traceOn s x.core = false → (inH = true ∧ r = 14 ∨ inH = false ∧ (isL x = toL ∨ here) ∧ r = 1) →
        ∃ t : State, gives r t)

/-- R400, R401, R404, R405: a migration that the unit declines gives twice the reason and goes on; with DHA the host is
asked and the course has no slot; MIGREQ names the course and its target; a declined answer gives 10. -/
def Obligations.MigrationsAreDecided : Prop :=
  ∀ (s : State),
    (∀ c, s.ev = some (.migration c) →
      let x := getCtx s c
      (migrOf x = none → exec .migration s = .next s)
      ∧ ∀ k xr next, migrOf x = some (k, xr, next) →
        (k < 2 → x.kind = .gable → x.lanes.any (·.inHandler) = true → ∃ t : State, exec .migration s = .next t
          ∧ ∀ l ∈ actLanes x, l < x.lanes.length →
            (getLane (getCtx t c) l).pc = next ∧ (getLane (getCtx t c) l).wait = .none
              ∧ ((getLane x l).annul = 0 → laneReg (getLane (getCtx t c) l) xr = 14))
        ∧ ∀ p, (migctl s x).getLsbD 30 = true → decide_ (offSlot s c) c (k % 2 == 0) = .ok p → ∃ t : State, exec .migration s = .next t
          ∧ (x.kind = .course → (getCtx t c).slot = none)
          ∧ ∃ q ∈ (getBay t (bayOf x.core)).pend, q.ctx = c ∧ q.host = true ∧ q.target = k % 2)
    ∧ (∀ bay v, s.ev = some (.migreqGo bay v) →
      (migNamed s bay v = none → exec .migreqGo s = .next s)
      ∧ ∀ c, migNamed s bay v = some c → fld v 0 2 < 3 → ∃ t : State, exec .migreqGo s = .next t
        ∧ (getCtx t c).migReq = some (fld v 0 2) ∧ ∀ d, d ≠ c → getCtx t d = getCtx s d)
    ∧ ∀ bay v c, s.ev = some (.migreqAns bay v) → migNamed s bay v = some c →
      let x := getCtx s c
      (migPending s c = false → exec .migreqAns s = .next s)
      ∧ ∀ k xr next, migPending s c = true → migrOf x = some (k, xr, next) →
        (k < 2 → v.getLsbD 29 = false → ∃ t : State, exec .migreqAns s = .next t
          ∧ ∀ l ∈ actLanes x, l < x.lanes.length →
            (getLane (getCtx t c) l).pc = next ∧ (getLane (getCtx t c) l).wait = .none
              ∧ ((getLane x l).annul = 0 → laneReg (getLane (getCtx t c) l) xr = 10))
        ∧ (2 ≤ k → v.getLsbD 29 = true → NoLaunch s → s.flight = [] → traceOn s x.core = false →
          let toL := k % 2 == 0
          let z := modBay s bay fun b => { b with pend := b.pend.filter fun p => p.ctx != c }
          ∀ p r, decide_ z c toL = .ok p → recordAt z x (getLane x 0).pc = some (some r) →
            liveEntries z (ctxReader x) r toL = some [] → rejoinPairs z (ctxReader x) x.kernel r toL = some [] →
            ∃ t : State, exec .migreqAns s = .next t ∧ (getCtx t c).core = p.core
              ∧ (getCtx t c).kind = (if toL then .gable else .course)
              ∧ ∀ l, l < x.lanes.length → (getLane (getCtx t c) l).pc = (if toL then r.wpc else r.kpc))

/-! ## Launches, graphs and the Truss scheduler -/

/-- R378, R384, R385: LNCH sends the launch message of its 48 bytes, or answers 3 to a node of another kind, and gives the
answer; GSUB asks for the load of a graph and gives its answer; GDONE sends the class-1 message of a node. -/
def Obligations.LaunchAndGraphInstructions : Prop :=
  ∀ (o : Opnds) (s : State) (l : Nat), isStrand (curCtx s) = true → s.cur.lanes = [l] → l < (curCtx s).lanes.length →
    (curLane s l).annul = 0 → coreKind (curCtx s).core = .dcore → Unlogged s →
    let x := curCtx s
    let a := curLane s l
    let core := curCore s l
    let fresh := a.wait = .none
    (∀ v left, a.wait = .answer 0 [(l, v)] left →
      (∀ i, i = .lnch o ∨ i = .lnchHw o →
        ∃ t : State, exec i s = .next t ∧ t.mem = s.mem ∧ Passes i s t fun _ b => putX i (BitVec.ofNat 64 v) b)
      ∧ ∃ t : State, exec (.gsub o) s = .next t ∧ t.mem = s.mem
        ∧ Passes (.gsub o) s t fun _ b => setLanePair o.x.toNat (BitVec.ofNat 64 v) b)
    ∧ (fresh → ∀ i flow, (i = .lnch o ∧ flow = 1) ∨ (i = .lnchHw o ∧ flow = 2 ∧ curPriv s = true) →
      let n := (a32 i a).toNat
      let off := b32 i a
      (off.toNat % 16 ≠ 0 → validNode n = true →
        exec i s = trap i s { vector := 8, reason := 0, addr := off.setWidth 64, mask := maskOf [l] })
      ∧ (off.toNat % 16 = 0 → off.toNat + 48 ≤ locLimit s x l → validNode n = true →
          spaceBad s (locSpace x l) off.toNat 48 = false → accessesOut s s.cur.ctx [l] (relScope s [n]) = false →
        (nodeKindOf n ≠ 0 → nodeKindOf n ≠ 3 → ∃ t : State, exec i s = .next t ∧ t.cur = s.cur ∧ t.flight = s.flight
          ∧ (laneOf t s l).wait = .answer 0 [(l, 3)] [])
        ∧ ((nodeKindOf n = 0 ∨ nodeKindOf n = 3) → sendRoom s core 0 = true → ∃ t : State, ∃ m : Msg, exec i s = .next t ∧ t.cur = s.cur
          ∧ t.flight = s.flight ++ [.messageArrival m] ∧ (laneOf t s l).wait = .answer 1 [] []
          ∧ m.dst = keyNamed s (pkgOf core) n ∧ m.cls = 0 ∧ m.flow = flow ∧ m.task = x.task ∧ m.src = core ∧ m.rel = true
          ∧ m.who = .lane s.cur.ctx l ∧ m.txr = stTxr a.status
          ∧ m.payload = spaceBytes s (locSpace x l) off.toNat 48)))
    ∧ (fresh → curPriv s = false → exec (.lnchHw o) s = privTrap (.lnchHw o) s)
    ∧ (fresh → accessesOut s s.cur.ctx [l] .pkg = false → ∃ t : State, exec (.gsub o) s = .next t ∧ t.cur = s.cur
      ∧ (laneOf t s l).wait = .answer 1 [] [] ∧ t.flight = s.flight
        ++ [.graphLoad (dieOf x.core) s.cur.ctx l (valsOf (.gsub o) a).s2 (o.imm.extractLsb' 0 2).toNat])
    ∧ ∀ i fail, (i = .gdone o ∧ fail = 0) ∨ (i = .gdoneFail o ∧ fail = 1) → fresh → queueGate o s = .go →
      let n := (a32 i a).toNat
      (validNode n = false → exec i s = trap i s { vector := 19, reason := 6, info := 1, mask := maskOf [l] })
      ∧ (validNode n = true → accessesOut s s.cur.ctx [l] (relScope s [n]) = false →
        (sendRoom s core 1 = true → ∃ t : State, ∃ m : Msg, exec i s = .next t ∧ Passes i s t (fun _ b => consume o b) ∧ t.mem = s.mem
          ∧ t.flight = s.flight ++ [.messageArrival m] ∧ m.dst = keyNamed s (pkgOf core) n ∧ m.cls = 1 ∧ m.flow = 0 ∧ m.task = x.task
          ∧ m.src = core ∧ m.rel = true ∧ m.payload.length = 48 ∧ at_ m.payload 0 4 = (b32 i a).toNat
          ∧ at_ m.payload 8 4 = fail)
        ∧ (sendRoom s core 1 = false → ∃ t : State, ∃ m : Msg, exec i s = .next t ∧ t.cur = s.cur ∧ t.flight = s.flight
          ∧ (laneOf t s l).wait = .msend [m]))

/-- R363, R364, R375, R381 to R384, R386: a launch message is refused with a status and its completion message, or joins the
queue and is answered 0; a bundle becomes resident whole; an answer reaches its lane; a graph whose header is not aligned
is answered with status 1; a class-1 message completes its node or counts as stray, and one for a node of a failed graph
counts too. The model's choices: the lowest free graph slot is taken (log 107); a refused launch of the Purlin has its
completion message with status 4, which changes no node (log 36); the order of the checks of GSUB (log 38); and what a message
for a node of a failed graph does beside its count (log 146). -/
def Obligations.LaunchesAndGraphsProceed : Prop :=
  ∀ (s : State),
    (∀ m, s.ev = some (.launchAdmission m) →
      let die := dieOf m.dst
      let p := m.payload
      let open_ := ((getDie s die).launches.filter fun e => e.next < e.nbund).length
      let refuses (v : Nat) := ∃ t : State, exec .launchAdmission s = .next t ∧ t.mem = s.mem
        ∧ (getDie t die).launches = (getDie s die).launches
        ∧ (∀ c l, m.who = .lane c l → Ev.launchAnswer (.lane c l) v m.dst ∈ t.flight)
        ∧ (∀ d n, m.who = .purlin d n → Ev.launchAnswer (.purlin d n) v m.dst ∈ t.flight)
        ∧ (at_ p 32 4 ≠ 0xFFFFFFFF → ∃ e, Ev.messageArrival e ∈ t.flight
          ∧ e.dst = keyNamed s (pkgOf m.dst) (at_ p 32 4) ∧ e.cls = at_ p 36 1 % 8 ∧ e.flow = at_ p 38 2 ∧ at_ e.payload 0 4 = at_ p 40 4
          ∧ at_ e.payload 8 4 = v)
      (payloadOk p = false → refuses 3)
      ∧ ∀ q, readLaunch s m = some q →
        (neverFits s q die = true → refuses 2)
        ∧ (neverFits s q die = false → 256 ≤ open_ → refuses 4)
        ∧ (neverFits s q die = false → open_ < 256 → ∃ t : State, exec .launchAdmission s = .next t
          ∧ (∃ e ∈ (getDie t die).launches, e.msg = m)
          ∧ ∀ c l, m.who = .lane c l → Ev.launchAnswer (.lane c l) 0 m.dst ∈ t.flight))
    ∧ (∀ die launch bundle, s.ev = some (.bundleResident die launch bundle) →
      ∃ t : State, exec .bundleResident s = .next t ∧ t.mem = s.mem ∧ ∀ c ∈ pendingOf s die launch bundle,
        (getCtx t c).pending = false ∧ (getCtx t c).kind = (getCtx s c).kind
          ∧ ((getCtx s c).kind = .course → (getCtx t c).slot = none
              ∧ Ev.courseActivation (trussOf (getCtx s c).core) ∈ t.due)
          ∧ ((getCtx s c).kind = .gable → (getCtx t c).slot = some (getCtx s c).wsptr.toNat))
    ∧ (∀ v src, s.ev = some (.launchAnswer .nobody v src) → exec .launchAnswer s = .next s)
    ∧ (∀ c l v src, s.ev = some (.launchAnswer (.lane c l) v src) →
      let x := getCtx s c
      (x.alive = false → exec .launchAnswer s = .next s)
      ∧ ∀ n st left, x.alive = true → reachable x = true → isStrand x = true → l < x.lanes.length →
        (getLane x l).wait = .answer (n + 1) st left → ∃ t : State, exec .launchAnswer s = .next t
          ∧ (getLane (getCtx t c) l).wait = .answer n ((l, v) :: st) left ∧ ∀ d, d ≠ c → getCtx t d = getCtx s d)
    ∧ (∀ die c l h prio, s.ev = some (.graphLoad die c l h prio) →
      let r : Reader := { core := laneCore (getCtx s c) l, ttb := (getLane (getCtx s c) l).ttb,
                          priv := stPriv (getLane (getCtx s c) l).status, task := (getCtx s c).task, cached := false }
      (h.toNat % 64 ≠ 0 → exec .graphLoad s = .next { s with flight := s.flight ++ [.launchAnswer (.lane c l) 0x100000000 (purlinKey die)] })
      ∧ (∀ e, readGraph s r h = .error e →
        exec .graphLoad s = .next { s with flight := s.flight ++ [.launchAnswer (.lane c l) (e * 0x100000000) (purlinKey die)] })
      ∧ ∀ hd ns k, readGraph s r h = .ok (hd, ns) →
        ((List.range 64).find? fun k => !(tget {} (getDie s die).graphs k).used) = some k →
        (getDie s die).graphs.foldl (fun n g => n + g.2.nodes.length) ns.length ≤ 32768 →
        ∃ t : State, exec .graphLoad s = .next t
          ∧ Ev.launchAnswer (.lane c l) (nodeCookie (tget {} (getDie s die).graphs k).gen k 0)
              (purlinKey die) ∈ t.flight)
    ∧ ∀ m, s.ev = some (.purlinNodeComplete m) →
      let die := dieOf m.dst
      let ck := at_ m.payload 0 4
      let slot := ck / 0x10000 % 256
      let g := tget {} (getDie s die).graphs slot
      let n := ck % 0x10000
      let stray := ∃ t : State, exec .purlinNodeComplete s = .next t ∧ dieReg t die 0x1D3 = countSat (dieReg s die 0x1D3)
        ∧ (getDie t die).graphs = (getDie s die).graphs
      ((g.used = false ∨ g.gen ≠ ck / 0x1000000 ∨ g.nodes.length ≤ n) → stray)
      ∧ ∀ e, g.used = true → g.gen = ck / 0x1000000 → g.nodes[n]? = some e →
        let launch := nodeKind e.bytes = 0 ∧ e.host = false
        let status := at_ m.payload 8 4
        (e.state ≠ 2 ∨ (launch ∧ status = 4) → stray)
        ∧ ∀ k f, rising (getDie s die).graphs = true → e.state = 2 → ¬ (launch ∧ status = 4) → k ≠ n →
          g.nodes[k]? = some f → f.state = 2 →
          ∃ t : State, ∃ q, exec .purlinNodeComplete s = .next t ∧ (tget {} (getDie t die).graphs slot).nodes[n]? = some q ∧ q.state = 3
            ∧ (status ≠ 0 → (tget {} (getDie t die).graphs slot).failed.isSome = true)
            ∧ (g.failed.isSome = true → ¬ launch → dieReg t die 0x1D3 = countSat (dieReg s die 0x1D3))

/-- R394, R395: an opportunity activates a ready course where a slot is free and its lease fits, refuses it where the lease
does not fit, and activates a due course whatever its lease; a course is due by its age; a displaced course, split or not, leaves its
slot once its queues are empty. -/
def Obligations.CoursesAreScheduled : Prop :=
  ∀ (s : State),
    (∀ t, s.ev = some (.courseActivation t) →
      let fits (c : Nat) := trussSum s t + unitLines s c ≤ admitLimit s t
      let active (c k : Nat) := ∃ z : State, exec .courseActivation s = .next z ∧ (getCtx z c).slot = some k
        ∧ (getCtx z c).skip = 0 ∧ (getCtx z c).lease.filter = [] ∧ ∀ d, d ≠ c → (getCtx z d).slot = (getCtx s d).slot
      (unitsOf s t = [] → exec .courseActivation s = .next s)
      ∧ ∀ c, unitsOf s t = [c] → (getCtx s c).mate = none → (getCtx s c).slot = none → trussOf (getCtx s c).core = t →
        (∀ k, unitReady s c = true → freeSlotFor s c = some k → unitDue s c = false → fits c → active c k)
        ∧ (∀ k, unitReady s c = true → freeSlotFor s c = some k → unitDue s c = false → ¬ fits c →
          ∃ z : State, exec .courseActivation s = .next z
            ∧ (getCtx z c).lease.refusals = (getCtx s c).lease.refusals + 1 ∧ (getCtx z c).slot = none)
        ∧ (unitReady s c = true → freeSlotFor s c = none → unitDue s c = false → exec .courseActivation s = .next s)
        ∧ ∀ k, freeSlotFor s c = some k → unitDue s c = true → active c k)
    ∧ (∀ c, s.ev = some (.fairnessDue c) → ∃ t : State, exec .fairnessDue s = .next t ∧ t.mem = s.mem
      ∧ (getCtx t c).due = true ∧ (getCtx t c).lanes = (getCtx s c).lanes
      ∧ t.due = s.due ++ [.courseActivation (trussOf (getCtx s c).core)] ∧ ∀ d, d ≠ c → getCtx t d = getCtx s d)
    ∧ ∀ c, s.ev = some (.fairnessDisplacement c) →
      let x := getCtx s c
      x.kind = .course → (x.displace = 1 ∨ x.displace = 2) →
        (queuesBusy x = true → ∃ t : State, exec .fairnessDisplacement s = .next t ∧ (getCtx t c).leaving = x.displace
          ∧ (getCtx t c).slot = x.slot)
        ∧ (queuesBusy x = false → ∃ t : State, exec .fairnessDisplacement s = .next t ∧ (getCtx t c).slot = none
          ∧ (getCtx t c).lanes = x.lanes)

/-! ## Traps -/

/-- R236 to R240, R257: the entry of an exact trap saves pc and STATUS, sets PRIV, writes the fault record and goes to
TVEC + 64 × vector; a course whose executing lanes are all named enters whole; in a handler it is a double fault: the task
is killed unless its tag is 0, and a keeper stops. The model's choices: the TMASK of a course that enters whole holds the
lanes that the trap names (log 25), a course takes the TVEC of its lowest core (log 139), and a double fault of tag 0 leaves
the machine as it is, so that the instruction issues again (log 57). -/
def Obligations.TrapsEnterTheirHandlers : Prop :=
  ∀ (i : Instr) (s : State) (f : TrapInfo), f.vector < 32 → f.reason < 256 → s.cur.lanes ≠ [] →
    let x := curCtx s
    let c := s.cur.ctx
    let n := curPc s
    let epc := if softVector f.vector then nextPc i s else n
    let enters (t : State) (l : Nat) (core : Nat) (mask : Word) :=
      let a := getLane x l
      let b := laneOf t s l
      b.pc = canonPc (tvecOf s core + BitVec.ofNat 64 (64 * f.vector)) ∧ b.epc = epc ∧ b.tpc = n ∧ b.inHandler = true
        ∧ fld b.tcause 0 8 = f.vector ∧ fld b.tcause 8 8 = f.reason ∧ b.tcause.extractLsb' 32 32 = f.info
        ∧ b.tcause.getLsbD 17 = f.async ∧ b.tcause.getLsbD 16 = (ctxForm x == .w) ∧ b.tcause.getLsbD 18 = a.noeq
        ∧ b.taddr = f.addr ∧ b.tmask = mask ∧ b.txpc = (if a.noeq then 0 else a.pointOther)
        ∧ b.regs = a.regs ∧ b.b = a.b ∧ b.queues = a.queues
        ∧ (a.live = true → a.actv = true → b.estatus = a.status ∧ b.status = a.status ||| 0x200)
    (∀ l, isStrand x = true → s.cur.lanes = [l] → l < x.lanes.length → l < 32 → inMask f.mask l = true →
      (curLane s l).inHandler = false → parks s x.core (curLane s l).status f = false →
      ∃ t : State, trap i s f = .next t ∧ t = { s with ctxs := t.ctxs } ∧ enters t l x.core (1 <<< l)
        ∧ ∀ d, d ≠ c → getCtx t d = getCtx s d)
    ∧ (isStrand x = false → x.split = false → (∀ l ∈ s.cur.lanes, (curLane s l).inHandler = false) → execLanes s ≠ [] →
      (∀ l ∈ execLanes s, inMask f.mask l = true) → (∀ l ∈ s.cur.lanes, parks s (curCore s l) (curLane s l).status f = false) →
      ∃ t : State, trap i s f = .next t ∧ t = { s with ctxs := t.ctxs } ∧ (getCtx t c).split = false
        ∧ (∀ l, l < x.lanes.length → enters t l x.core f.mask) ∧ ∀ d, d ≠ c → getCtx t d = getCtx s d)
    ∧ ((∀ l ∈ s.cur.lanes, (curLane s l).inHandler = true) →
      (isKeeper x = false → x.task = 0 → trap i s f = .next s)
      ∧ (isKeeper x = false → x.task ≠ 0 → ∃ t : State, ∃ (r : KillReq) (m : Notice), trap i s f = .next t ∧ t.ctxs = s.ctxs ∧ t.mem = s.mem
        ∧ t.due = s.due ++ [.killRequestArrival r] ∧ r.tag = x.task ∧ r.clear = false ∧ r.note = some m
        ∧ m.vector = 29 ∧ m.second = f.vector ∧ m.dst = x.parentNode ∧ m.tpc = n)
      ∧ (isKeeper x = true → ∃ t : State, trap i s f = .next t ∧ t.ctxs = s.ctxs ∧ t.mem = s.mem
        ∧ (getCore t x.core).dead = true ∧ ∃ e, e ∈ (getPkg t (pkgOf x.core)).ras ∧ e.1 = nodeId s x.core))

/-- R242, R243, R273, R275: TRAP, SYSC and BRK raise vectors 24, 25 and 26 with their immediate as INFO; BRK stops its
context where breakpoint stops are on; ERET goes back to EPC with ESTATUS; TMARK changes no state but the trace. -/
def Obligations.SystemInstructions : Prop :=
  ∀ (o : Opnds) (s : State) (l : Nat), isStrand (curCtx s) = true → s.cur.lanes = [l] → l < (curCtx s).lanes.length → l < 32 →
    (curLane s l).annul = 0 →
    let x := curCtx s
    let a := curLane s l
    let c := s.cur.ctx
    let imm : Word := (o.imm.extractLsb' 0 12).setWidth 32
    (∀ i v, (i = .trap o ∧ v = 24) ∨ (i = .sysc o ∧ v = 25) ∨ (i = .brk o ∧ v = 26 ∧ brkStops s = false) → a.inHandler = false →
      ∃ t : State, exec i s = .next t ∧ t = { s with ctxs := t.ctxs } ∧ (∀ d, d ≠ c → getCtx t d = getCtx s d)
        ∧ (let b := laneOf t s l
           b.pc = canonPc (tvecOf s x.core + BitVec.ofNat 64 (64 * v)) ∧ b.epc = nextPc i s ∧ b.tpc = curPc s ∧ b.inHandler = true
             ∧ fld b.tcause 0 8 = v ∧ fld b.tcause 8 8 = 0 ∧ b.tcause.extractLsb' 32 32 = imm ∧ b.taddr = 0
             ∧ b.tmask = 1 <<< l ∧ b.estatus = a.status ∧ b.status = a.status ||| 0x200 ∧ b.regs = a.regs
             ∧ b.queues = a.queues ∧ b.wait = .none))
    ∧ (brkStops s = true → ∃ t : State, exec (.brk o) s = .next t ∧ (laneOf t s l).stopped = true ∧ (laneOf t s l).pc = a.pc
        ∧ (laneOf t s l).regs = a.regs ∧ (laneOf t s l).inHandler = false
        ∧ (lanesBusy x [l] = false → (coreReg t x.core 0x141).getLsbD 3 = true))
    ∧ (curPriv s = true → a.inHandler = true → breaksR10 (ctxForm x) a.epc = false → a.live = true → a.actv = true →
      ∃ (t : State) (w : DWord), w.extractLsb' 0 8 = a.estatus.extractLsb' 0 8 ∧ w.getLsbD 8 = a.status.getLsbD 8
        ∧ w.getLsbD 9 = a.estatus.getLsbD 9 ∧ w.extractLsb' 10 22 = 0 ∧ w.extractLsb' 32 32 = a.estatus.extractLsb' 32 32
        ∧ exec (.eret o) s = .next t ∧ Becomes s t { x with lanes := setAt x.lanes l fun b =>
        { b with pc := a.epc, status := w, inHandler := false, annul := a.annulSaved, annulSaved := 0,
                 wait := .none } })
    ∧ ((curPriv s = false ∨ a.inHandler = false) → exec (.eret o) s = privTrap (.eret o) s)
    ∧ (∃ t : State, exec (.tmark o) s = .next t ∧ Passed0 (.tmark o) s t)
    ∧ (traceOn s x.core = false → Completes (.tmark o) s fun _ b => b)

/-! ## Accesses on their way -/

/-- R144 to R153, R161, R165, R193, R225, R244 to R247, R284, R430, R482: what each access on its way does when it is performed,
what returns it, and what a refusal leaves; a walk that ends on a page fills the TLB of its unit. A relaxed load of an L-core
writes the registers that no later instruction has written; on another core its lanes are answered and issue again. The 8-byte
words of an FPUT block are performed together or apart. The model's choices: an access is performed whole in its step (log 18),
the homes' checks of a relaxed access are made at issue on an L-core (log 59) and here elsewhere, where its lane waits (log
92), and a queue load of a re-executed context takes its data from the log, with the cause that its home gives now where they
are 0 (log 145). -/
def Obligations.AccessesOnTheirWayPerform : Prop :=
  ∀ (s : State),
    let home (core : Nat) (attr pa : Nat) :=
      cacheAt s core attr pa = .nowhere ∧ targetOf pa ≠ .window ∧ replayOn s core = false
    (∀ a k, s.ev = some (.relaxedLoadReturn a) → a.lanes = [k] → home (coresOf s a.ctx k.lane) k.attr k.pa →
      k.lane < (getCtx s a.ctx).lanes.length →
      let x := getCtx s a.ctx
      let b := getLane x k.lane
      let others (t : State) := exec .relaxedLoadReturn s = .next t ∧ ∀ d, d ≠ a.ctx → getCtx t d = getCtx s d
      let back (t : State) (v : Lane → Lane) :=
        let c := getLane (getCtx t a.ctx) k.lane
        let own (r : Nat) : Bool := x.score.any fun e => e.1 == r && e.2.1 == a.ticket && e.2.2.contains k.lane
        others t ∧ (getCtx t a.ctx).score = x.score.filter (fun e => e.2.1 != a.ticket) ∧ { c with regs := b.regs } = b
          ∧ ∀ r, laneReg c r = if own r then laneReg (v b) r else laneReg b r
      let answered (t : State) (refused : List (Nat × Nat × Nat)) (vals : List (Nat × Nat)) :=
        let w := if b.wait = .access then .granted { acc := a, own := false, refused, vals } else b.wait
        others t ∧ getLane (getCtx t a.ctx) k.lane = { b with wait := w }
      (coreKind x.core = .lcore → ∀ v sz, a.vals = some [(k.lane, v)] → a.op = .load sz →
        ∃ t : State, back t (loadInto sz a.x.toNat v) ∧ t.mem = s.mem)
      ∧ (coreKind x.core = .lcore → a.vals = none →
        (∀ sz, a.op = .load sz → ∃ t : State, back t (loadInto sz a.x.toNat (memNat s k.pa (isizeBytes sz))) ∧ t.mem = s.mem)
        ∧ ∀ f w, a.op = .atom f w →
          let old := memNat s k.pa (wBits w / 8)
          ∃ t : State, back t (loadInto (sizeOfW w) a.x.toNat old)
            ∧ Stores s t k.pa (wBits w / 8) (atomNew f w old (k.data.toNat % 2 ^ wBits w)))
      ∧ (coreKind x.core ≠ .lcore →
        (∀ f, homeFail s (coresOf s a.ctx k.lane) a.op k = some f →
          ∃ t : State, answered t [(k.lane, f.vector, f.reason)] [] ∧ t.mem = s.mem)
        ∧ (homeFail s (coresOf s a.ctx k.lane) a.op k = none →
          (∀ sz, a.op = .load sz → ∃ t : State, answered t [] [(k.lane, memNat s k.pa (isizeBytes sz))] ∧ t.mem = s.mem)
          ∧ ∀ f w, a.op = .atom f w →
            let old := memNat s k.pa (wBits w / 8)
            ∃ t : State, answered t [] [(k.lane, old)]
              ∧ Stores s t k.pa (wBits w / 8) (atomNew f w old (k.data.toNat % 2 ^ wBits w)))))
    ∧ (∀ p, s.ev = some (.relaxedStorePerform p) → home (coresOf s p.ctx p.acc.lane) p.acc.attr p.acc.pa →
      (∀ sz, p.bytes = [] → p.op = .store sz → ∃ t : State, exec .relaxedStorePerform s = .next t ∧ t.ctxs = s.ctxs
        ∧ Stores s t p.acc.pa (isizeBytes sz) (p.acc.data.toNat % 2 ^ (8 * isizeBytes sz)))
      ∧ (∀ f w, p.bytes = [] → p.op = .red f w → memBad s p.acc.pa (wBits w / 8) = false →
        ∃ t : State, exec .relaxedStorePerform s = .next t ∧ t.ctxs = s.ctxs ∧ Stores s t p.acc.pa (wBits w / 8)
          (atomNew f w (memNat s p.acc.pa (wBits w / 8)) (p.acc.data.toNat % 2 ^ wBits w)))
      ∧ (∀ f w, p.bytes = [] → p.op = .red f w → memBad s p.acc.pa (wBits w / 8) = true →
        exec .relaxedStorePerform s = .next s)
      ∧ (let ws := wordsLeft p.bytes p.left
         p.bytes ≠ [] → (∀ k ∈ ws, 8 * k + 8 ≤ p.bytes.length) → ∃ t : State, ∃ now, exec .relaxedStorePerform s = .next t
          ∧ t.ctxs = s.ctxs ∧ PutsWords s t p.acc.pa p.bytes ws now ∧ (now = ws → t.flight = s.flight)
          ∧ (now ≠ ws → t.flight = .relaxedStorePerform { p with left := some (ws.filter fun k => !now.contains k) } :: s.flight)))
    ∧ (∀ q, s.ev = some (.queueLoadFill q) → q.lane < (getCtx s q.ctx).lanes.length → (getCtx s q.ctx).leaving = 0 →
      (getCtx s q.ctx).stopping = [] →
      let core := coresOf s q.ctx q.lane
      let n := isizeBytes q.sz
      let far := q.lost = true
        ∨ (farFrom (pkgOf core) q.pa = true ∧ entryReason s (pkgOf core) (getCtx s q.ctx).task q.pa n .read ≠ 0)
      let fills (cause : BitVec 2) (v : Nat) := ∃ t : State, exec .queueLoadFill s = .next t ∧ t.mem = s.mem
        ∧ let w := laneQ (getLane (getCtx t q.ctx) q.lane) q.queue
          let z := laneQ (getLane (getCtx s q.ctx) q.lane) q.queue
          tget {} w.ents q.entry = { data := BitVec.ofNat 32 v, cause, filled := true } ∧ w.cons = z.cons ∧ w.prod = z.prod
            ∧ w.fill + w.inflight = z.fill + z.inflight
      (∀ e, fillReplayed s q = true → logEntry s core = some e → e.kind = 3 → e.pc = q.pc.toNat % 0x100000000 →
        let v := leNat (e.data.take 4)
        fills (if v = 0 then fillCause s q else 0) v)
      ∧ (fillReplayed s q = false → far → fills 3 0)
      ∧ (fillReplayed s q = false → ¬ far → q.bad = true → fills 2 0)
      ∧ (fillReplayed s q = false → ¬ far → q.bad = false → readBad s core q.attr q.pa n = true → fills 1 0)
      ∧ (¬ far → q.bad = false → readBad s core q.attr q.pa n = false → home core q.attr q.pa → fills 0 (extendLoad q.sz (memNat s q.pa n))))
    ∧ (∀ q, s.ev = some (.storeQueuePerform q) → q.lane < (getCtx s q.ctx).lanes.length → (getCtx s q.ctx).leaving = 0 →
      (getCtx s q.ctx).stopping = [] →
      home (coresOf s q.ctx q.lane) q.attr q.pa → ∃ t : State, exec .storeQueuePerform s = .next t
        ∧ Stores s t q.pa (isizeBytes q.sz) (q.data.toNat % 2 ^ (8 * isizeBytes q.sz))
        ∧ (laneQ (getLane (getCtx t q.ctx) q.lane) q.queue).inflight
            = (laneQ (getLane (getCtx s q.ctx) q.lane) q.queue).inflight - 1)
    ∧ (∀ line pkg, s.ev = some (.coherence line pkg) → exec .accessPerformed s = .next s)
    ∧ (∀ a, s.ev = some (.accessPerformed a) → a.acc.entry = none → ∃ t : State, exec .accessPerformed s = .next t ∧ t.mem = s.mem
      ∧ (∀ d, d ≠ a.acc.ctx → getCtx t d = getCtx s d)
      ∧ ∀ l, l < (getCtx s a.acc.ctx).lanes.length →
        let b := getLane (getCtx s a.acc.ctx) l
        let named := a.acc.lanes.any fun k => k.lane == l
        getLane (getCtx t a.acc.ctx) l = { b with wait :=
          if b.wait ≠ .access then b.wait
          else if a.own then (if named then .none else .access)
          else if !(getCtx s a.acc.ctx).split || named then .granted a else .access })
    ∧ (∀ core id e, s.ev = some (.journalEntryPerform core id) →
      (getCore s core).journal.find? (fun e => e.id == id) = some e →
      let r := if e.left.isSome then 0
        else entryReason s (pkgOf core) e.task e.pa (jBytes e) (if e.bytes.isEmpty then opKind e.op else .write)
      (r ≠ 0 → exec .journalEntryPerform s = .next { s with flight := s.flight ++ [.journalRefusal core id r] })
      ∧ (∀ sz, r = 0 → e.bytes = [] → e.op = .store sz → targetOf e.pa ≠ .window → paPkg e.pa ≠ pkgOf core →
        ∃ t : State, exec .journalEntryPerform s = .next t ∧ t.ctxs = s.ctxs ∧ (∀ b ∈ (getCore t core).journal, b.id ≠ id)
          ∧ Stores s t e.pa (isizeBytes sz) (e.data.toNat % 2 ^ (8 * isizeBytes sz)))
      ∧ (let ws := wordsLeft e.bytes e.left
         r = 0 → e.bytes ≠ [] → targetOf e.pa ≠ .window → (∀ k ∈ ws, 8 * k + 8 ≤ e.bytes.length) →
          ∃ t : State, ∃ now, exec .journalEntryPerform s = .next t ∧ t.ctxs = s.ctxs ∧ PutsWords s t e.pa e.bytes ws now
            ∧ (now = ws → t.flight = s.flight ∧ ∀ b ∈ (getCore t core).journal, b.id ≠ id)
            ∧ (now ≠ ws → t.flight = .journalEntryPerform core id :: s.flight ∧ ∀ b ∈ (getCore t core).journal, b.id = id →
                b.left = some (ws.filter fun k => !now.contains k))))
    ∧ (∀ core id reason e, s.ev = some (.journalRefusal core id reason) →
      (getCore s core).journal.find? (fun e => e.id == id) = some e →
      ((getCtx s e.ctx).alive = true → e.lane < (getCtx s e.ctx).lanes.length → ∃ t : State, exec .journalRefusal s = .next t
        ∧ t.mem = s.mem ∧ (getLane (getCtx t e.ctx) e.lane).refpend = (getLane (getCtx s e.ctx) e.lane).refpend
          ++ [{ idx := e.idx, reason, va := e.va, logSize := (jBytes e).log2, lane := e.lane, since := s.free }]
        ∧ ∀ b ∈ (getCore t core).journal, b.id = id → b.refused = true)
      ∧ ((getCtx s e.ctx).alive = false → ∃ t : State, ∃ n, exec .journalRefusal s = .next t ∧ t.mem = s.mem ∧ t.ctxs = s.ctxs
        ∧ t.due = s.due ++ [.deathNotice n] ∧ n.dst = e.parent ∧ n.task = e.task ∧ n.vector = 16 ∧ n.reason = reason
        ∧ n.taddr = e.va ∧ ∀ b ∈ (getCore t core).journal, b.id ≠ id))
    ∧ (∀ ctx l, s.ev = some (.journalRefusalTrap ctx l) →
      let x := getCtx s ctx
      let a := getLane x l
      (a.refpend = [] → exec .journalRefusalTrap s = .next s)
      ∧ ∀ r rs, a.refpend = r :: rs → isStrand x = true → l < x.lanes.length → replayOn s x.core = false →
        ∃ t : State, exec .journalRefusalTrap s = .next t ∧ t.mem = s.mem
          ∧ let b := getLane (getCtx t ctx) l
            b.refpend = rs ∧ b.pc = canonPc (tvecOf s x.core + 1024) ∧ b.epc = a.pc ∧ b.tpc = a.pc ∧ b.taddr = r.va
              ∧ b.inHandler = true ∧ fld b.tcause 0 8 = 16 ∧ fld b.tcause 8 8 = r.reason % 256
              ∧ b.tcause.getLsbD 17 = true ∧ b.estatus = a.status ∧ b.status = a.status ||| 0x200 ∧ b.regs = a.regs)
    ∧ (∀ bay ttb va, s.ev = some (.pageWalk bay ttb va) →
      let found := findIn s (getBay s bay).tlb bay ttb va
      (∀ f, found = .error f → exec .pageWalk s = .next s)
      ∧ ∀ p ws, found = .ok (p, ws) → ∃ t : State, exec .pageWalk s = .next t ∧ t.mem = s.mem
        ∧ p ∈ (getBay t bay).tlb ∧ ((getBay s bay).tlb.length < 4096 → ∀ q ∈ (getBay s bay).tlb, q ∈ (getBay t bay).tlb)
        ∧ ∀ d, d ≠ bay → getBay t d = getBay s d)
    ∧ (∀ pa n, s.ev = some (.homeFill pa n []) → ∃ t : State, exec .homeFill s = .next t ∧ t.mem = s.mem ∧ t.bad = s.bad
      ∧ t.ctxs = s.ctxs ∧ (n = 0 → t = s))
    ∧ ∀ c l, s.ev = some (.multiRotationHoldEnd c l) → l < (getCtx s c).lanes.length →
      ∃ t : State, exec .multiRotationHoldEnd s = .next t ∧ t.mem = s.mem
        ∧ (getLane (getCtx t c) l).hold = 0 ∧ (getLane (getCtx t c) l).pc = (getLane (getCtx s c) l).pc
        ∧ ∀ d, d ≠ c → getCtx t d = getCtx s d

/-! ## Events of strands and courses -/

/-- R196 to R200, R204 to R207: a spawn record starts its context, is queued, or is refused, and its answer returns; queued
records start and waiting exits post when they can; wakes and the ends of waits release their lanes. -/
def Obligations.StrandEventsProceed : Prop :=
  ∀ (s : State),
    (∀ r, s.ev = some (.spawnRecordArrival r) →
      let dead := tagDead s r.src r.task = true ∨ tagDead s r.target r.task = true
      let q := (getCore s (spawnHome r)).spawnQ
      let answers (v : Nat) (t : State) := exec .spawnRecordArrival s = .next t
        ∧ t.flight = s.flight ++ [.spawnAnswer r.ctx r.lane v r.target] ∧ t.mem = s.mem
      (dead → exec .spawnRecordArrival s = .next s)
      ∧ (¬ dead → (getCore s r.target).retired = false →
        (q = [] → r.course = false → coreKind r.target = .dcore → ∀ slot off regs,
          slotTakes s r.target (kernelNeed r.kernel .k) = some (slot, off) → r.lanes = [(0, regs)] →
          ∃ t : State, answers 0 t ∧ let x := getCtx t s.nextCtx
            x.alive = true ∧ x.kind = .strand ∧ x.core = r.target ∧ x.slot = some slot ∧ x.task = r.task
              ∧ x.kernel = r.kernel ∧ x.wsptr = BitVec.ofNat 32 off ∧ x.lanes.length = 1
              ∧ let a := getLane x 0
                a.pc = r.pc ∧ a.ttb = r.ttb ∧ a.slim = r.slim ∧ stPriv a.status = false ∧ stRM a.status = r.rm
                  ∧ stTxr a.status = r.txr ∧ (∀ j, laneReg a j = getAt 0 regs j) ∧ ∀ j, laneB a j = getAt 0 r.b j)
        ∧ (q = [] → r.course = true → trussOf r.target % 16 ≠ 8 → ∀ p num,
          trussTakes s (trussOf r.target) (kernWidth r.kernel) (kernelNeed r.kernel .k) = some p →
          freeNum s (trussOf r.target) = some num → ∃ t : State, answers 0 t ∧ let x := getCtx t s.nextCtx
            x.alive = true ∧ x.kind = .course ∧ x.core = p.1 ∧ x.num = num ∧ x.slot = none ∧ x.task = r.task
              ∧ x.lanes.length = kernWidth r.kernel)
        ∧ ((q ≠ [] ∨ startRecord s r = none) → q.length < 32 →
          ∃ t : State, answers 1 t ∧ (getCore t (spawnHome r)).spawnQ = q ++ [r])
        ∧ (32 ≤ q.length → ∃ t : State, answers 2 t ∧ t.ctxs = s.ctxs)))
    ∧ (∀ c l v src n st left, s.ev = some (.spawnAnswer c (some l) v src) →
      let x := getCtx s c
      x.alive = true → reachable x = true → isStrand x = true → l < x.lanes.length →
        (getLane x l).wait = .answer (n + 1) st left → ∃ t : State, exec .spawnAnswer s = .next t
          ∧ (getLane (getCtx t c) l).wait = .answer n ((l, v) :: st) left ∧ ∀ d, d ≠ c → getCtx t d = getCtx s d)
    ∧ (∀ core, s.ev = some (.spawnQueueStart core) →
      (spawnReady s core = none → exec .spawnQueueStart s = .next s)
      ∧ ∀ z r rs, (getCore s core).spawnQ = r :: rs → startRecord s r = some z →
        ∃ t : State, exec .spawnQueueStart s = .next t ∧ (getCore t core).spawnQ = rs ∧ t.ctxs = z.ctxs)
    ∧ (∀ core, s.ev = some (.exitRecordPost core) →
      ((getCore s core).exitWait = [] → exec .exitRecordPost s = .next s)
      ∧ ∀ c code rest, (getCore s core).exitWait = (c, code) :: rest →
        (32 ≤ (getCore s core).exitQ.length → exec .exitRecordPost s = .next s)
        ∧ (quitRival s c = true → exec .exitRecordPost s = .next s)
        ∧ ((getCore s core).exitQ.length < 32 → quitRival s c = false → exitCore (getCtx s c) = core → NoLaunch s →
          (∀ e ∈ (getCore s core).exitQ, isStrand (getCtx s c) = true ∨ (getCtx s e.ctx).quitAt ≠ (getCtx s c).quitAt) →
          ∃ t : State, ∃ r, exec .exitRecordPost s = .next t ∧ (getCtx t c).alive = false ∧ (getCore t core).exitWait = rest
            ∧ (getCore t core).exitQ = (getCore s core).exitQ ++ [r] ∧ r.ctx = c ∧ r.w1 = code
            ∧ r.w2 = (getCtx s c).task.setWidth 32))
    ∧ (∀ k kind, s.ev = some (.wakeArrival k) → engineKind k.target = .core kind →
      (wakeTarget s k.target k.word.toNat = none → exec .wakeArrival s = .next s)
      ∧ ∀ c l, wakeTarget s k.target k.word.toNat = some (c, [l]) → isStrand (getCtx s c) = true →
        l < (getCtx s c).lanes.length →
        let a := getLane (getCtx s c) l
        ∃ t : State, exec .wakeArrival s = .next t ∧ t.mem = s.mem ∧ (∀ d, d ≠ c → getCtx t d = getCtx s d)
          ∧ getLane (getCtx t c) l =
              (if sleeps a = true ∧ switchedOut (getCtx s c) = false then { a with wait := .woken 0 }
               else { a with pendWake := true }))
    ∧ (∀ c l, s.ev = some (.sleepTimeout c l) →
      (sleepOver s (getCtx s c) l = false → exec .sleepTimeout s = .next s)
      ∧ (sleepOver s (getCtx s c) l = true → l < (getCtx s c).lanes.length → ∃ t : State, exec .sleepTimeout s = .next t
        ∧ t.mem = s.mem ∧ getLane (getCtx t c) l = { getLane (getCtx s c) l with wait := .woken 1 }))
    ∧ (∀ c l line lines, s.ev = some (.spinWake c l line) → (getLane (getCtx s c) l).wait = .spin lines →
      (lines.contains line = false → exec .spinWake s = .next s)
      ∧ (lines.contains line = true → l < (getCtx s c).lanes.length → ∃ t : State, exec .spinWake s = .next t ∧ t.mem = s.mem
        ∧ getLane (getCtx t c) l = { getLane (getCtx s c) l with wait := .woken 0 }))
    ∧ ∀ c l n v cont next, s.ev = some (.yldCcWake c l) → (getLane (getCtx s c) l).wait = .yldCc n v cont next →
      isStrand (getCtx s c) = true → l < (getCtx s c).lanes.length → (getLane (getCtx s c) l).annul = 0 →
      ∃ t : State, exec .yldCcWake s = .next t ∧ t.mem = s.mem ∧ (getLane (getCtx t c) l).pc = cont
        ∧ (getLane (getCtx t c) l).wait = .none ∧ (getLane (getCtx t c) l).regs = (getLane (getCtx s c) l).regs

/-- R289, R296, R297, R308: strands that wait in CLASP at one address become the lanes of a new course; the lanes of a split
course that wait at one rejoin, in one CLASP or at one BAR are one course again, which at a CLASP has 0 in x and is past the
instruction and at a BAR is a course that has arrived; a bundle that has arrived is released, with 1 to a course that was
split when it came. -/
def Obligations.CourseEventsProceed : Prop :=
  ∀ (s : State),
    (∀ truss slot base n, s.ev = some (.fusion truss slot base n) →
      (claspParts s truss slot base n = none → exec .fusion s = .next s)
      ∧ ∀ ps, claspParts s truss slot base n = some ps →
        let p0 := ps.headD 0
        let a (c : Nat) := getLane (getCtx s c) 0
        let fit := wsFit s ps (setCores (truss * 64 + base) n) (wsBytes (getCtx s p0).need)
        let room := (heldCourses s truss).length < 1024
        (∀ c ∈ ps, c ≠ s.nextCtx) →
        (∀ c ∈ ps, (a c).wait = .clasp base n ∧ (a c).pc = (a p0).pc ∧ (getCtx s c).kernel = (getCtx s p0).kernel
          ∧ (getCtx s c).task = (getCtx s p0).task ∧ stRM (a c).status = stRM (a p0).status
          ∧ stTxr (a c).status = stTxr (a p0).status) →
        (∀ num off, freeNum s truss = some num → fit = some off → room → ∃ t : State, exec .fusion s = .next t ∧ t.mem = s.mem
          ∧ (∀ c ∈ ps, (getCtx t c).alive = false)
          ∧ let x := getCtx t s.nextCtx
            x.kind = .course ∧ x.core = truss * 64 + base ∧ x.slot = some slot ∧ x.num = num ∧ x.lanes.length = ps.length
              ∧ ∀ k c, ps[k]? = some c → (getLane x k).regs = (a c).regs ∧ (getLane x k).queues = (a c).queues
                ∧ (getLane x k).pc = (a p0).pc ∧ (getLane x k).wait = .none)
        ∧ ((freeNum s truss = none ∨ fit = none ∨ ¬ room) → ∃ t : State, exec .fusion s = .next t ∧ t.mem = s.mem
          ∧ ∀ c ∈ ps, 0 < (getCtx s c).lanes.length → (getLane (getCtx t c) 0).wait = .woken 1))
    ∧ (∀ c, s.ev = some (.refusion c) →
      let x := getCtx s c
      let h := (liveLanes x).headD 0
      let a0 := getLane x h
      let alike := ∀ l ∈ liveLanes x, (getLane x l).wait = a0.wait ∧ (getLane x l).pc = a0.pc
        ∧ stRM (getLane x l).status = stRM a0.status ∧ stTxr (getLane x l).status = stTxr a0.status
      (pairBroken s x = false → alike → a0.wait = .rejoin →
        ∃ t : State, exec .refusion s = .next t ∧ t.mem = s.mem ∧ (∀ d, d ≠ c → getCtx t d = getCtx s d)
          ∧ (getCtx t c).split = false ∧ (getCtx t c).marks = (if x.rd = 1 then x.marks else [])
          ∧ ∀ l ∈ liveLanes x, let b := getLane (getCtx t c) l
            b.actv = true ∧ b.pc = a0.pc ∧ b.wait = .none ∧ b.depth = 0 ∧ b.regs = (getLane x l).regs)
      ∧ (∀ base n w o, pairBroken s x = false → alike → a0.wait = .clasp base n → a0.inst = some (.clasp w o) → o.xq = false →
        (∀ l ∈ liveLanes x, (getLane x l).depth = 0) →
        ∃ t : State, exec .refusion s = .next t ∧ (getCtx t c).split = false ∧ (getCtx t c).marks = []
          ∧ ∀ l ∈ liveLanes x, let b := getLane (getCtx t c) l
            b.actv = true ∧ b.pc = canonPc (a0.pc + BitVec.ofNat 64 (instrLen (.clasp w o))) ∧ b.wait = .none ∧ b.depth = 0
              ∧ stHdc b.status = 0 ∧ laneReg b o.x.toNat = 0
              ∧ ∀ j, j ≠ o.x.toNat → laneReg b j = laneReg (getLane x l) j)
      ∧ (pairBroken s x = false → alike → a0.wait = .bar →
        ∃ t : State, exec .refusion s = .next t ∧ (getCtx t c).split = false ∧ (getCtx t c).marks = []
          ∧ ∀ l ∈ liveLanes x, let b := getLane (getCtx t c) l
            b.pc = a0.pc ∧ b.wait = .arrived true ∧ b.depth = 0 ∧ b.regs = (getLane x l).regs))
    ∧ ∀ c, s.ev = some (.barRelease c) → ∃ t : State, exec .barRelease s = .next t ∧ t.mem = s.mem
      ∧ (∀ d ∈ bundleOf s c, ∀ l, l < (getCtx s d).lanes.length → let a := getLane (getCtx s d) l
          getLane (getCtx t d) l = { a with wait := if a.wait = .arrived false then .woken 0
                                                    else if a.wait = .arrived true then .woken 1 else a.wait })
      ∧ ∀ d, d ∉ bundleOf s c → getCtx t d = getCtx s d

/-! ## Register writes and requests that are steps of their own -/

/-- R187, R216, R270 to R272, R281, R392: a write of LCARVE empties the cache portion and clears the SRAM units that change
region; writes of MCLS, BZCTL, LOSSCTL, RPCTL and LEASE_OC take effect; a rotation boundary counts its slots by class. The
model's choices: LOSSCTL reads its old value until the rotation boundary (log 101), and the counts of a rotation are added at
its boundary (log 97). -/
def Obligations.RegisterWritesTakeEffect : Prop :=
  ∀ (s : State) (core : Nat),
    (∀ v, s.ev = some (.lcarveWrite core v) →
      let old := lcarve s core
      ∃ t : State, exec .lcarveWrite s = .next t ∧ lcarve t core = v ∧ cacheLines t (.core core) = [] ∧ t.ctxs = s.ctxs
        ∧ ∀ off, sramByte t core off
            = (if unitRegion old (off / 4096) = unitRegion v (off / 4096) then sramByte s core off else 0))
    ∧ (∀ c v buf, s.ev = some (.mclsWrite core c v buf) →
      ∃ t : State, exec .mclsWrite s = .next t ∧ t.mem = s.mem ∧ t.ctxs = s.ctxs
        ∧ mcls t core c.toNat = mcApply (mcls s core c.toNat) v
        ∧ (∀ j, j ≠ c.toNat → mcls t core j = mcls s core j)
        ∧ (∀ pa, coreKind core = .lcore → setsRecords (mcls s core c.toNat) (mcApply (mcls s core c.toNat) v) = true →
          buf = some pa → tget (0, 0) (getCore t core).mbuf c.toNat = (1, pa)))
    ∧ (∀ idx v, s.ev = some (.bezelWrite core idx v) →
      ((getCore s core).bezel.selected = none → exec .bezelWrite s = .next s)
      ∧ ∀ k, (getCore s core).bezel.selected = some k →
        (boundAt s core k = none → ∃ t : State, exec .bezelWrite s = .next t ∧ t.mem = s.mem ∧ t.ctxs = s.ctxs
          ∧ (getCore t core).bezel.selected = none)
        ∧ ∀ c, boundAt s core k = some c → ∃ t : State, exec .bezelWrite s = .next t ∧ t.mem = s.mem ∧ t.ctxs = s.ctxs
          ∧ ∀ e ∈ selectCores (getCtx s c) core, (getCore t e).bezel.selected = none)
    ∧ (∀ f i, (i = .losctlFreeze ∧ s.ev = some (.losctlFreeze core f) ∨ i = .losctlClear ∧ s.ev = some (.losctlClear core f)) →
      ∃ t : State, exec i s = .next t ∧ t.mem = s.mem ∧ t.ctxs = s.ctxs ∧ (getCore t core).bezel.pendFrz = some f
        ∧ (getCore t core).bezel.pendClr = (if i = .losctlClear then true else (getCore s core).bezel.pendClr)
        ∧ ∀ k j, coreReg t k j = coreReg s k j)
    ∧ (s.ev = some (.rotationBoundary core) →
      let z := (getCore s core).bezel
      let frozen := (coreReg s core 0x164).getLsbD 0
      ∃ t : State, exec .rotationBoundary s = .next t ∧ t.ctxs = s.ctxs
        ∧ (getCore t core).bezel.pendFrz = none ∧ (getCore t core).bezel.pendClr = false
        ∧ (∀ f, z.pendFrz = some f → (coreReg t core 0x164).getLsbD 0 = f)
        ∧ (z.pendClr = true → ∀ j, j < 4 → coreReg t core (0x160 + j) = 0)
        ∧ (z.pendFrz = none → z.pendClr = false → frozen = true → ∀ j, coreReg t core j = coreReg s core j)
        ∧ (z.pendFrz = none → z.pendClr = false → frozen = false → coreKind core = .dcore → rotsOver s core = z.seen + 1 →
          coreReg t core 0x160 = coreReg s core 0x160 + BitVec.ofNat 64 (classed z 16 1)
          ∧ coreReg t core 0x161 = coreReg s core 0x161 + BitVec.ofNat 64 (classed z 16 2)
          ∧ coreReg t core 0x162 = coreReg s core 0x162 + BitVec.ofNat 64 (classed z 16 3)
          ∧ coreReg t core 0x163 = coreReg s core 0x163 + BitVec.ofNat 64 (classed z 16 0)
          ∧ coreReg t core (0x170 + classed z 16 1) = coreReg s core (0x170 + classed z 16 1) + 1))
    ∧ (∀ v, s.ev = some (.replayEnable core v) → ∃ t : State, exec .replayEnable s = .next t ∧ t.mem = s.mem
      ∧ coreReg t core 0x15E = 0 ∧ coreReg t core 0x15F = 0
      ∧ ∀ c, (getCtx s c).alive = true → onCore (getCtx s c) core = true →
          (getLane (getCtx t c) (laneOn (getCtx s c) core)).replay = 0)
    ∧ ∀ truss v, s.ev = some (.leaseOcWrite truss v) → ∃ t : State, exec .leaseOcWrite s = .next t ∧ t.mem = s.mem ∧ t.ctxs = s.ctxs
      ∧ trussReg t truss 0x193 = v &&& 0xFFFF1F07 ∧ t.due = s.due ++ [.courseActivation truss]

/-! ## Interrupts, pre-emption, kills and parked faults -/

/-- R204, R248 to R250, R253, R254: a timer or a request sets its bit of IPEND; an interrupt enters vector 28 asynchronously;
a pre-emption takes a context from its slot and keeps it, which ends its wait in SPIN with 0 and leaves it at the QUIT that it
held at; a course that is released, or a context that resumes, ends its SLEEP where a wake has come for it, and a resumed
context takes its deferred entries back. A timer is due when CYC reaches TCMP (the model's choice: log 140). -/
def Obligations.InterruptsAndPreemption : Prop :=
  ∀ (s : State),
    (∀ core i b, (i = .timerCompare ∧ s.ev = some (.timerCompare core) ∧ b = 0
        ∨ i = .managementProcessorRequest ∧ s.ev = some (.managementProcessorRequest core) ∧ b = 1) →
      ∃ t : State, exec i s = .next t ∧ t.mem = s.mem ∧ t.ctxs = s.ctxs ∧ (coreReg t core 0x141).getLsbD b = true
        ∧ (∀ j, j < 64 → j ≠ b → (coreReg t core 0x141).getLsbD j = (coreReg s core 0x141).getLsbD j)
        ∧ ∀ k j, (k ≠ core ∨ j ≠ 0x141) → coreReg t k j = coreReg s k j)
    ∧ (∀ core, s.ev = some (.interruptEntry core) →
      (boundAt s core 0 = none → exec .interruptEntry s = .next s)
      ∧ ∀ c, boundAt s core 0 = some c → isStrand (getCtx s c) = true → 0 < (getCtx s c).lanes.length →
        let a := getLane (getCtx s c) 0
        ∃ t : State, exec .interruptEntry s = .next t ∧ t.mem = s.mem ∧ (∀ d, d ≠ c → getCtx t d = getCtx s d)
          ∧ let b := getLane (getCtx t c) 0
            b.pc = canonPc (tvecOf s (getCtx s c).core + 1792) ∧ b.epc = a.pc ∧ b.tpc = a.pc ∧ b.inHandler = true
              ∧ fld b.tcause 0 8 = 28 ∧ b.tcause.getLsbD 17 = true ∧ b.estatus = a.status
              ∧ b.status = a.status ||| 0x200 ∧ b.wait = .none ∧ b.regs = a.regs)
    ∧ (∀ core v, s.ev = some (.prectlGo core v) →
      let ctl (t : State) := coreReg t core 0x144
      (preTarget s core v = none → ∃ t : State, exec .prectlGo s = .next t ∧ t.mem = s.mem ∧ t.ctxs = s.ctxs
        ∧ (ctl t).getLsbD 31 = false ∧ (ctl t).getLsbD 30 = true ∧ (ctl t).getLsbD 29 = true)
      ∧ ∀ c, preTarget s core v = some c → (getCtx s c).mate = none → (getCtx s c).preempt = false →
        ((getCtx s c).slot.isSome = true → (getCtx s c).held = false → ∃ t : State, exec .prectlGo s = .next t ∧ t.mem = s.mem
          ∧ getCtx t c = { getCtx s c with preempt := true } ∧ (ctl t).getLsbD 31 = true ∧ (ctl t).getLsbD 29 = false)
        ∧ (((getCtx s c).slot = none ∨ (getCtx s c).held = true) → ∃ t : State, exec .prectlGo s = .next t ∧ t.mem = s.mem
          ∧ getCtx t c = { getCtx s c with held := true } ∧ (ctl t).getLsbD 31 = false ∧ (ctl t).getLsbD 30 = true
          ∧ (ctl t).getLsbD 29 = false))
    ∧ (∀ core v, s.ev = some (.prectlRel core v) →
      (preTarget s core v = none → exec .prectlRel s = .next s)
      ∧ ∀ c, preTarget s core v = some c → (getCtx s c).mate = none →
        (isStrand (getCtx s c) = true → exec .prectlRel s = .next s)
        ∧ (isStrand (getCtx s c) = false → ∃ t : State, exec .prectlRel s = .next t ∧ t.mem = s.mem ∧ (getCtx t c).held = false
          ∧ ∀ l, l < (getCtx s c).lanes.length → let a := getLane (getCtx s c) l
              getLane (getCtx t c) l
                = if (getCtx s c).kind = .course ∧ (getCtx s c).held = true ∧ sleeps a = true ∧ a.pendWake = true
                  then { a with wait := .woken 0, pendWake := false } else a))
    ∧ (∀ c, s.ev = some (.preemption c) → isStrand (getCtx s c) = true → (getCtx s c).mate = none →
      (queuesBusy (getCtx s c) = true → ∃ t : State, exec .preemption s = .next t ∧ t.mem = s.mem
        ∧ getCtx t c = { getCtx s c with leaving := 3 })
      ∧ (queuesBusy (getCtx s c) = false → ∃ t : State, exec .preemption s = .next t ∧ (getCtx t c).slot = none
        ∧ (getCtx t c).left = (getCtx s c).slot ∧ (getCtx t c).held = true ∧ (getCtx t c).preempt = false
        ∧ (getCtx t c).leaving = 0 ∧ (coreReg t (preCore (getCtx s c)) 0x144).getLsbD 30 = true
        ∧ (coreReg t (preCore (getCtx s c)) 0x144).getLsbD 29 = false
        ∧ ∀ l, l < (getCtx s c).lanes.length → let a := getLane (getCtx s c) l
            let b := getLane (getCtx t c) l
            b.regs = a.regs ∧ b.b = a.b ∧ b.pc = a.pc ∧ b.status = a.status ∧ b.queues = a.queues
              ∧ ((∃ ls, a.wait = .spin ls) → b.wait = .woken 0) ∧ ((∃ v, a.wait = .quit v) → b.wait = .none)))
    ∧ ∀ c, s.ev = some (.contextResume c) → ∃ t : State, exec .contextResume s = .next t
      ∧ ((∀ k, (getCore s k).spill = []) →
        t.mem = s.mem ∧ (∀ d, d ≠ c → getCtx t d = getCtx s d) ∧ (getCtx t c).edits = []
        ∧ (∀ e ∈ (getTruss t (trussOf (getCtx s c).core)).matrix, e.ctx = c → e.started = false → e.parked = false)
        ∧ ∀ l, l < (getCtx s c).lanes.length → let a := getLane (applyEdits (getCtx s c)) l
            getLane (getCtx t c) l
              = if sleeps a = true ∧ a.pendWake = true then { a with wait := .woken 0, pendWake := false } else a)

/-- R247, R256 to R259, R376, R434: a kill or clear request starts at the package of its core, is applied once in each
package and goes on to the others; a kill ends the contexts of its task; a death notice reaches the parent; the answer to a
parked fault retries the access or enters the fault. -/
def Obligations.KillsNoticesAndParkedFaults : Prop :=
  ∀ (s : State),
    (∀ core tag, s.ev = some (.tkillKill core tag) → tag = 0 → exec .tkillKill s = .next s)
    ∧ (∀ core c l, s.ev = some (.tkillOwn core c l) → (getCtx s c).task = 0 → exec .tkillOwn s = .next s)
    ∧ (∀ core i tag clear, (i = .tkillKill ∧ s.ev = some (.tkillKill core tag) ∧ tag ≠ 0 ∧ clear = false
        ∨ i = .tkillClr ∧ s.ev = some (.tkillClr core tag) ∧ clear = true
        ∨ i = .tkillOwn ∧ (∃ c l, s.ev = some (.tkillOwn core c l) ∧ (getCtx s c).task = tag) ∧ tag ≠ 0 ∧ clear = false) →
      ∃ t : State, ∃ r : KillReq, exec i s = .next t ∧ t.mem = s.mem ∧ t.ctxs = s.ctxs ∧ t.due = s.due ++ [.killRequestArrival r]
        ∧ r.tag = tag ∧ r.clear = clear ∧ r.core = some core ∧ r.pkg = pkgOf core ∧ r.origin = pkgOf core
        ∧ r.note.isSome = !clear ∧ (coreReg t core 0x146).getLsbD 31 = true)
    ∧ (∀ k, s.ev = some (.killRequestArrival k) →
      ((k.origin, k.seq) ∈ (getPkg s k.pkg).met → exec .killRequestArrival s = .next s)
      ∧ ((k.origin, k.seq) ∉ (getPkg s k.pkg).met → NoLaunch s → ∃ t : State, exec .killRequestArrival s = .next t
        ∧ (k.origin, k.seq) ∈ (getPkg t k.pkg).met
        ∧ (∀ l p j, l < 16 → Config.wire k.pkg l = some (p, j) → p ≠ k.origin →
            (tget {} (getPkg s k.pkg).links l : Link).failed = false →
            Ev.killRequestArrival { k with pkg := p, core := none, note := none, via := some (k.pkg, l) } ∈ t.flight)
        ∧ (∀ n, k.note = some n → Ev.deathNotice n ∈ t.due)
        ∧ (∀ c, k.core = some c → (coreReg t c 0x146).getLsbD 31 = false ∧ (coreReg t c 0x146).getLsbD 30 = true)
        ∧ (k.clear = true → k.tag ∉ (getPkg t k.pkg).deadTags ∧ t.ctxs = s.ctxs ∧ t.mem = s.mem)
        ∧ (k.clear = false → k.tag ∈ (getPkg t k.pkg).deadTags
          ∧ ∀ c, (getCtx s c).alive = true → (getCtx s c).task = k.tag → pkgOf (getCtx s c).core = k.pkg →
              (getCtx t c).alive = false)))
    ∧ (∀ n, s.ev = some (.deathNotice n) →
      (n.dst = 0xFFFFFFFF → exec .deathNotice s = .next s)
      ∧ (n.dst ≠ 0xFFFFFFFF → n.vector < 256 → ∃ t : State, ∃ m : Msg, exec .deathNotice s = .next t ∧ t.mem = s.mem ∧ t.ctxs = s.ctxs
        ∧ t.flight = s.flight ++ [.messageArrival m] ∧ m.dst = keyNamed s (pkgOf n.core) n.dst ∧ m.cls = 0 ∧ m.flow = 0 ∧ m.src = n.core
        ∧ m.payload.length = 48 ∧ at_ m.payload 0 3 = n.task.toNat ∧ at_ m.payload 3 1 = n.vector
        ∧ at_ m.payload 4 1 = n.reason % 256 ∧ at_ m.payload 8 8 = n.tpc.toNat ∧ at_ m.payload 16 8 = n.txpc.toNat
        ∧ at_ m.payload 32 8 = n.taddr.toNat))
    ∧ ∀ m, s.ev = some (.parkedFaultAnswer m) →
      (parkedAt s m.dst (at_ m.payload 4 4) = none → exec .parkedFaultAnswer s = .next (countDrop s m.dst))
      ∧ (1 < at_ m.payload 8 1 → exec .parkedFaultAnswer s = .next (countDrop s m.dst))
      ∧ ∀ c l f, parkedAt s m.dst (at_ m.payload 4 4) = some (c, l, f) → isStrand (getCtx s c) = true →
        l < (getCtx s c).lanes.length →
        let a := getLane (getCtx s c) l
        (at_ m.payload 8 1 = 0 → ∃ t : State, exec .parkedFaultAnswer s = .next t ∧ t.mem = s.mem
          ∧ getLane (getCtx t c) l = { a with wait := .none })
        ∧ (at_ m.payload 8 1 = 1 → ∃ t : State, exec .parkedFaultAnswer s = .next t ∧ t.mem = s.mem
          ∧ let b := getLane (getCtx t c) l
            b.pc = canonPc (tvecOf s (getCtx s c).core + BitVec.ofNat 64 (64 * f.vector)) ∧ b.epc = a.pc ∧ b.inHandler = true
              ∧ b.taddr = f.addr ∧ b.estatus = a.status ∧ b.wait = .none)

/-! ## The event forms -/

/-- Every one of the 94 event forms (`Ev.kind` names the form of an event) answers a next state in every state whose event is
of that form, whatever the event's data; which next state, the statements of the forms say. -/
def Obligations.EveryEventCompletes : Prop :=
  ∀ (s : State) (e : Ev), s.ev = some e → ∃ t : State, exec e.kind s = .next t

/-! ## Debug and trace -/

/-- R266, R270, R275 to R279, R469: GO and STEP resume the lanes of a context whose stop is complete, with what the keeper
has written to their workspace, and HALT asks every lane of the context for a stop; a stop shows in DBGSTAT with its cause and
raises IPEND once the lanes' queues have nothing in flight; a selection, a summary and the trace drain. The model's choices:
where the drain's host buffer lies and when a ring of 64 KiB is copied (log 148). -/
def Obligations.DebugAndTraceEvents : Prop :=
  ∀ (s : State),
    (∀ core v i step, (i = .dbgctlGo ∧ s.ev = some (.dbgctlGo core v) ∧ step = false
        ∨ i = .dbgctlStep ∧ s.ev = some (.dbgctlStep core v) ∧ step = true) →
      (dbgTarget s core v = none → exec i s = .next s)
      ∧ ∀ c, dbgTarget s core v = some c →
        (isKeeper (getCtx s c) = true → exec i s = .next s)
        ∧ (isKeeper (getCtx s c) = false → (halves s c).Nodup → ∃ t : State, exec i s = .next t ∧ t.mem = s.mem
            ∧ t.flight = s.flight ∧ (∀ d, d ∉ halves s c → getCtx t d = getCtx s d)
            ∧ ∀ d ∈ halves s c, let x := getCtx s d
              let ls := settledLanes x
              (ls = [] → getCtx t d = x)
              ∧ (ls ≠ [] → ∀ l, l < x.lanes.length → getLane (getCtx t d) l =
                  if l ∈ ls then { getLane (applyEdits x) l with stopped := false, passBp := true, stepping := step }
                  else getLane (applyEdits x) l)
              ∧ ∀ k, x.slot = some k → k < 16 → ∀ l ∈ ls, (coreReg t (laneCore x l) 0x157).getLsbD k = false))
    ∧ (∀ core v, s.ev = some (.dbgctlHalt core v) →
      (dbgTarget s core v = none → exec .dbgctlHalt s = .next s)
      ∧ ∀ c, dbgTarget s core v = some c →
        (isKeeper (getCtx s c) = true → exec .dbgctlHalt s = .next s)
        ∧ (isKeeper (getCtx s c) = false → (halves s c).Nodup → ∃ t : State, exec .dbgctlHalt s = .next t ∧ t.mem = s.mem
          ∧ t.cores = s.cores ∧ (∀ d, d ∉ halves s c → getCtx t d = getCtx s d)
          ∧ ∀ d ∈ halves s c, let x := getCtx s d
            (x.slot = none → getCtx t d = x)
            ∧ (x.slot.isSome = true → ∀ l, l < x.lanes.length → getLane (getCtx t d) l =
                if (getLane x l).stopped = false then { getLane x l with haltReq := true } else getLane x l)))
    ∧ (∀ c l i cause, (i = .breakpointStop ∧ (∃ n, s.ev = some (.breakpointStop c l n) ∧ cause = n + 1)
        ∨ i = .haltStop ∧ s.ev = some (.haltStop c l) ∧ cause = 7
        ∨ i = .singleStepStop ∧ s.ev = some (.singleStepStop c l) ∧ cause = 6) →
      let x := getCtx s c
      let ls := if x.split || isStrand x then [l] else allLanes x
      ∃ t : State, exec i s = .next t ∧ t.flight = s.flight ∧ (∀ d, d ≠ c → getCtx t d = getCtx s d)
        ∧ (∀ m, m < x.lanes.length → getLane (getCtx t c) m =
            if m ∈ ls then { getLane x m with stopped := true, stepping := false, haltReq := false } else getLane x m)
        ∧ (lanesBusy x ls = true → t.mem = s.mem ∧ t.cores = s.cores
            ∧ (getCtx t c).stopping.length = x.stopping.length + 1)
        ∧ (lanesBusy x ls = false → (getCtx t c).stopping = x.stopping
            ∧ (coreReg t (debugCore x l) 0x141).getLsbD 3 = true ∧ (traceOn s x.core = false → t.mem = s.mem)
            ∧ ∀ k, x.slot = some k → k < 16 → cause < 16 → ∀ m ∈ ls, let d := coreReg t (laneCore x m) 0x157
              d.getLsbD k = true ∧ fld d 16 4 = k ∧ fld d 20 4 = cause))
    ∧ (∀ core, s.ev = some (.bezelSelect core) → ∃ t : State, exec .bezelSelect s = .next t ∧ t.mem = s.mem
      ∧ t.ctxs = s.ctxs ∧ t.flight = s.flight
      ∧ (bezelPick s core = none → t = s)
      ∧ ∀ slot, bezelPick s core = some slot →
        (boundAt s core slot = none → (getCore t core).bezel.selected = some slot)
        ∧ ∀ c, boundAt s core slot = some c → ∀ e ∈ selectCores (getCtx s c) core,
            (getCore t e).bezel.selected = some slot)
    ∧ (∀ c, s.ev = some (.summaryPeriod c) → ∃ t : State, exec .summaryPeriod s = .next t ∧ t.flight = s.flight
      ∧ (∀ d, d ≠ c → getCtx t d = getCtx s d) ∧ (getCtx t c).lanes = (getCtx s c).lanes
      ∧ ((getCtx s c).slot = none → t = s)
      ∧ ∀ k, (getCtx s c).slot = some k →
        slotCounts t (getCtx s c).core k = [0, if isStrand (getCtx s c) then 0 else (getCtx s c).lease.lines, 0, 0, 0]
        ∧ tget 0 (getCore t (getCtx s c).core).bezel.since k = 0
        ∧ (traceOn s (getCtx s c).core = false → t.mem = s.mem ∧ t.ctxs = s.ctxs))
    ∧ ∀ die, s.ev = some (.traceDrain die) →
      let r := dieReg s die 0x1F2
      let size := 2 ^ fld r 0 5
      let tail := fld (dieReg s die 0x1F4) 0 32
      let n := drainBytes s die
      ∃ t : State, exec .traceDrain s = .next t ∧ t.ctxs = s.ctxs ∧ t.flight = s.flight
        ∧ ((getDie s die).drain = none → t = s)
        ∧ (drainDue s die = false → t = s)
        ∧ ∀ buf, (getDie s die).drain = some buf → drainDue s die = true →
          dieReg t die 0x1F4 = BitVec.ofNat 64 ((tail + n) % size)
          ∧ ∀ j, j < n → memByte t (hostPa (die / 4) buf + (tail + j) % size)
              = memByte s (fld r 16 36 * 65536 + (tail + j) % size)

/-! ## The package -/

/-- R458, R466 to R468, R470 to R473: reset leaves the units of a package at their reset values; bring-up goes through its
stages; an attestation uses each index once; a power grant stays within the budget; a unit at its threshold is retired or
reported. The model's choices: what RESET keeps and the restart of CYC (log 111), what the images, the keys and the signature
scheme are (log 50), what HBM training and the images give the machine (log 46), and how a power grant is made (log 61). -/
def Obligations.PackageEventsProceed : Prop :=
  ∀ (s : State) (pkg : Nat),
    (s.ev = some (.reset pkg) → ∃ t : State, exec .reset s = .next t ∧ t.mem = s.mem ∧ t.bad = s.bad ∧ stage t pkg = 1
      ∧ (∀ e ∈ t.ctxs, pkgOf e.2.core ≠ pkg) ∧ (∀ k, pkgOf k = pkg → getCore t k = {})
      ∧ (∀ k, k / 1024 = pkg → getTruss t k = {}) ∧ (∀ k, k / 64 = pkg → getBay t k = {})
      ∧ (∀ k, k / 4 = pkg → getDie t k = {}) ∧ (∀ k, pkgOf k ≠ pkg → getCore t k = getCore s k)
      ∧ (getPkg t pkg).regs = [] ∧ (getPkg t pkg).fuses = (getPkg s pkg).fuses
      ∧ (getPkg t pkg).counter = (getPkg s pkg).counter ∧ (getPkg t pkg).reads = (getPkg s pkg).reads
      ∧ (getPkg t pkg).cyc0 = s.now
      ∧ ∀ k, k ≠ pkg → getPkg t k = getPkg s k)
    ∧ (s.ev = some (.managementBoot pkg) → ∃ t : State, exec .managementBoot s = .next t ∧ t.mem = s.mem ∧ t.ctxs = s.ctxs
      ∧ stage t pkg = (if stage s pkg = 1 then 2 else stage s pkg)
      ∧ (stage s pkg = 1 → (getPkg t pkg).budget ≤ 4200 ∧ ∀ d, d < 4 → (getDie t (4 * pkg + d)).drain.isSome = true))
    ∧ (∀ images, s.ev = some (.signatureCheck pkg images) → let valid := imagesSigned pkg images
      ∃ t : State, exec .signatureCheck s = .next t ∧ t.mem = s.mem
      ∧ t.ctxs = s.ctxs ∧ stage t pkg =
        (if stage s pkg = 2 ∨ stage s pkg = 4 then (if valid then (if stage s pkg = 2 then 3 else 4) else 0x83)
         else stage s pkg)
      ∧ (valid = true → (stage s pkg = 2 ∨ stage s pkg = 4) → (getPkg t pkg).checked = true))
    ∧ (∀ images code, s.ev = some (.firmwareLoad pkg images code) → ∃ t : State, exec .firmwareLoad s = .next t
      ∧ (code = [] → t.mem = s.mem) ∧ t.ctxs = s.ctxs
      ∧ ((stage s pkg = 3 ∨ stage s pkg = 4) → (getPkg s pkg).checked = true →
          stage t pkg = 4 ∧ (getPkg t pkg).images = images ∧ (getPkg t pkg).checked = false)
      ∧ ((getPkg s pkg).checked = false → t = s))
    ∧ (∀ gran failed, s.ev = some (.hbmTraining pkg gran failed) → ∃ t : State, exec .hbmTraining s = .next t
      ∧ (failed = [] → t.mem = s.mem ∧ t.ctxs = s.ctxs)
      ∧ (stage s pkg = 4 → gran.toNat ≤ 4 →
          stage t pkg = 5 ∧ (failed = [] → ∀ d, d < 4 → dieReg t (4 * pkg + d) 0x1B0 = gran.setWidth 64)
          ∧ ∀ n ∈ failed, n < 384 → boundOn s (eaveOf pkg n) = [] → failed = [n] → (getCore t (eaveOf pkg n)).retired = true)
      ∧ (stage s pkg ≠ 4 → t = s))
    ∧ (s.ev = some (.featureNegotiation pkg) → ∃ t : State, exec .featureNegotiation s = .next t ∧ t.mem = s.mem ∧ t.ctxs = s.ctxs
      ∧ (stage s pkg = 5 → stage t pkg = 6
          ∧ pkgReg t pkg 0x30 = featOff.extractLsb' 0 64 &&& pkgReg s pkg 0x20
          ∧ pkgReg t pkg 0x38 = featOff.extractLsb' 64 64 &&& pkgReg s pkg 0x28)
      ∧ (stage s pkg ≠ 5 → t = s))
    ∧ (s.ev = some (.keeperRelease pkg) →
      (stage s pkg ≠ 6 → exec .keeperRelease s = .next s)
      ∧ (stage s pkg = 6 → ∃ t : State, exec .keeperRelease s = .next t ∧ t.mem = s.mem ∧ stage t pkg = 7
        ∧ ∀ im, (getPkg s pkg).images = [im] → pkgOf im.core = pkg → engineKind im.core = .core .dcore →
            (getCore s im.core).retired = false → let x := getCtx t s.nextCtx
            x.alive = true ∧ x.kind = .strand ∧ x.slot = some 0 ∧ x.core = im.core
              ∧ (getLane x 0).pc = pcBits .k im.entry ∧ (getLane x 0).ttb = im.ttb &&& 0xFFFFFFFFFFFFF000
              ∧ stPriv (getLane x 0).status = true ∧ tvecOf t im.core = im.tvec &&& 0xFFFFFFFFFFFFF000))
    ∧ (∀ report, s.ev = some (.attestation pkg report) → ∃ t : State, exec .attestation s = .next t ∧ t.mem = s.mem ∧ t.ctxs = s.ctxs
      ∧ let p := getPkg s pkg
        let q := getPkg t pkg
        (256 ≤ p.fuses → q.attest = p.attest ++ [none] ∧ q.fuses = p.fuses ∧ q.counter = p.counter)
        ∧ (p.fuses < 256 → q.attest = p.attest ++ [some (signReport pkg (4096 * p.fuses + p.counter) report)]
          ∧ 4096 * q.fuses + q.counter = 4096 * p.fuses + p.counter + 1))
    ∧ (s.ev = some (.backedStorageLoss pkg) → ∃ t : State, exec .backedStorageLoss s = .next t ∧ t.mem = s.mem ∧ t.ctxs = s.ctxs
      ∧ (getPkg t pkg).counter = 0 ∧ (getPkg t pkg).fuses = Nat.min 256 ((getPkg s pkg).fuses + 1)
      ∧ (getPkg t pkg).attest = (getPkg s pkg).attest)
    ∧ (∀ die, s.ev = some (.thermalTrip pkg die) → ∃ t : State, exec .thermalTrip s = .next t ∧ t.mem = s.mem ∧ t.ctxs = s.ctxs
      ∧ (getPkg t pkg).stopped = true ∧ (getPkg t pkg).ras.length = (getPkg s pkg).ras.length + 1)
    ∧ (∀ bay watts, s.ev = some (.powerGrant bay watts) → ∃ t : State, exec .powerGrant s = .next t ∧ t.mem = s.mem
      ∧ t.ctxs = s.ctxs
      ∧ (let fits := granted_ s (bay / 64) bay + watts ≤ (getPkg s (bay / 64)).budget
           ∧ watts ≤ Config.bayWatts bay ∧ watts < 65536
         (fits → fld (bayReg t bay 0x1E8) 0 16 = watts ∧ fld (bayReg t bay 0x1E8) 16 16 = fld (bayReg s bay 0x1E8) 16 16)
           ∧ (¬ fits → t = s)))
    ∧ (∀ u, s.ev = some (.softErrorWindowEnd u) → ∃ t : State, exec .softErrorWindowEnd s = .next t ∧ t.mem = s.mem
      ∧ t.ctxs = s.ctxs ∧ softCount t u = 0)
    ∧ (∀ u, s.ev = some (.softErrorThreshold u) →
      let report := (dieReg s (unitDie u) 0x1F1).getLsbD 31
      (report = false → exec .softErrorThreshold s = .next (retireUnit (faultyIpend s u) u))
      ∧ ∀ src bs, report = true → unitBytes_ s u = some (src, bs) → ∃ t : State, ∃ m : Msg, exec .softErrorThreshold s = .next t
        ∧ t.mem = s.mem ∧ t.ctxs = s.ctxs ∧ t.flight = s.flight ++ [.messageArrival m] ∧ m.src = src ∧ m.flow = 6
        ∧ m.cls = 0 ∧ m.dst = hostProxyKey (unitDie u / 4) ∧ m.payload = padBytes 48 bs)
    ∧ ∀ die v, s.ev = some (.rasctlRetire die v) →
      (rasUnit s die v = none → exec .rasctlRetire s = .next s)
      ∧ (∀ d k w, rasUnit s die v = some (.way d k w) → ∃ t : State, exec .rasctlRetire s = .next t ∧ t.mem = s.mem
        ∧ t.ctxs = s.ctxs ∧ (k, w) ∈ (getDie t d).waysOff)
      ∧ (∀ k, rasUnit s die v = some (.core k) → (getTruss s (trussOf k)).spare = true → ∃ t : State, exec .rasctlRetire s = .next t
        ∧ t.mem = s.mem ∧ t.ctxs = s.ctxs ∧ (∀ e, e ≠ k → getCore t e = getCore s e) ∧ (coreReg t k 0x141).getLsbD 2 = true
        ∧ (getPkg t (pkgOf k)).ras = (getPkg s (pkgOf k)).ras ++ [(nodeId s k, 468)])
      ∧ (∀ k, rasUnit s die v = some (.core k) → (getTruss s (trussOf k)).spare = false → s.flight = [] →
        ∃ t : State, exec .rasctlRetire s = .next t ∧ t.mem = s.mem ∧ (getTruss t (trussOf k)).spare = true
          ∧ (getCore t k).soft = 0 ∧ (getCore t k).sram = (getCore s k).sram)
      ∧ ∀ k, rasUnit s die v = some (.eave k) → boundOn s k = [] → ∃ t : State, exec .rasctlRetire s = .next t ∧ t.mem = s.mem
        ∧ t.ctxs = s.ctxs ∧ (getCore t k).retired = true ∧ (getCore t k).soft = 0

/-! ## The fabric and the host -/

/-- R147, R474 to R488: a request of another package is checked at its home, performed or refused, and answered; flits are
accepted in sequence, dropped where their CRC is bad, and sent again until they are acknowledged; a failed link clears its
routes and answers what cannot arrive; a route changes once no unit of it waits; the host proxy takes messages in its ring,
and the host reads and writes memory and its BAR0. The model's choices: the low bits of HPBASE are ignored (log 115), LINKST is
set by a flit that is taken and cleared at LINK_FAILURE (log 52), the bytes of a slot, the CRC's bits, the wires and the first
credits are open (log 64), a dropped flit is a corrected error of its link (log 151), and a window of BAR0 reads 0 (log 152). -/
def Obligations.FabricAndHostEventsProceed : Prop :=
  ∀ (s : State),
    (∀ r, s.ev = some (.fabricRequestArrival r) →
      let x := getCtx s r.acc.ctx
      let live := x.alive = true ∨ r.acc.entry.isSome = true
      let answers (t : State) (refused : List (Nat × Nat × Nat)) (vals : List (Nat × Nat)) (bad : Bool) :=
        exec .fabricRequestArrival s = .next t ∧ t.ctxs = s.ctxs
          ∧ t.flight = s.flight ++ [.accessPerformed { acc := r.acc, own := false, refused, vals, bad }]
      (¬ live → exec .fabricRequestArrival s = .next s)
      ∧ (∀ f fs, live → refusals s r = f :: fs → r.acc.op ≠ .sector → ∃ t : State, answers t (f :: fs) [] false ∧ t.mem = s.mem)
      ∧ ∀ k, live → refusals s r = [] → r.acc.lanes = [k] → cacheAt s (laneCore x k.lane) k.attr k.pa = .nowhere →
        targetOf k.pa ≠ .window →
        (∀ sz, r.acc.op = .load sz →
          ∃ t : State, answers t [] [(k.lane, memNat s k.pa (isizeBytes sz))] false ∧ t.mem = s.mem)
        ∧ (r.acc.op = .sector → ∃ t : State, answers t [] [(k.lane, memNat s k.pa 32)] (memBad s k.pa 32) ∧ t.mem = s.mem)
        ∧ (∀ sz, r.acc.op = .store sz → ∃ t : State, answers t [] [(k.lane, 0)] false
          ∧ Stores s t k.pa (isizeBytes sz) (k.data.toNat % 2 ^ (8 * isizeBytes sz)))
        ∧ ∀ f w, r.acc.op = .atom f w → let old := memNat s k.pa (wBits w / 8)
          ∃ t : State, answers t [] [(k.lane, old)] false
            ∧ Stores s t k.pa (wBits w / 8) (atomNew f w old (k.data.toNat % 2 ^ wBits w)))
    ∧ (∀ pkg link f, s.ev = some (.flitReceive pkg link f) →
      let k := tget {} (getPkg s pkg).links link
      let got (t : State) := tget {} (getPkg t pkg).links link
      (crcOk f = false → ∃ t : State, exec .flitReceive s = .next t ∧ t.mem = s.mem ∧ t.flight = s.flight
        ∧ got t = { k with dropping := true, soft := k.soft + 1 } ∧ t.journeys = s.journeys)
      ∧ (crcOk f = true → f.seq ≠ k.recv → exec .flitReceive s = .next s)
      ∧ (crcOk f = true → f.seq = k.recv → ∃ t : State, exec .flitReceive s = .next t ∧ t.mem = s.mem
        ∧ t.flight = s.flight ∧ (got t).recv = (k.recv + 1) % 4096
        ∧ (got t).dropping = false ∧ (got t).frames = unacked f.ack k.frames
        ∧ (∀ v, v < 8 → tget 0 (got t).credits v = tget 0 k.credits v + f.credits.toNat / 16 ^ v % 16)
        ∧ t.journeys.length = s.journeys.length
        ∧ (∀ (n : Nat) (j : Journey), s.journeys[n]? = some j → t.journeys[n]? = some
            (if j.out.isSome = true ∧ (∃ u ∈ f.slots, u.unit = j.id) then { j with place := pkg, came := some link, out := none }
             else j))
        ∧ (link < 64 → (pkgReg t pkg 0x70).getLsbD link = true)))
    ∧ (∀ pkg link ack, s.ev = some (.flitReplay pkg link ack) → ∃ t : State, exec .flitReplay s = .next t ∧ t.mem = s.mem
      ∧ let fs := unacked ack (tget {} (getPkg s pkg).links link).frames
        (tget {} (getPkg t pkg).links link).frames = fs
        ∧ (Config.wire pkg link = none → t.flight = s.flight)
        ∧ ∀ q ql, Config.wire pkg link = some (q, ql) → t.flight = s.flight ++ fs.map (.flitReceive q ql ·))
    ∧ (∀ pkg link, s.ev = some (.linkFailure pkg link) → ∃ t : State, exec .linkFailure s = .next t
        ∧ (s.flight = [] → t.mem = s.mem ∧ t.ctxs = s.ctxs ∧ t.flight = [] ∧ (∀ d, d < 256 → linkTo t pkg d ≠ some link)
          ∧ (∀ d, d < 256 → linkTo s pkg d ≠ some link → linkTo t pkg d = linkTo s pkg d)
          ∧ (link < 64 → (pkgReg t pkg 0x70).getLsbD link = false)
          ∧ (tget {} (getPkg t pkg).links link).failed = true ∧ (tget {} (getPkg t pkg).links link).frames = [])
        ∧ (∀ r k dst, s.flight = [.fabricRequestArrival r] → r.acc.lanes = [k] → r.acc.op ≠ .sector → s.journeys = [] →
          legs s (.fabricRequestArrival r) = [(pkg, dst)] → linkTo s pkg dst = some link →
          t.mem = s.mem ∧ t.ctxs = s.ctxs ∧ t.flight = [.accessPerformed { acc := r.acc, own := false,
                                                                           refused := [(k.lane, 15, 5)], vals := [] }]))
    ∧ (∀ pkg dst v, s.ev = some (.routeChange pkg dst v) → dst < 256 → ∃ t : State, exec .routeChange s = .next t ∧ t.mem = s.mem
      ∧ t.ctxs = s.ctxs
      ∧ (s.flight.any (queuedFor s pkg dst) = true → t = { s with flight := s.flight ++ [.routeChange pkg dst v] })
      ∧ (s.flight.any (queuedFor s pkg dst) = false → t.flight = s.flight ∧ froute t pkg dst = v &&& 0x8F
        ∧ ∀ d, d < 256 → d ≠ dst → froute t pkg d = froute s pkg d))
    ∧ (∀ m, s.ev = some (.hostProxyDelivery m) → m.who = .nobody →
      let pkg := pkgOf m.dst
      let ctl := pkgReg s pkg 0x48
      let size := 2 ^ (6 + fld ctl 0 4)
      let head := fld (pkgReg s pkg 0x50) 0 32
      let tail := fld (pkgReg s pkg 0x54) 0 32
      let slot := hostPa pkg ((pkgReg s pkg 0x40).toNat + 64 * head)
      (ctl.getLsbD 31 = true → (head + 1) % size = tail % size → ∃ t : State, exec .hostProxyDelivery s = .next t ∧ t.mem = s.mem
        ∧ t.flight = s.flight ∧ ((∃ e ∈ (getCore s m.src).sendQ, e.msg = m) →
            ∃ e ∈ (getCore t m.src).sendQ, e.msg = m ∧ e.refused = true))
      ∧ (ctl.getLsbD 31 = true → (head + 1) % size ≠ tail % size → ∃ t : State, exec .hostProxyDelivery s = .next t
        ∧ memBytes t slot 64 = (if m.payload.length = 64 then m.payload else headerBytes s m ++ padBytes 48 m.payload)
        ∧ (∀ a, (a < slot ∨ slot + 64 ≤ a) → memByte t a = memByte s a)
        ∧ pkgReg t pkg 0x50 = BitVec.ofNat 64 ((head + 1) % size)
        ∧ (getPkg t pkg).msix = (getPkg s pkg).msix ++ [m.cls])
      ∧ (ctl.getLsbD 31 = false → m.notice = false → ∃ t : State, ∃ e : Msg, exec .hostProxyDelivery s = .next t ∧ t.mem = s.mem
        ∧ t.flight = s.flight ++ [.messageArrival e] ∧ e.dst = m.src ∧ e.cls = 0 ∧ at_ e.payload 16 1 = 1))
    ∧ (∀ pa bs, s.ev = some (.hostMemAccess pa bs) →
      (bs ≠ [] → targetOf pa = .hbm → targetOf (pa + bs.length - 1) = .hbm → ∃ t : State, exec .hostMemAccess s = .next t
        ∧ t.ctxs = s.ctxs ∧ memBytes t pa bs.length = bs
        ∧ ∀ a, (a < pa ∨ pa + bs.length ≤ a) → memByte t a = memByte s a)
      ∧ (targetOf pa ≠ .hbm → exec .hostMemAccess s = .next s))
    ∧ (∀ pkg pa n, s.ev = some (.hostMemRead pkg pa n) → 0 < n → targetOf pa = .hbm → targetOf (pa + n - 1) = .hbm →
      ∃ t : State, exec .hostMemAccess s = .next t ∧ t.mem = s.mem ∧ t.ctxs = s.ctxs
        ∧ (getPkg t pkg).reads = (getPkg s pkg).reads ++ [memBytes s pa n])
    ∧ (∀ pkg off n, s.ev = some (.bar0Read pkg off n) → ∃ t : State, exec .hostMemAccess s = .next t ∧ t.mem = s.mem
      ∧ t.ctxs = s.ctxs ∧ ∃ bs, (getPkg t pkg).reads = (getPkg s pkg).reads ++ [bs] ∧ bs.length = n
        ∧ (off < 0x400000 → bs = List.replicate n 0)
        ∧ ∀ r, off = 0x400000 + 8 * r → n = 8 → 8 * r < 0x10000 → regOf (8 * r) = 8 * r → regOf (8 * r + 4) = 8 * r →
            leNat bs = (pkgReg s pkg (8 * r)).toNat)
    ∧ (∀ pkg off b, s.ev = some (.bar0Write pkg off [b]) →
      (off < 0x400000 → exec .hostRegisterWrite s = .next s)
      ∧ (0x400000 ≤ off → off < 0x410000 → ∃ t : State, exec .hostRegisterWrite s = .next t ∧ t.mem = s.mem ∧ t.ctxs = s.ctxs
        ∧ let r := regOf (off - 0x400000)
          let m := hostMask s pkg r &&& (0xFF : DWord) <<< (8 * (off - 0x400000 - r))
          pkgReg t pkg r = (pkgReg s pkg r &&& ~~~m) ||| ((b.setWidth 64 <<< (8 * (off - 0x400000 - r))) &&& m)
            ∧ ∀ o, o ≠ r → pkgReg t pkg o = pkgReg s pkg o))
    ∧ ∀ pkg off v, s.ev = some (.hostRegisterWrite pkg off v) → ∃ t : State, exec .hostRegisterWrite s = .next t ∧ t.mem = s.mem
      ∧ t.ctxs = s.ctxs ∧ (∀ o, o ≠ off → pkgReg t pkg o = pkgReg s pkg o)
      ∧ (off = 0x40 → pkgReg t pkg off = (pkgReg s pkg off &&& 0xFFF) ||| (v &&& 0xFFFFFFFFFFFFF000))
      ∧ (off = 0x50 → pkgReg t pkg off = pkgReg s pkg off)

/-! ## The machine as a whole -/

/-- R150, R153 to R155: an instruction with queue operands goes on where every lane that executes it meets its condition; it
waits where a later event can meet it; else the queue-order fault, and for a faulty head entry the queue-entry fault. This is
so of every instruction that takes the operand (R65), once the checks that come before it are passed. -/
def Obligations.QueueOperandsGateTheirInstruction : Prop :=
  ∀ (i : Instr) (s : State),
    let o := i.opnds
    let lq (l : Nat) : Queue := laneQ (curLane s l) o.z.toNat
    let sq (l : Nat) : Queue := laneQ (curLane s l) (2 + o.x.toNat)
    let k : Nat := o.wait.toNat + 1
    let free (q : Queue) : Nat := 8 - q.fill - q.inflight
    let under (l : Nat) : Prop := o.zq = true ∧ (lq l).fill + (lq l).inflight < k
    let past (l : Nat) : Prop := o.xq = true ∧ free (sq l) + (sq l).inflight < 1
    let short (l : Nat) : Prop := (o.zq = true ∧ (lq l).fill < k) ∨ (o.xq = true ∧ free (sq l) < 1)
    let bad (l : Nat) : Prop := o.zq = true ∧ (qHead (lq l)).cause ≠ 0
    (queueGate o s = .go ↔ ∀ l ∈ execLanes s, ¬ short l ∧ ¬ bad l)
    ∧ ((o.zq = true → i.sig.zqOk = true) → (o.xq = true → i.sig.xqOk = true) → QueuesNext i s →
      ((∀ l ∈ execLanes s, ¬ under l ∧ ¬ past l) → (∃ l ∈ execLanes s, short l) → Waits i s)
      ∧ ∀ l, OneLane s l →
      (under l → exec i s
        = trap i s { vector := 6, reason := 1, info := o.z.setWidth 32, mask := maskOf [l] })
      ∧ (¬ under l → past l → exec i s
        = trap i s { vector := 6, reason := 2, info := BitVec.ofNat 32 (2 + o.x.toNat), mask := maskOf [l] })
      ∧ (¬ short l → bad l → exec i s
        = trap i s { vector := 7, reason := (qHead (lq l)).cause.toNat, info := o.z.setWidth 32, mask := maskOf [l] }))
    ∧ ∀ a : Lane, o.zq = true → (valsOf i a).s2 = ((qHead (laneQ a o.z.toNat)).data).setWidth 64

/-- R65, R107, R150, R153: what an instruction with a result changes in a lane: x alone, or a register pair, a b register or
the store queue that x names; the load queue of its source; and, complete, pc, the annul count and what the lane waits for. -/
def Obligations.ResultsWriteTheirDestinationAlone : Prop :=
  ∀ (i : Instr) (v : DWord) (a : Lane),
    let o := i.opnds
    let x : Nat := o.x.toNat
    let z : Nat := o.z.toNat
    let b := putX i v a
    let c := consume o a
    b = { a with regs := b.regs, b := b.b, queues := b.queues } ∧ c = { a with queues := c.queues }
    ∧ (o.xq = false → b.queues = a.queues ∧ (i.sig.x = .b ∨ b.b = a.b)
      ∧ (i.sig.x = .r → ∀ r, laneReg b r = if r = x then v.setWidth 32 else laneReg a r)
      ∧ (i.sig.x = .p → ∀ r, laneReg b r
          = if r = x then v.setWidth 32 else if r = x + 1 then v.extractLsb' 32 32 else laneReg a r)
      ∧ (i.sig.x = .b → b.regs = a.regs ∧ ∀ r, laneB b r = if r = x then v else laneB a r))
    ∧ (o.xq = true → b.regs = a.regs ∧ b.b = a.b ∧ ∀ q, laneQ b q = if q = 2 + x
        then { laneQ a q with ents := tset {} (laneQ a q).ents (laneQ a q).prod { data := v.setWidth 32, filled := true },
                              prod := ((laneQ a q).prod + 1) % 8, fill := (laneQ a q).fill + 1 }
        else laneQ a q)
    ∧ (o.zq = false → c = a)
    ∧ (o.zq = true → ∀ q, laneQ c q = if q = z
        then { laneQ a q with ents := tset {} (laneQ a q).ents (laneQ a q).cons {}, cons := ((laneQ a q).cons + 1) % 8,
                              fill := (laneQ a q).fill - 1 }
        else laneQ a q)
    ∧ ∀ s l, let p := passLane i s l a
        p = { a with pc := p.pc, annul := p.annul, wait := p.wait, hold := p.hold }

/-- R51, R54, R63 to R72: words of the spec's own examples, in both forms, and the instructions that they stand for. -/
def Obligations.DecodingReadsTheEncodings : Prop :=
  let k (l : List Half) : Except DecodeErr Instr := decode .dcore (l.flatMap halfBytes)
  let w (l : List Word) : Except DecodeErr Instr := decode .lcore (l.flatMap wordBytes)
  k [0x0C67] = .ok (.add { form := .k, x := 3, y := 7 })
  ∧ w [0x0C030C70] = .ok (.add { form := .w, x := 3, y := 3, z := 7 })
  ∧ k [0xF010, 0xF520, 0xB885]
    = .ok (.ld .w32 { form := .k, nImm := 1, reg := true, x := 4, y := 5, imm := 16, desc := { base := 2, scale := 2 } })
  ∧ w [0xB8041520, 0x10] = .ok (.ld .w32 { form := .w, x := 4, y := 5, imm := 16, desc := { base := 2, scale := 2 } })
  ∧ k [0xF009, 0xF068, 0xF2B3, 0x08D8] = .ok (.movi { form := .k, nImm := 3, x := 6, imm := 0x12345678 })
  ∧ k [0xFC04, 0x4889] = .ok (.skp .lt { form := .k, mod := true, x := 4, y := 9, g := { cnt := 1 } })
  ∧ w [0x00831070] = .ok (.fadd .f32 { form := .w, x := 3, y := 4, z := 7 })
  ∧ k [0xF8C3, 0xFC10, 0x00C9] = .ok (.cvt .f32 .bf16 { form := .k, mod := true, x := 6, y := 9, g := { sr := true } })
  ∧ k [0xF411, 0x0C04] = .ok (.add { form := .k, reg := true, x := 0, y := 4, zq := true, xq := true })
  ∧ w [0x25033620, 0x48000000]
    = .ok (.red .fadd .w32 { form := .w, x := 3, y := 13, desc := { base := 4, scale := 2 } })
  ∧ k [0xF948, 0xF560, 0x186A] = .ok (.rseg .fadd { form := .k, reg := true, x := 3, y := 10, z := 11 })
  ∧ w [0x21840101] = .ok (.gets { form := .w, x := 4, imm := 0x101 })
  ∧ k [0xF9C3, 0x2000] = .ok (.mqf 3 { form := .k })
  ∧ w [0x06060001] = .ok (.migrD { form := .w, x := 6 })
  ∧ k [0xFA41, 0xF001, 0x0000] = .ok (.cpyJoin { form := .k, nImm := 1, imm := 1 })
  ∧ k [0xFAC0, 0x0800] = .ok (.eret { form := .k })
  ∧ w [0x16C00000, 0x6000] = .ok (.tfence { form := .w, g := { scope := .pkg } })

/-- R50 to R68: what is encoded is decoded, whatever bytes follow it, at the length that moves the pc; and every instruction
that the decoder reads is well-formed. -/
def Obligations.EncodeThenDecode : Prop :=
  ∀ (kind : CoreKind) (i : Instr),
    (i.wf kind = true → ∀ rest, decode kind (encode i ++ rest) = .ok i ∧ (encode i).length = instrLen i)
    ∧ ∀ bs, decode kind bs = .ok i → i.wf kind = true

/-- The canonical form of memory is kept by every step, from every state that has it. -/
def Obligations.StepKeepsMemoryCanonical : Prop :=
  ∀ s t : State, s.memOk → step s = .next t → t.memOk

/-- What reset leaves: no context is bound, nothing is on its way, memory lists nothing, the stored values of the registers
are their reset values (R185, R287, R345, R392, R467, R469, R470, R485), and nothing but time moves until an event comes from
outside, but for a corrected error that is counted (log 151). What is said is of stored values: TLCAP (0x192) and the
registers of R19 to R22 and R207 that are read from other state, and LCARVE of a core without one, read otherwise (log 9).
Where the spec gives no reset value (TVEC, TCMP, MDROP and others), 0 is the model's choice (log 3). -/
def Obligations.ResetState : Prop :=
  State.reset.memOk ∧ State.reset.mem = [] ∧ State.reset.bad = [] ∧ State.reset.ctxs = [] ∧ State.reset.due = []
    ∧ State.reset.flight = [] ∧ State.reset.journeys = []
    ∧ (∀ p, stage State.reset p = 1 ∧ pkgReg State.reset p 0x10 = featOff.extractLsb' 0 64
        ∧ pkgReg State.reset p 0x18 = featOff.extractLsb' 64 64
        ∧ ∀ off, off ≠ 0 → off ≠ 0x10 → off ≠ 0x18 → pkgReg State.reset p off = 0)
    ∧ (∀ core idx, coreReg State.reset core idx = if idx = 0x102 then 0x04108208 else 0)
    ∧ (∀ u idx, trussReg State.reset u idx = if idx = 0x190 then 0x8002 else if idx = 0x193 then 0x401000 else 0)
    ∧ (∀ d idx, dieReg State.reset d idx = if idx = 0x1B0 then 3 else if idx = 0x1F1 ∨ idx = 0x1F2 then 16 else 0)
    ∧ (∀ b idx, bayReg State.reset b idx = 0)
    ∧ let z : State := { State.reset with now := 1, free := 1 }
      ∃ t : State, step State.reset = .next t ∧ t.now = 1 ∧ t.ctxs = [] ∧ t.mem = [] ∧ t.due = [] ∧ t.flight = []
        ∧ (softNow z = none → t = z) ∧ ∀ u, softNow z = some u → softCount t u = 1

/-- R50, R62, R77, R180, R191, R477, R480: a step runs what is due, or sends it on its way where it crosses packages; else it
runs the instruction of the lanes whose turn it is: the one that the fetched words at their pc decode to, from the state that
the fetch leaves, with the records of its issue after it; the turn itself counts only in the cores that serve it. The model's
choices: which step comes next is the order of its events (log 40), and a fetch that another package refuses raises vector 15
with no task of its own (log 149). -/
def Obligations.StepRunsTheDecodedInstruction : Prop :=
  ∀ (s : State),
    let z0 : State := { s with free := s.free + 1 }
    let served (z z1 : State) : Prop := z1 = { z with cores := z1.cores } ∧ ∀ k, (getCore z1 k).sys = (getCore z k).sys
    (∀ e rest, s.due = e :: rest → legs z0 e ≠ [] → step s = .next { z0 with due := rest, flight := s.flight ++ [e] })
    ∧ (∀ e rest, s.due = e :: rest → legs z0 e = [] → step s
      = match exec e.kind { z0 with due := rest, ev := some e } with
        | .next t => .next { t with ev := none }
        | .fault f => .fault f
        | .refused r => .refused r)
    ∧ (∀ z, s.due = [] → urgent z0 = none → pickLeave z0 = some z → step s = .next z)
    ∧ (∀ core i z, TurnOf z0 core → turn z0 core = .run i z → RunsAs i z s)
    ∧ (∀ c ls, AtInstruction z0 c ls →
      (∀ i z, fetchCur (asIssuer z0 c ls) = (z, .ok i) → issue z0 c ls = .run i z)
      ∧ ∀ f z, fetchCur (asIssuer z0 c ls) = (z, .error f) → issue z0 c ls = .still (trapAll z f))
    ∧ (∀ c ls i, before (getLane (getCtx z0 c) (ls.headD 0)) = false → (getLane (getCtx z0 c) (ls.headD 0)).inst = some i →
      issue z0 c ls = .run i (asIssuer z0 c ls))
    ∧ (∀ core c, coreKind core ≠ .lcore → boundAt z0 core (turnSlot z0 core) = some c → (getCtx s c).tables = none →
      unitState z0 (getCtx s c) (unitOf z0 (getCtx s c) core) = 1 →
      (∀ i z, issue z0 c (unitOf z0 (getCtx s c) core) = .run i z → ∃ z1, turn z0 core = .run i z1 ∧ served z z1)
      ∧ ∀ z, issue z0 c (unitOf z0 (getCtx s c) core) = .still z →
          ∃ t, turn z0 core = .still t ∧ t = { z with cores := t.cores })
    ∧ (∀ core c rest, coreKind core = .lcore → (lOrder z0 core).filter (fun d => lState z0 d == 1) = c :: rest →
      ∀ i z, issue z0 c (unitOf z0 (getCtx s c) core) = .run i z → ∃ z1, turn z0 core = .run i z1 ∧ served z z1)
    ∧ ∀ (kind : CoreKind) (need core : Nat) (ttb va : DWord) (priv : Bool) (fuel : Nat) (bs : List Byte) (p : TlbEnt) ws pa,
      let n := unitBytes kind
      translate s core ttb (wordAt va bs.length) .fetch priv = .ok (p, ws, pa) →
      fetchFail p pa = none → heldWords s core pa = [] → memBad s pa n = false →
      (accPasses s (pkgOf core) 0 pa n .fetch = false → fetchInstr kind need core ttb priv va (fuel + 1) s bs
        = (keepWalk s s core ttb (wordAt va bs.length),
           .error { vector := 15, reason := remoteReason s (pkgOf core) 0 pa n .fetch, addr := wordAt va bs.length }))
      ∧ (accPasses s (pkgOf core) 0 pa n .fetch = true → ∃ s1 : State, s1 = { s with bays := s1.bays, cores := s1.cores, trusses := s1.trusses }
        ∧ fetchInstr kind need core ttb priv va (fuel + 1) s bs
          = match decodeNeed kind need (bs ++ leBytes n (memNat s pa n)) with
            | .ok i => (s1, .ok i)
            | .error .truncated => fetchInstr kind need core ttb priv va fuel s1 (bs ++ leBytes n (memNat s pa n))
            | .error e => (s1, .error { vector := 1, reason := decodeErrReason e }))
end

