-- ==== Sys2Proof/Laws/Dispatch.lean ====
section
/-! SUPPORT. What the dispatch runs for each constructor. -/

namespace Sys2Proof.Machine

open Sys2Proof

theorem exec_mov (o : Opnds) (s : State) : exec (.mov o) s = execMov o s := rfl
theorem exec_movi (o : Opnds) (s : State) : exec (.movi o) s = execMovi o s := rfl
theorem exec_add (o : Opnds) (s : State) : exec (.add o) s = execAdd o s := rfl
theorem exec_addi (o : Opnds) (s : State) : exec (.addi o) s = execAddi o s := rfl
theorem exec_sub (o : Opnds) (s : State) : exec (.sub o) s = execSub o s := rfl
theorem exec_and (o : Opnds) (s : State) : exec (.and o) s = execAnd o s := rfl
theorem exec_or (o : Opnds) (s : State) : exec (.or o) s = execOr o s := rfl
theorem exec_xor (o : Opnds) (s : State) : exec (.xor o) s = execXor o s := rfl
theorem exec_not (o : Opnds) (s : State) : exec (.not o) s = execNot o s := rfl
theorem exec_shlReg (o : Opnds) (s : State) : exec (.shlReg o) s = execShlReg o s := rfl
theorem exec_shlImm (o : Opnds) (s : State) : exec (.shlImm o) s = execShlImm o s := rfl
theorem exec_shrReg (o : Opnds) (s : State) : exec (.shrReg o) s = execShrReg o s := rfl
theorem exec_shrImm (o : Opnds) (s : State) : exec (.shrImm o) s = execShrImm o s := rfl
theorem exec_sarReg (o : Opnds) (s : State) : exec (.sarReg o) s = execSarReg o s := rfl
theorem exec_sarImm (o : Opnds) (s : State) : exec (.sarImm o) s = execSarImm o s := rfl
theorem exec_skp (c : Cond) (o : Opnds) (s : State) : exec (.skp c o) s = execSkp c o s := rfl
theorem exec_skpi (c : Cond) (o : Opnds) (s : State) : exec (.skpi c o) s = execSkpi c o s := rfl
theorem exec_skbSet (o : Opnds) (s : State) : exec (.skbSet o) s = execSkbSet o s := rfl
theorem exec_skbClr (o : Opnds) (s : State) : exec (.skbClr o) s = execSkbClr o s := rfl
theorem exec_jmp (o : Opnds) (s : State) : exec (.jmp o) s = execJmp o s := rfl
theorem exec_call (o : Opnds) (s : State) : exec (.call o) s = execCall o s := rfl
theorem exec_calli (o : Opnds) (s : State) : exec (.calli o) s = execCalli o s := rfl
theorem exec_ret (o : Opnds) (s : State) : exec (.ret o) s = execRet o s := rfl
theorem exec_mark (o : Opnds) (s : State) : exec (.mark o) s = execMark o s := rfl
theorem exec_join (o : Opnds) (s : State) : exec (.join o) s = execJoin o s := rfl
theorem exec_frame (o : Opnds) (s : State) : exec (.frame o) s = execFrame o s := rfl
theorem exec_nop (o : Opnds) (s : State) : exec (.nop o) s = execNop o s := rfl
theorem exec_ld (sz : ISize) (o : Opnds) (s : State) : exec (.ld sz o) s = execLd sz o s := rfl
theorem exec_st (sz : ISize) (o : Opnds) (s : State) : exec (.st sz o) s = execSt sz o s := rfl
theorem exec_lea (o : Opnds) (s : State) : exec (.lea o) s = execLea o s := rfl
theorem exec_br (o : Opnds) (s : State) : exec (.br o) s = execBr o s := rfl
theorem exec_brW (o : Opnds) (s : State) : exec (.brW o) s = execBrW o s := rfl
theorem exec_adc (o : Opnds) (s : State) : exec (.adc o) s = execAdc o s := rfl
theorem exec_sbc (o : Opnds) (s : State) : exec (.sbc o) s = execSbc o s := rfl
theorem exec_adds (w : Width) (o : Opnds) (s : State) : exec (.adds w o) s = execAdds w o s := rfl
theorem exec_subs (w : Width) (o : Opnds) (s : State) : exec (.subs w o) s = execSubs w o s := rfl
theorem exec_mul (w : Width) (o : Opnds) (s : State) : exec (.mul w o) s = execMul w o s := rfl
theorem exec_mulh (w : Width) (o : Opnds) (s : State) : exec (.mulh w o) s = execMulh w o s := rfl
theorem exec_mulhn (w : Width) (o : Opnds) (s : State) : exec (.mulhn w o) s = execMulhn w o s := rfl
theorem exec_mulw (w : Width) (o : Opnds) (s : State) : exec (.mulw w o) s = execMulw w o s := rfl
theorem exec_div (w : Width) (o : Opnds) (s : State) : exec (.div w o) s = execDiv w o s := rfl
theorem exec_divn (w : Width) (o : Opnds) (s : State) : exec (.divn w o) s = execDivn w o s := rfl
theorem exec_rem (w : Width) (o : Opnds) (s : State) : exec (.rem w o) s = execRem w o s := rfl
theorem exec_remn (w : Width) (o : Opnds) (s : State) : exec (.remn w o) s = execRemn w o s := rfl
theorem exec_min (w : Width) (o : Opnds) (s : State) : exec (.min w o) s = execMin w o s := rfl
theorem exec_max (w : Width) (o : Opnds) (s : State) : exec (.max w o) s = execMax w o s := rfl
theorem exec_minn (w : Width) (o : Opnds) (s : State) : exec (.minn w o) s = execMinn w o s := rfl
theorem exec_maxn (w : Width) (o : Opnds) (s : State) : exec (.maxn w o) s = execMaxn w o s := rfl
theorem exec_abs (w : Width) (o : Opnds) (s : State) : exec (.abs w o) s = execAbs w o s := rfl
theorem exec_neg (w : Width) (o : Opnds) (s : State) : exec (.neg w o) s = execNeg w o s := rfl
theorem exec_andn (w : Width) (o : Opnds) (s : State) : exec (.andn w o) s = execAndn w o s := rfl
theorem exec_orn (w : Width) (o : Opnds) (s : State) : exec (.orn w o) s = execOrn w o s := rfl
theorem exec_rolReg (o : Opnds) (s : State) : exec (.rolReg o) s = execRolReg o s := rfl
theorem exec_rolImm (o : Opnds) (s : State) : exec (.rolImm o) s = execRolImm o s := rfl
theorem exec_rorReg (o : Opnds) (s : State) : exec (.rorReg o) s = execRorReg o s := rfl
theorem exec_rorImm (o : Opnds) (s : State) : exec (.rorImm o) s = execRorImm o s := rfl
theorem exec_clz (w : Width) (o : Opnds) (s : State) : exec (.clz w o) s = execClz w o s := rfl
theorem exec_ctz (w : Width) (o : Opnds) (s : State) : exec (.ctz w o) s = execCtz w o s := rfl
theorem exec_popc (w : Width) (o : Opnds) (s : State) : exec (.popc w o) s = execPopc w o s := rfl
theorem exec_brev (w : Width) (o : Opnds) (s : State) : exec (.brev w o) s = execBrev w o s := rfl
theorem exec_bswp (w : Width) (o : Opnds) (s : State) : exec (.bswp w o) s = execBswp w o s := rfl
theorem exec_bfx (o : Opnds) (s : State) : exec (.bfx o) s = execBfx o s := rfl
theorem exec_bfxn (o : Opnds) (s : State) : exec (.bfxn o) s = execBfxn o s := rfl
theorem exec_bfi (o : Opnds) (s : State) : exec (.bfi o) s = execBfi o s := rfl
theorem exec_sel (k : BitVec 4) (o : Opnds) (s : State) : exec (.sel k o) s = execSel k o s := rfl
theorem exec_movbToG (o : Opnds) (s : State) : exec (.movbToG o) s = execMovbToG o s := rfl
theorem exec_movbToB (o : Opnds) (s : State) : exec (.movbToB o) s = execMovbToB o s := rfl
theorem exec_setc (c : Cond) (o : Opnds) (s : State) : exec (.setc c o) s = execSetc c o s := rfl
theorem exec_setb (c : Cond) (o : Opnds) (s : State) : exec (.setb c o) s = execSetb c o s := rfl
theorem exec_fadd (t : FType) (o : Opnds) (s : State) : exec (.fadd t o) s = execFadd t o s := rfl
theorem exec_fsub (t : FType) (o : Opnds) (s : State) : exec (.fsub t o) s = execFsub t o s := rfl
theorem exec_fmul (t : FType) (o : Opnds) (s : State) : exec (.fmul t o) s = execFmul t o s := rfl
theorem exec_fma (t : FType) (o : Opnds) (s : State) : exec (.fma t o) s = execFma t o s := rfl
theorem exec_fnma (t : FType) (o : Opnds) (s : State) : exec (.fnma t o) s = execFnma t o s := rfl
theorem exec_fmin (t : FType) (o : Opnds) (s : State) : exec (.fmin t o) s = execFmin t o s := rfl
theorem exec_fmax (t : FType) (o : Opnds) (s : State) : exec (.fmax t o) s = execFmax t o s := rfl
theorem exec_fabs (t : FType) (o : Opnds) (s : State) : exec (.fabs t o) s = execFabs t o s := rfl
theorem exec_fneg (t : FType) (o : Opnds) (s : State) : exec (.fneg t o) s = execFneg t o s := rfl
theorem exec_fdiv (t : FType) (o : Opnds) (s : State) : exec (.fdiv t o) s = execFdiv t o s := rfl
theorem exec_fsqrt (t : FType) (o : Opnds) (s : State) : exec (.fsqrt t o) s = execFsqrt t o s := rfl
theorem exec_frcp (t : FType) (o : Opnds) (s : State) : exec (.frcp t o) s = execFrcp t o s := rfl
theorem exec_frsq (t : FType) (o : Opnds) (s : State) : exec (.frsq t o) s = execFrsq t o s := rfl
theorem exec_fexp2 (t : FType) (o : Opnds) (s : State) : exec (.fexp2 t o) s = execFexp2 t o s := rfl
theorem exec_flog2 (t : FType) (o : Opnds) (s : State) : exec (.flog2 t o) s = execFlog2 t o s := rfl
theorem exec_fsin (t : FType) (o : Opnds) (s : State) : exec (.fsin t o) s = execFsin t o s := rfl
theorem exec_fcos (t : FType) (o : Opnds) (s : State) : exec (.fcos t o) s = execFcos t o s := rfl
theorem exec_fcls (t : FType) (o : Opnds) (s : State) : exec (.fcls t o) s = execFcls t o s := rfl
theorem exec_fskp (c : FCond) (t : FType) (o : Opnds) (s : State) : exec (.fskp c t o) s = execFskp c t o s := rfl
theorem exec_fsetc (c : FCond) (t : FType) (o : Opnds) (s : State) : exec (.fsetc c t o) s = execFsetc c t o s := rfl
theorem exec_frnd (t : FType) (o : Opnds) (s : State) : exec (.frnd t o) s = execFrnd t o s := rfl
theorem exec_cvt (src : FType) (dst : FType) (o : Opnds) (s : State) : exec (.cvt src dst o) s = execCvt src dst o s := rfl
theorem exec_cvti (n : ISize) (t : FType) (o : Opnds) (s : State) : exec (.cvti n t o) s = execCvti n t o s := rfl
theorem exec_cvtf (n : ISize) (t : FType) (o : Opnds) (s : State) : exec (.cvtf n t o) s = execCvtf n t o s := rfl
theorem exec_enc8 (t : FType) (o : Opnds) (s : State) : exec (.enc8 t o) s = execEnc8 t o s := rfl
theorem exec_dec8 (t : FType) (o : Opnds) (s : State) : exec (.dec8 t o) s = execDec8 t o s := rfl
theorem exec_ldq (sz : ISize) (o : Opnds) (s : State) : exec (.ldq sz o) s = execLdq sz o s := rfl
theorem exec_stq (sz : ISize) (o : Opnds) (s : State) : exec (.stq sz o) s = execStq sz o s := rfl
theorem exec_qadv (k : BitVec 3) (o : Opnds) (s : State) : exec (.qadv k o) s = execQadv k o s := rfl
theorem exec_qrst (o : Opnds) (s : State) : exec (.qrst o) s = execQrst o s := rfl
theorem exec_pref (t : BitVec 2) (o : Opnds) (s : State) : exec (.pref t o) s = execPref t o s := rfl
theorem exec_ldl (sz : ISize) (o : Opnds) (s : State) : exec (.ldl sz o) s = execLdl sz o s := rfl
theorem exec_stl (sz : ISize) (o : Opnds) (s : State) : exec (.stl sz o) s = execStl sz o s := rfl
theorem exec_atom (op : AtomOp) (w : Width) (o : Opnds) (s : State) : exec (.atom op w o) s = execAtom op w o s := rfl
theorem exec_cas (w : Width) (o : Opnds) (s : State) : exec (.cas w o) s = execCas w o s := rfl
theorem exec_red (op : AtomOp) (w : Width) (o : Opnds) (s : State) : exec (.red op w o) s = execRed op w o s := rfl
theorem exec_afn (f : BitVec 4) (w : Width) (o : Opnds) (s : State) : exec (.afn f w o) s = execAfn f w o s := rfl
theorem exec_fence (o : Opnds) (s : State) : exec (.fence o) s = execFence o s := rfl
theorem exec_fenceAcq (o : Opnds) (s : State) : exec (.fenceAcq o) s = execFenceAcq o s := rfl
theorem exec_fenceRel (o : Opnds) (s : State) : exec (.fenceRel o) s = execFenceRel o s := rfl
theorem exec_clasp (n : BitVec 2) (o : Opnds) (s : State) : exec (.clasp n o) s = execClasp n o s := rfl
theorem exec_unclasp (o : Opnds) (s : State) : exec (.unclasp o) s = execUnclasp o s := rfl
theorem exec_unclaspJoin (o : Opnds) (s : State) : exec (.unclaspJoin o) s = execUnclaspJoin o s := rfl
theorem exec_lane (o : Opnds) (s : State) : exec (.lane o) s = execLane o s := rfl
theorem exec_laneAct (o : Opnds) (s : State) : exec (.laneAct o) s = execLaneAct o s := rfl
theorem exec_laneLive (o : Opnds) (s : State) : exec (.laneLive o) s = execLaneLive o s := rfl
theorem exec_width (o : Opnds) (s : State) : exec (.width o) s = execWidth o s := rfl
theorem exec_shfl (m : ShflMode) (o : Opnds) (s : State) : exec (.shfl m o) s = execShfl m o s := rfl
theorem exec_vote (m : VoteMode) (o : Opnds) (s : State) : exec (.vote m o) s = execVote m o s := rfl
theorem exec_rseg (f : LaneOp) (o : Opnds) (s : State) : exec (.rseg f o) s = execRseg f o s := rfl
theorem exec_scan (f : LaneOp) (o : Opnds) (s : State) : exec (.scan f o) s = execScan f o s := rfl
theorem exec_bar (o : Opnds) (s : State) : exec (.bar o) s = execBar o s := rfl
theorem exec_cmodePrivate (o : Opnds) (s : State) : exec (.cmodePrivate o) s = execCmodePrivate o s := rfl
theorem exec_cmodeShared (o : Opnds) (s : State) : exec (.cmodeShared o) s = execCmodeShared o s := rfl
theorem exec_spawnCtx (o : Opnds) (s : State) : exec (.spawnCtx o) s = execSpawnCtx o s := rfl
theorem exec_spawnCourse (o : Opnds) (s : State) : exec (.spawnCourse o) s = execSpawnCourse o s := rfl
theorem exec_quit (o : Opnds) (s : State) : exec (.quit o) s = execQuit o s := rfl
theorem exec_reapPoll (o : Opnds) (s : State) : exec (.reapPoll o) s = execReapPoll o s := rfl
theorem exec_reapWait (o : Opnds) (s : State) : exec (.reapWait o) s = execReapWait o s := rfl
theorem exec_reapForce (o : Opnds) (s : State) : exec (.reapForce o) s = execReapForce o s := rfl
theorem exec_sleep (o : Opnds) (s : State) : exec (.sleep o) s = execSleep o s := rfl
theorem exec_wake (o : Opnds) (s : State) : exec (.wake o) s = execWake o s := rfl
theorem exec_yld (o : Opnds) (s : State) : exec (.yld o) s = execYld o s := rfl
theorem exec_yldCc (o : Opnds) (s : State) : exec (.yldCc o) s = execYldCc o s := rfl
theorem exec_spin (w : Width) (o : Opnds) (s : State) : exec (.spin w o) s = execSpin w o s := rfl
theorem exec_wspBind (o : Opnds) (s : State) : exec (.wspBind o) s = execWspBind o s := rfl
theorem exec_wspRead (o : Opnds) (s : State) : exec (.wspRead o) s = execWspRead o s := rfl
theorem exec_gets (o : Opnds) (s : State) : exec (.gets o) s = execGets o s := rfl
theorem exec_sets (o : Opnds) (s : State) : exec (.sets o) s = execSets o s := rfl
theorem exec_cinvData (o : Opnds) (s : State) : exec (.cinvData o) s = execCinvData o s := rfl
theorem exec_cinvCode (o : Opnds) (s : State) : exec (.cinvCode o) s = execCinvCode o s := rfl
theorem exec_cinvAll (o : Opnds) (s : State) : exec (.cinvAll o) s = execCinvAll o s := rfl
theorem exec_cwbLine (o : Opnds) (s : State) : exec (.cwbLine o) s = execCwbLine o s := rfl
theorem exec_cwbAll (o : Opnds) (s : State) : exec (.cwbAll o) s = execCwbAll o s := rfl
theorem exec_msend (c : BitVec 3) (fs : Bool) (o : Opnds) (s : State) : exec (.msend c fs o) s = execMsend c fs o s := rfl
theorem exec_mbind (c : BitVec 3) (o : Opnds) (s : State) : exec (.mbind c o) s = execMbind c o s := rfl
theorem exec_mbindKeep (c : BitVec 3) (o : Opnds) (s : State) : exec (.mbindKeep c o) s = execMbindKeep c o s := rfl
theorem exec_mbindUn (c : BitVec 3) (keep : Bool) (o : Opnds) (s : State) : exec (.mbindUn c keep o) s = execMbindUn c keep o s := rfl
theorem exec_mwaitAll (c : BitVec 3) (o : Opnds) (s : State) : exec (.mwaitAll c o) s = execMwaitAll c o s := rfl
theorem exec_mwaitAny (c : BitVec 3) (o : Opnds) (s : State) : exec (.mwaitAny c o) s = execMwaitAny c o s := rfl
theorem exec_mack (c : BitVec 3) (o : Opnds) (s : State) : exec (.mack c o) s = execMack c o s := rfl
theorem exec_mfmt (o : Opnds) (s : State) : exec (.mfmt o) s = execMfmt o s := rfl
theorem exec_mtab (tbl : Bool) (t4 : Bool) (o : Opnds) (s : State) : exec (.mtab tbl t4 o) s = execMtab tbl t4 o s := rfl
theorem exec_mtabPreset (tbl : Bool) (t4 : Bool) (p : Preset) (o : Opnds) (s : State) : exec (.mtabPreset tbl t4 p o) s = execMtabPreset tbl t4 p o s := rfl
theorem exec_mma (sh : Shape) (o : Opnds) (s : State) : exec (.mma sh o) s = execMma sh o s := rfl
theorem exec_mmag (sh : Shape) (o : Opnds) (s : State) : exec (.mmag sh o) s = execMmag sh o s := rfl
theorem exec_mzro (sh : Shape) (o : Opnds) (s : State) : exec (.mzro sh o) s = execMzro sh o s := rfl
theorem exec_mstc (sh : Shape) (o : Opnds) (s : State) : exec (.mstc sh o) s = execMstc sh o s := rfl
theorem exec_mldc (sh : Shape) (o : Opnds) (s : State) : exec (.mldc sh o) s = execMldc sh o s := rfl
theorem exec_gath (lg : BitVec 3) (i32 : Bool) (o : Opnds) (s : State) : exec (.gath lg i32 o) s = execGath lg i32 o s := rfl
theorem exec_mqf (mask : BitVec 3) (o : Opnds) (s : State) : exec (.mqf mask o) s = execMqf mask o s := rfl
theorem exec_lease (o : Opnds) (s : State) : exec (.lease o) s = execLease o s := rfl
theorem exec_leaseRd (o : Opnds) (s : State) : exec (.leaseRd o) s = execLeaseRd o s := rfl
theorem exec_migrL (o : Opnds) (s : State) : exec (.migrL o) s = execMigrL o s := rfl
theorem exec_migrD (o : Opnds) (s : State) : exec (.migrD o) s = execMigrD o s := rfl
theorem exec_migrAny (o : Opnds) (s : State) : exec (.migrAny o) s = execMigrAny o s := rfl
theorem exec_wpush (o : Opnds) (s : State) : exec (.wpush o) s = execWpush o s := rfl
theorem exec_wpopTail (o : Opnds) (s : State) : exec (.wpopTail o) s = execWpopTail o s := rfl
theorem exec_wpopHead (o : Opnds) (s : State) : exec (.wpopHead o) s = execWpopHead o s := rfl
theorem exec_mcast (o : Opnds) (s : State) : exec (.mcast o) s = execMcast o s := rfl
theorem exec_rredLast (o : Opnds) (s : State) : exec (.rredLast o) s = execRredLast o s := rfl
theorem exec_rredAll (o : Opnds) (s : State) : exec (.rredAll o) s = execRredAll o s := rfl
theorem exec_lnch (o : Opnds) (s : State) : exec (.lnch o) s = execLnch o s := rfl
theorem exec_lnchHw (o : Opnds) (s : State) : exec (.lnchHw o) s = execLnchHw o s := rfl
theorem exec_gsub (o : Opnds) (s : State) : exec (.gsub o) s = execGsub o s := rfl
theorem exec_gdone (o : Opnds) (s : State) : exec (.gdone o) s = execGdone o s := rfl
theorem exec_gdoneFail (o : Opnds) (s : State) : exec (.gdoneFail o) s = execGdoneFail o s := rfl
theorem exec_cpy (o : Opnds) (s : State) : exec (.cpy o) s = execCpy o s := rfl
theorem exec_cpyJoin (o : Opnds) (s : State) : exec (.cpyJoin o) s = execCpyJoin o s := rfl
theorem exec_cpyr (o : Opnds) (s : State) : exec (.cpyr o) s = execCpyr o s := rfl
theorem exec_tsend (o : Opnds) (s : State) : exec (.tsend o) s = execTsend o s := rfl
theorem exec_tget (o : Opnds) (s : State) : exec (.tget o) s = execTget o s := rfl
theorem exec_fput (o : Opnds) (s : State) : exec (.fput o) s = execFput o s := rfl
theorem exec_fget (o : Opnds) (s : State) : exec (.fget o) s = execFget o s := rfl
theorem exec_xfence (o : Opnds) (s : State) : exec (.xfence o) s = execXfence o s := rfl
theorem exec_xfencePkg (o : Opnds) (s : State) : exec (.xfencePkg o) s = execXfencePkg o s := rfl
theorem exec_trap (o : Opnds) (s : State) : exec (.trap o) s = execTrap o s := rfl
theorem exec_sysc (o : Opnds) (s : State) : exec (.sysc o) s = execSysc o s := rfl
theorem exec_eret (o : Opnds) (s : State) : exec (.eret o) s = execEret o s := rfl
theorem exec_brk (o : Opnds) (s : State) : exec (.brk o) s = execBrk o s := rfl
theorem exec_tmark (o : Opnds) (s : State) : exec (.tmark o) s = execTmark o s := rfl
theorem exec_tfence (o : Opnds) (s : State) : exec (.tfence o) s = execTfence o s := rfl
theorem exec_tlbiPage (o : Opnds) (s : State) : exec (.tlbiPage o) s = execTlbiPage o s := rfl
theorem exec_tlbiAsid (o : Opnds) (s : State) : exec (.tlbiAsid o) s = execTlbiAsid o s := rfl
theorem exec_tlbiAll (o : Opnds) (s : State) : exec (.tlbiAll o) s = execTlbiAll o s := rfl
theorem exec_queueLoadFill (s : State) : exec .queueLoadFill s = execQueueLoadFill s := rfl
theorem exec_storeQueuePerform (s : State) : exec .storeQueuePerform s = execStoreQueuePerform s := rfl
theorem exec_relaxedLoadReturn (s : State) : exec .relaxedLoadReturn s = execRelaxedLoadReturn s := rfl
theorem exec_relaxedStorePerform (s : State) : exec .relaxedStorePerform s = execRelaxedStorePerform s := rfl
theorem exec_multiRotationHoldEnd (s : State) : exec .multiRotationHoldEnd s = execMultiRotationHoldEnd s := rfl
theorem exec_pageWalk (s : State) : exec .pageWalk s = execPageWalk s := rfl
theorem exec_homeFill (s : State) : exec .homeFill s = execHomeFill s := rfl
theorem exec_journalEntryPerform (s : State) : exec .journalEntryPerform s = execJournalEntryPerform s := rfl
theorem exec_journalRefusal (s : State) : exec .journalRefusal s = execJournalRefusal s := rfl
theorem exec_journalRefusalTrap (s : State) : exec .journalRefusalTrap s = execJournalRefusalTrap s := rfl
theorem exec_spawnRecordArrival (s : State) : exec .spawnRecordArrival s = execSpawnRecordArrival s := rfl
theorem exec_spawnAnswer (s : State) : exec .spawnAnswer s = execSpawnAnswer s := rfl
theorem exec_spawnQueueStart (s : State) : exec .spawnQueueStart s = execSpawnQueueStart s := rfl
theorem exec_exitRecordPost (s : State) : exec .exitRecordPost s = execExitRecordPost s := rfl
theorem exec_wakeArrival (s : State) : exec .wakeArrival s = execWakeArrival s := rfl
theorem exec_sleepTimeout (s : State) : exec .sleepTimeout s = execSleepTimeout s := rfl
theorem exec_spinWake (s : State) : exec .spinWake s = execSpinWake s := rfl
theorem exec_yldCcWake (s : State) : exec .yldCcWake s = execYldCcWake s := rfl
theorem exec_messageArrival (s : State) : exec .messageArrival s = execMessageArrival s := rfl
theorem exec_messageRetry (s : State) : exec .messageRetry s = execMessageRetry s := rfl
theorem exec_windowWrite (s : State) : exec .windowWrite s = execWindowWrite s := rfl
theorem exec_timerCompare (s : State) : exec .timerCompare s = execTimerCompare s := rfl
theorem exec_interruptEntry (s : State) : exec .interruptEntry s = execInterruptEntry s := rfl
theorem exec_preemption (s : State) : exec .preemption s = execPreemption s := rfl
theorem exec_contextResume (s : State) : exec .contextResume s = execContextResume s := rfl
theorem exec_killRequestArrival (s : State) : exec .killRequestArrival s = execKillRequestArrival s := rfl
theorem exec_deathNotice (s : State) : exec .deathNotice s = execDeathNotice s := rfl
theorem exec_breakpointStop (s : State) : exec .breakpointStop s = execBreakpointStop s := rfl
theorem exec_haltStop (s : State) : exec .haltStop s = execHaltStop s := rfl
theorem exec_singleStepStop (s : State) : exec .singleStepStop s = execSingleStepStop s := rfl
theorem exec_bezelSelect (s : State) : exec .bezelSelect s = execBezelSelect s := rfl
theorem exec_summaryPeriod (s : State) : exec .summaryPeriod s = execSummaryPeriod s := rfl
theorem exec_fusion (s : State) : exec .fusion s = execFusion s := rfl
theorem exec_refusion (s : State) : exec .refusion s = execRefusion s := rfl
theorem exec_barRelease (s : State) : exec .barRelease s = execBarRelease s := rfl
theorem exec_engineEntryStart (s : State) : exec .engineEntryStart s = execEngineEntryStart s := rfl
theorem exec_engineEntryComplete (s : State) : exec .engineEntryComplete s = execEngineEntryComplete s := rfl
theorem exec_homePartialAdd (s : State) : exec .homePartialAdd s = execHomePartialAdd s := rfl
theorem exec_routerDelivery (s : State) : exec .routerDelivery s = execRouterDelivery s := rfl
theorem exec_reductionStep (s : State) : exec .reductionStep s = execReductionStep s := rfl
theorem exec_launchAdmission (s : State) : exec .launchAdmission s = execLaunchAdmission s := rfl
theorem exec_bundleResident (s : State) : exec .bundleResident s = execBundleResident s := rfl
theorem exec_launchAnswer (s : State) : exec .launchAnswer s = execLaunchAnswer s := rfl
theorem exec_graphLoad (s : State) : exec .graphLoad s = execGraphLoad s := rfl
theorem exec_purlinNodeComplete (s : State) : exec .purlinNodeComplete s = execPurlinNodeComplete s := rfl
theorem exec_parkedFaultAnswer (s : State) : exec .parkedFaultAnswer s = execParkedFaultAnswer s := rfl
theorem exec_courseActivation (s : State) : exec .courseActivation s = execCourseActivation s := rfl
theorem exec_fairnessDue (s : State) : exec .fairnessDue s = execFairnessDue s := rfl
theorem exec_fairnessDisplacement (s : State) : exec .fairnessDisplacement s = execFairnessDisplacement s := rfl
theorem exec_migration (s : State) : exec .migration s = execMigration s := rfl
theorem exec_copyEntryComplete (s : State) : exec .copyEntryComplete s = execCopyEntryComplete s := rfl
theorem exec_thermalTrip (s : State) : exec .thermalTrip s = execThermalTrip s := rfl
theorem exec_softErrorThreshold (s : State) : exec .softErrorThreshold s = execSoftErrorThreshold s := rfl
theorem exec_softErrorWindowEnd (s : State) : exec .softErrorWindowEnd s = execSoftErrorWindowEnd s := rfl
theorem exec_traceDrain (s : State) : exec .traceDrain s = execTraceDrain s := rfl
theorem exec_reset (s : State) : exec .reset s = execReset s := rfl
theorem exec_managementBoot (s : State) : exec .managementBoot s = execManagementBoot s := rfl
theorem exec_signatureCheck (s : State) : exec .signatureCheck s = execSignatureCheck s := rfl
theorem exec_firmwareLoad (s : State) : exec .firmwareLoad s = execFirmwareLoad s := rfl
theorem exec_hbmTraining (s : State) : exec .hbmTraining s = execHbmTraining s := rfl
theorem exec_featureNegotiation (s : State) : exec .featureNegotiation s = execFeatureNegotiation s := rfl
theorem exec_keeperRelease (s : State) : exec .keeperRelease s = execKeeperRelease s := rfl
theorem exec_attestation (s : State) : exec .attestation s = execAttestation s := rfl
theorem exec_flitReceive (s : State) : exec .flitReceive s = execFlitReceive s := rfl
theorem exec_linkFailure (s : State) : exec .linkFailure s = execLinkFailure s := rfl
theorem exec_routeChange (s : State) : exec .routeChange s = execRouteChange s := rfl
theorem exec_fabricRequestArrival (s : State) : exec .fabricRequestArrival s = execFabricRequestArrival s := rfl
theorem exec_hostProxyDelivery (s : State) : exec .hostProxyDelivery s = execHostProxyDelivery s := rfl
theorem exec_hostMemAccess (s : State) : exec .hostMemAccess s = execHostMemAccess s := rfl
theorem exec_hostRegisterWrite (s : State) : exec .hostRegisterWrite s = execHostRegisterWrite s := rfl
theorem exec_lcarveWrite (s : State) : exec .lcarveWrite s = execLcarveWrite s := rfl
theorem exec_mclsWrite (s : State) : exec .mclsWrite s = execMclsWrite s := rfl
theorem exec_prectlGo (s : State) : exec .prectlGo s = execPrectlGo s := rfl
theorem exec_prectlRel (s : State) : exec .prectlRel s = execPrectlRel s := rfl
theorem exec_tkillKill (s : State) : exec .tkillKill s = execTkillKill s := rfl
theorem exec_tkillOwn (s : State) : exec .tkillOwn s = execTkillOwn s := rfl
theorem exec_tkillClr (s : State) : exec .tkillClr s = execTkillClr s := rfl
theorem exec_dbgctlGo (s : State) : exec .dbgctlGo s = execDbgctlGo s := rfl
theorem exec_dbgctlStep (s : State) : exec .dbgctlStep s = execDbgctlStep s := rfl
theorem exec_dbgctlHalt (s : State) : exec .dbgctlHalt s = execDbgctlHalt s := rfl
theorem exec_bezelWrite (s : State) : exec .bezelWrite s = execBezelWrite s := rfl
theorem exec_losctlFreeze (s : State) : exec .losctlFreeze s = execLosctlFreeze s := rfl
theorem exec_losctlClear (s : State) : exec .losctlClear s = execLosctlClear s := rfl
theorem exec_replayEnable (s : State) : exec .replayEnable s = execReplayEnable s := rfl
theorem exec_leaseOcWrite (s : State) : exec .leaseOcWrite s = execLeaseOcWrite s := rfl
theorem exec_migreqGo (s : State) : exec .migreqGo s = execMigreqGo s := rfl
theorem exec_migreqAns (s : State) : exec .migreqAns s = execMigreqAns s := rfl
theorem exec_rasctlRetire (s : State) : exec .rasctlRetire s = execRasctlRetire s := rfl
theorem exec_accessPerformed (s : State) : exec .accessPerformed s = execAccessPerformed s := rfl
theorem exec_rotationBoundary (s : State) : exec .rotationBoundary s = execRotationBoundary s := rfl
theorem exec_managementProcessorRequest (s : State) : exec .managementProcessorRequest s = execManagementProcessorRequest s := rfl
theorem exec_powerGrant (s : State) : exec .powerGrant s = execPowerGrant s := rfl
theorem exec_flitReplay (s : State) : exec .flitReplay s = execFlitReplay s := rfl
theorem exec_backedStorageLoss (s : State) : exec .backedStorageLoss s = execBackedStorageLoss s := rfl

end Sys2Proof.Machine
end

