-- ==== Sys2Proof/Laws/Tab.lean ====
section
/-! SUPPORT. Laws of sparse tables and of lists changed at a place. -/

namespace Sys2Proof.Machine

open Sys2Proof

variable {α : Type}

/-! ## Reading after writing -/

theorem tget_terase (d : α) (t : Tab α) (n m : Nat) :
    tget d (terase t n) m = if m = n then d else tget d t m := by
  induction t with
  | nil => simp [terase, tget]
  | cons e t ih =>
    obtain ⟨k, v⟩ := e
    by_cases h : k = n
    · subst h
      by_cases hm : m = k
      · subst hm
        simpa [terase] using ih
      · have : ¬ k = m := fun e => hm e.symm
        simp [terase, ih, hm, tget, this]
    · by_cases hm : m = n
      · subst hm
        simp [terase, h, tget, ih]
      · simp [terase, h, tget, ih, hm]

theorem tget_tput (d : α) (t : Tab α) (n m : Nat) (v : α) :
    tget d (tput t n v) m = if m = n then v else tget d t m := by
  induction t with
  | nil => by_cases h : n = m <;> simp [tput, tget, h, eq_comm (a := m)]
  | cons e t ih =>
    obtain ⟨k, w⟩ := e
    unfold tput
    split
    · by_cases h : n = m <;> simp [tget, h, eq_comm (a := m)]
    · split
      · rename_i hk
        subst hk
        by_cases h : k = m <;> simp [tget, h, eq_comm (a := m)]
      · rename_i h1 h2
        by_cases h : m = n
        · subst h
          simp [tget, h2, ih]
        · simp [tget, ih, h]

/-- A table read after a write (no canonical form is asked for). -/
theorem tget_tset [DecidableEq α] (d : α) (t : Tab α) (n m : Nat) (v : α) :
    tget d (tset d t n v) m = if m = n then v else tget d t m := by
  unfold tset
  split
  · rename_i h
    subst h
    exact tget_terase ..
  · exact tget_tput ..

@[simp] theorem tget_tset_same [DecidableEq α] (d : α) (t : Tab α) (n : Nat) (v : α) :
    tget d (tset d t n v) n = v := by simp [tget_tset]

theorem tget_tset_other [DecidableEq α] (d : α) (t : Tab α) (v : α) {n m : Nat} (h : m ≠ n) :
    tget d (tset d t n v) m = tget d t m := by simp [tget_tset, h]

/-! ## The canonical form -/

theorem risingFrom_mono {n m : Nat} (h : n ≤ m) (t : Tab α) : risingFrom m t = true → risingFrom n t = true := by
  cases t with
  | nil => simp [risingFrom]
  | cons e t => simp only [risingFrom, Bool.and_eq_true, decide_eq_true_eq]; intro ⟨a, b⟩; exact ⟨by omega, b⟩

theorem risingFrom_terase (n k : Nat) (t : Tab α) : risingFrom n t = true → risingFrom n (terase t k) = true := by
  induction t generalizing n with
  | nil => simp [terase]
  | cons e t ih =>
    simp only [risingFrom, terase, Bool.and_eq_true, decide_eq_true_eq]
    intro ⟨a, b⟩
    split
    · exact ih n (risingFrom_mono (by omega) t b)
    · simp only [risingFrom, Bool.and_eq_true, decide_eq_true_eq]; exact ⟨a, ih _ b⟩

theorem risingFrom_tput (n k : Nat) (v : α) (t : Tab α) (hk : n < k) :
    risingFrom n t = true → risingFrom n (tput t k v) = true := by
  induction t generalizing n with
  | nil => simp [tput, risingFrom, hk]
  | cons e t ih =>
    obtain ⟨j, w⟩ := e
    simp only [risingFrom, tput, Bool.and_eq_true, decide_eq_true_eq]
    intro ⟨a, b⟩
    split
    · simp only [risingFrom, Bool.and_eq_true, decide_eq_true_eq]; exact ⟨hk, by omega, b⟩
    · split
      · rename_i h; subst h
        simp only [risingFrom, Bool.and_eq_true, decide_eq_true_eq]; exact ⟨hk, b⟩
      · simp only [risingFrom, Bool.and_eq_true, decide_eq_true_eq]
        exact ⟨a, ih j (by omega) b⟩

theorem rising_of_risingFrom (n : Nat) (t : Tab α) (h : risingFrom n t = true) : rising t = true := by
  cases t with
  | nil => rfl
  | cons e t => simp only [risingFrom, Bool.and_eq_true] at h; exact h.2

theorem rising_terase (k : Nat) (t : Tab α) (h : rising t = true) : rising (terase t k) = true := by
  cases t with
  | nil => rfl
  | cons e t =>
    unfold terase
    split
    · exact rising_of_risingFrom _ _ (risingFrom_terase _ _ _ h)
    · exact risingFrom_terase _ _ _ h

theorem rising_tput (k : Nat) (v : α) (t : Tab α) (h : rising t = true) : rising (tput t k v) = true := by
  cases t with
  | nil => rfl
  | cons e t =>
    obtain ⟨j, w⟩ := e
    unfold tput
    split
    · rename_i hj
      simp only [rising, risingFrom, Bool.and_eq_true, decide_eq_true_eq]; exact ⟨hj, h⟩
    · split
      · rename_i hj; subst hj; exact h
      · exact risingFrom_tput _ _ _ _ (by omega) h

theorem all_terase (p : Nat × α → Bool) (k : Nat) (t : Tab α) (h : t.all p = true) : (terase t k).all p = true := by
  induction t with
  | nil => rfl
  | cons e t ih =>
    simp only [List.all_cons, Bool.and_eq_true] at h
    unfold terase
    split
    · exact ih h.2
    · simp [h.1, ih h.2]

theorem all_tput (p : Nat × α → Bool) (k : Nat) (v : α) (t : Tab α) (hv : p (k, v) = true) (h : t.all p = true) :
    (tput t k v).all p = true := by
  induction t with
  | nil => simp [tput, hv]
  | cons e t ih =>
    obtain ⟨j, w⟩ := e
    simp only [List.all_cons, Bool.and_eq_true] at h
    unfold tput
    split
    · simp only [List.all_cons, Bool.and_eq_true]; exact ⟨hv, h.1, h.2⟩
    · split
      · simp only [List.all_cons, Bool.and_eq_true]; exact ⟨hv, h.2⟩
      · simp only [List.all_cons, Bool.and_eq_true]; exact ⟨h.1, ih h.2⟩

/-- A write keeps a table canonical. -/
theorem twf_tset [DecidableEq α] (d : α) (t : Tab α) (n : Nat) (v : α) (h : twf d t = true) :
    twf d (tset d t n v) = true := by
  simp only [twf, Bool.and_eq_true] at h ⊢
  unfold tset
  split
  · exact ⟨rising_terase _ _ h.1, all_terase _ _ _ h.2⟩
  · rename_i hv
    exact ⟨rising_tput _ _ _ h.1, all_tput _ _ _ _ (by simpa using hv) h.2⟩

/-! ## Lists changed at a place -/

theorem setAt_eq (l : List α) (n : Nat) (f : α → α) :
    setAt l n f = l.mapIdx fun i a => if i = n then f a else a := by
  induction l generalizing n with
  | nil => simp [setAt]
  | cons a t ih =>
    cases n with
    | zero => simpa [setAt, List.mapIdx_cons] using (List.mapIdx_eq_iff.mpr (by simp)).symm
    | succ n => simp [setAt, List.mapIdx_cons, ih]

theorem length_setAt (l : List α) (n : Nat) (f : α → α) : (setAt l n f).length = l.length := by simp [setAt_eq]

theorem getAt_eq (d : α) (l : List α) (n : Nat) : getAt d l n = (l[n]?).getD d := by
  induction l generalizing n with
  | nil => simp [getAt]
  | cons a t ih => cases n <;> simp [getAt, ih]

end Sys2Proof.Machine
end

