-- ==== Sys2Proof/Laws/Memory.lean ====
section
/-! SUPPORT. Laws of physical memory: reading after writing, and the canonical form. -/

namespace Sys2Proof.Machine

open Sys2Proof

/-! ## Bytes and numbers -/

@[simp] theorem length_leBytes (n v : Nat) : (leBytes n v).length = n := by
  induction n generalizing v with
  | zero => rfl
  | succ n ih => simp [leBytes, ih]

/-- Byte k of a number. -/
theorem getD_leBytes (n v k : Nat) (h : k < n) : (leBytes n v).getD k 0 = BitVec.ofNat 8 (v / 256 ^ k) := by
  induction n generalizing v k with
  | zero => omega
  | succ n ih =>
    cases k with
    | zero => simp [leBytes]
    | succ k =>
      simp only [leBytes, List.getD_cons_succ]
      rw [ih _ _ (by omega), Nat.div_div_eq_div_mul, Nat.pow_succ']

/-- The number that the low n bytes of a number hold. -/
theorem leNat_leBytes (n v : Nat) : leNat (leBytes n v) = v % 256 ^ n := by
  induction n generalizing v with
  | zero => simp [leBytes, leNat, Nat.mod_one]
  | succ n ih =>
    simp only [leBytes, leNat, ih, BitVec.toNat_ofNat]
    rw [Nat.pow_succ' (m := 256), Nat.mod_mul (x := v) (a := 256)]

/-! ## Bytes placed in a memory -/

/-- A byte of a memory after bytes have been placed. -/
theorem tget_putBytes (m : List Host.Cell) (pa : Nat) (bs : List Byte) (a : Nat) :
    tget unlistedByte (putBytes m pa bs) a
      = if pa ≤ a ∧ a < pa + bs.length then bs.getD (a - pa) 0 else tget unlistedByte m a := by
  induction bs generalizing m pa with
  | nil => simp [putBytes]
  | cons b t ih =>
    simp only [putBytes, ih, tget_tset, List.length_cons]
    by_cases h1 : a = pa
    · subst h1
      simp
    · by_cases h2 : pa + 1 ≤ a ∧ a < pa + 1 + t.length
      · have e : a - pa = (a - (pa + 1)) + 1 := by omega
        rw [if_pos h2, if_pos (by omega), e]
        simp
      · rw [if_neg h2, if_neg h1, if_neg (by omega)]

/-- Placing bytes keeps memory canonical. -/
theorem wf_putBytes (m : List Host.Cell) (pa : Nat) (bs : List Byte) (h : Memory.wf m) : Memory.wf (putBytes m pa bs) := by
  induction bs generalizing m pa with
  | nil => exact h
  | cons b t ih => exact ih _ _ (twf_tset _ _ _ _ h)

/-! ## Stores at a home -/

theorem memByte_of_mem {s t : State} (h : t.mem = s.mem) (a : Nat) : memByte t a = memByte s a := by
  simp [memByte, h]

theorem memBytes_of_mem {s t : State} (h : t.mem = s.mem) (a n : Nat) : memBytes t a n = memBytes s a n := by
  induction n generalizing a with
  | zero => rfl
  | succ n ih => simp [memBytes, memByte_of_mem h, ih]

@[simp] theorem storeHome_mem (s : State) (pa : Nat) (bs : List Byte) : (storeHome s pa bs).mem = putBytes s.mem pa bs := rfl

/-- A byte after a store: the stored byte inside the store, the old one outside. -/
theorem memByte_storeHome (s : State) (pa : Nat) (bs : List Byte) (a : Nat) :
    memByte (storeHome s pa bs) a = if pa ≤ a ∧ a < pa + bs.length then bs.getD (a - pa) 0 else memByte s a := by
  simp [memByte, tget_putBytes]

/-- A write of any holder keeps memory canonical. -/
theorem wf_storeBy (s : State) (w : List Holder) (pa : Nat) (bs : List Byte) (h : Memory.wf s.mem) :
    Memory.wf (storeBy s w pa bs).mem := wf_putBytes _ _ _ h

/-- A store keeps memory canonical. -/
theorem wf_storeHome (s : State) (pa : Nat) (bs : List Byte) (h : Memory.wf s.mem) :
    Memory.wf (storeHome s pa bs).mem := wf_putBytes _ _ _ h

theorem memBytes_eq (s : State) (a n : Nat) : memBytes s a n = (List.range n).map fun k => memByte s (a + k) := by
  induction n generalizing a with
  | zero => rfl
  | succ n ih =>
    rw [memBytes, ih, List.range_succ_eq_map, List.map_cons, List.map_map]
    simp only [Nat.add_zero, List.cons.injEq, true_and]
    apply List.map_congr_left
    intro k _
    simp only [Function.comp, Nat.succ_eq_add_one]
    congr 1
    omega

@[simp] theorem length_memBytes (s : State) (a n : Nat) : (memBytes s a n).length = n := by simp [memBytes_eq]

/-- Bytes read where they were stored. -/
theorem memBytes_storeHome (s : State) (pa : Nat) (bs : List Byte) :
    memBytes (storeHome s pa bs) pa bs.length = bs := by
  apply List.ext_getElem (by simp)
  intro k h1 h2
  rw [List.getElem_of_eq (memBytes_eq ..)]
  simp only [List.getElem_map, List.getElem_range, memByte_storeHome]
  rw [if_pos (by omega)]
  simp [List.getD_eq_getElem?_getD, h2]

end Sys2Proof.Machine
end

