-- ==== Sys2Proof/Laws/State.lean ====
section
/-! SUPPORT. What each update of the state leaves in each field, and in each unit that is read by its key. -/

namespace Sys2Proof.Machine

open Sys2Proof

/-! ## Fields of the state -/

@[simp] theorem setCtx_mem (s : State) (c : Nat) (x : Ctx) : (setCtx s c x).mem = s.mem := rfl
@[simp] theorem setCtx_bad (s : State) (c : Nat) (x : Ctx) : (setCtx s c x).bad = s.bad := rfl
@[simp] theorem setCtx_olds (s : State) (c : Nat) (x : Ctx) : (setCtx s c x).olds = s.olds := rfl
@[simp] theorem setCtx_fences (s : State) (c : Nat) (x : Ctx) : (setCtx s c x).fences = s.fences := rfl
@[simp] theorem setCtx_dir (s : State) (c : Nat) (x : Ctx) : (setCtx s c x).dir = s.dir := rfl
@[simp] theorem setCtx_ctxs (s : State) (c : Nat) (x : Ctx) : (setCtx s c x).ctxs = tset {} s.ctxs c x := rfl
@[simp] theorem setCtx_nextCtx (s : State) (c : Nat) (x : Ctx) : (setCtx s c x).nextCtx = s.nextCtx := rfl
@[simp] theorem setCtx_cores (s : State) (c : Nat) (x : Ctx) : (setCtx s c x).cores = s.cores := rfl
@[simp] theorem setCtx_trusses (s : State) (c : Nat) (x : Ctx) : (setCtx s c x).trusses = s.trusses := rfl
@[simp] theorem setCtx_bays (s : State) (c : Nat) (x : Ctx) : (setCtx s c x).bays = s.bays := rfl
@[simp] theorem setCtx_dies (s : State) (c : Nat) (x : Ctx) : (setCtx s c x).dies = s.dies := rfl
@[simp] theorem setCtx_pkgs (s : State) (c : Nat) (x : Ctx) : (setCtx s c x).pkgs = s.pkgs := rfl
@[simp] theorem setCtx_due (s : State) (c : Nat) (x : Ctx) : (setCtx s c x).due = s.due := rfl
@[simp] theorem setCtx_flight (s : State) (c : Nat) (x : Ctx) : (setCtx s c x).flight = s.flight := rfl
@[simp] theorem setCtx_journeys (s : State) (c : Nat) (x : Ctx) : (setCtx s c x).journeys = s.journeys := rfl
@[simp] theorem setCtx_nextJourney (s : State) (c : Nat) (x : Ctx) : (setCtx s c x).nextJourney = s.nextJourney := rfl
@[simp] theorem setCtx_ev (s : State) (c : Nat) (x : Ctx) : (setCtx s c x).ev = s.ev := rfl
@[simp] theorem setCtx_cur (s : State) (c : Nat) (x : Ctx) : (setCtx s c x).cur = s.cur := rfl
@[simp] theorem setCtx_now (s : State) (c : Nat) (x : Ctx) : (setCtx s c x).now = s.now := rfl
@[simp] theorem setCtx_free (s : State) (c : Nat) (x : Ctx) : (setCtx s c x).free = s.free := rfl

@[simp] theorem modCtx_mem (s : State) (c : Nat) (f : Ctx → Ctx) : (modCtx s c f).mem = s.mem := rfl
@[simp] theorem modCtx_bad (s : State) (c : Nat) (f : Ctx → Ctx) : (modCtx s c f).bad = s.bad := rfl
@[simp] theorem modCtx_olds (s : State) (c : Nat) (f : Ctx → Ctx) : (modCtx s c f).olds = s.olds := rfl
@[simp] theorem modCtx_fences (s : State) (c : Nat) (f : Ctx → Ctx) : (modCtx s c f).fences = s.fences := rfl
@[simp] theorem modCtx_dir (s : State) (c : Nat) (f : Ctx → Ctx) : (modCtx s c f).dir = s.dir := rfl
@[simp] theorem modCtx_ctxs (s : State) (c : Nat) (f : Ctx → Ctx) : (modCtx s c f).ctxs = tset {} s.ctxs c (f (getCtx s c)) := rfl
@[simp] theorem modCtx_nextCtx (s : State) (c : Nat) (f : Ctx → Ctx) : (modCtx s c f).nextCtx = s.nextCtx := rfl
@[simp] theorem modCtx_cores (s : State) (c : Nat) (f : Ctx → Ctx) : (modCtx s c f).cores = s.cores := rfl
@[simp] theorem modCtx_trusses (s : State) (c : Nat) (f : Ctx → Ctx) : (modCtx s c f).trusses = s.trusses := rfl
@[simp] theorem modCtx_bays (s : State) (c : Nat) (f : Ctx → Ctx) : (modCtx s c f).bays = s.bays := rfl
@[simp] theorem modCtx_dies (s : State) (c : Nat) (f : Ctx → Ctx) : (modCtx s c f).dies = s.dies := rfl
@[simp] theorem modCtx_pkgs (s : State) (c : Nat) (f : Ctx → Ctx) : (modCtx s c f).pkgs = s.pkgs := rfl
@[simp] theorem modCtx_due (s : State) (c : Nat) (f : Ctx → Ctx) : (modCtx s c f).due = s.due := rfl
@[simp] theorem modCtx_flight (s : State) (c : Nat) (f : Ctx → Ctx) : (modCtx s c f).flight = s.flight := rfl
@[simp] theorem modCtx_journeys (s : State) (c : Nat) (f : Ctx → Ctx) : (modCtx s c f).journeys = s.journeys := rfl
@[simp] theorem modCtx_nextJourney (s : State) (c : Nat) (f : Ctx → Ctx) : (modCtx s c f).nextJourney = s.nextJourney := rfl
@[simp] theorem modCtx_ev (s : State) (c : Nat) (f : Ctx → Ctx) : (modCtx s c f).ev = s.ev := rfl
@[simp] theorem modCtx_cur (s : State) (c : Nat) (f : Ctx → Ctx) : (modCtx s c f).cur = s.cur := rfl
@[simp] theorem modCtx_now (s : State) (c : Nat) (f : Ctx → Ctx) : (modCtx s c f).now = s.now := rfl
@[simp] theorem modCtx_free (s : State) (c : Nat) (f : Ctx → Ctx) : (modCtx s c f).free = s.free := rfl

@[simp] theorem modCurLane_mem (s : State) (l : Nat) (f : Lane → Lane) : (modCurLane s l f).mem = s.mem := rfl
@[simp] theorem modCurLane_bad (s : State) (l : Nat) (f : Lane → Lane) : (modCurLane s l f).bad = s.bad := rfl
@[simp] theorem modCurLane_olds (s : State) (l : Nat) (f : Lane → Lane) : (modCurLane s l f).olds = s.olds := rfl
@[simp] theorem modCurLane_fences (s : State) (l : Nat) (f : Lane → Lane) : (modCurLane s l f).fences = s.fences := rfl
@[simp] theorem modCurLane_dir (s : State) (l : Nat) (f : Lane → Lane) : (modCurLane s l f).dir = s.dir := rfl
@[simp] theorem modCurLane_nextCtx (s : State) (l : Nat) (f : Lane → Lane) : (modCurLane s l f).nextCtx = s.nextCtx := rfl
@[simp] theorem modCurLane_cores (s : State) (l : Nat) (f : Lane → Lane) : (modCurLane s l f).cores = s.cores := rfl
@[simp] theorem modCurLane_trusses (s : State) (l : Nat) (f : Lane → Lane) : (modCurLane s l f).trusses = s.trusses := rfl
@[simp] theorem modCurLane_bays (s : State) (l : Nat) (f : Lane → Lane) : (modCurLane s l f).bays = s.bays := rfl
@[simp] theorem modCurLane_dies (s : State) (l : Nat) (f : Lane → Lane) : (modCurLane s l f).dies = s.dies := rfl
@[simp] theorem modCurLane_pkgs (s : State) (l : Nat) (f : Lane → Lane) : (modCurLane s l f).pkgs = s.pkgs := rfl
@[simp] theorem modCurLane_due (s : State) (l : Nat) (f : Lane → Lane) : (modCurLane s l f).due = s.due := rfl
@[simp] theorem modCurLane_flight (s : State) (l : Nat) (f : Lane → Lane) : (modCurLane s l f).flight = s.flight := rfl
@[simp] theorem modCurLane_journeys (s : State) (l : Nat) (f : Lane → Lane) : (modCurLane s l f).journeys = s.journeys := rfl
@[simp] theorem modCurLane_nextJourney (s : State) (l : Nat) (f : Lane → Lane) : (modCurLane s l f).nextJourney = s.nextJourney := rfl
@[simp] theorem modCurLane_ev (s : State) (l : Nat) (f : Lane → Lane) : (modCurLane s l f).ev = s.ev := rfl
@[simp] theorem modCurLane_cur (s : State) (l : Nat) (f : Lane → Lane) : (modCurLane s l f).cur = s.cur := rfl
@[simp] theorem modCurLane_now (s : State) (l : Nat) (f : Lane → Lane) : (modCurLane s l f).now = s.now := rfl
@[simp] theorem modCurLane_free (s : State) (l : Nat) (f : Lane → Lane) : (modCurLane s l f).free = s.free := rfl

@[simp] theorem setCore_mem (s : State) (k : Nat) (c : CoreSt) : (setCore s k c).mem = s.mem := rfl
@[simp] theorem setCore_bad (s : State) (k : Nat) (c : CoreSt) : (setCore s k c).bad = s.bad := rfl
@[simp] theorem setCore_olds (s : State) (k : Nat) (c : CoreSt) : (setCore s k c).olds = s.olds := rfl
@[simp] theorem setCore_fences (s : State) (k : Nat) (c : CoreSt) : (setCore s k c).fences = s.fences := rfl
@[simp] theorem setCore_dir (s : State) (k : Nat) (c : CoreSt) : (setCore s k c).dir = s.dir := rfl
@[simp] theorem setCore_ctxs (s : State) (k : Nat) (c : CoreSt) : (setCore s k c).ctxs = s.ctxs := rfl
@[simp] theorem setCore_nextCtx (s : State) (k : Nat) (c : CoreSt) : (setCore s k c).nextCtx = s.nextCtx := rfl
@[simp] theorem setCore_cores (s : State) (k : Nat) (c : CoreSt) : (setCore s k c).cores = tset {} s.cores k c := rfl
@[simp] theorem setCore_trusses (s : State) (k : Nat) (c : CoreSt) : (setCore s k c).trusses = s.trusses := rfl
@[simp] theorem setCore_bays (s : State) (k : Nat) (c : CoreSt) : (setCore s k c).bays = s.bays := rfl
@[simp] theorem setCore_dies (s : State) (k : Nat) (c : CoreSt) : (setCore s k c).dies = s.dies := rfl
@[simp] theorem setCore_pkgs (s : State) (k : Nat) (c : CoreSt) : (setCore s k c).pkgs = s.pkgs := rfl
@[simp] theorem setCore_due (s : State) (k : Nat) (c : CoreSt) : (setCore s k c).due = s.due := rfl
@[simp] theorem setCore_flight (s : State) (k : Nat) (c : CoreSt) : (setCore s k c).flight = s.flight := rfl
@[simp] theorem setCore_journeys (s : State) (k : Nat) (c : CoreSt) : (setCore s k c).journeys = s.journeys := rfl
@[simp] theorem setCore_nextJourney (s : State) (k : Nat) (c : CoreSt) : (setCore s k c).nextJourney = s.nextJourney := rfl
@[simp] theorem setCore_ev (s : State) (k : Nat) (c : CoreSt) : (setCore s k c).ev = s.ev := rfl
@[simp] theorem setCore_cur (s : State) (k : Nat) (c : CoreSt) : (setCore s k c).cur = s.cur := rfl
@[simp] theorem setCore_now (s : State) (k : Nat) (c : CoreSt) : (setCore s k c).now = s.now := rfl
@[simp] theorem setCore_free (s : State) (k : Nat) (c : CoreSt) : (setCore s k c).free = s.free := rfl

@[simp] theorem modCore_mem (s : State) (k : Nat) (f : CoreSt → CoreSt) : (modCore s k f).mem = s.mem := rfl
@[simp] theorem modCore_bad (s : State) (k : Nat) (f : CoreSt → CoreSt) : (modCore s k f).bad = s.bad := rfl
@[simp] theorem modCore_olds (s : State) (k : Nat) (f : CoreSt → CoreSt) : (modCore s k f).olds = s.olds := rfl
@[simp] theorem modCore_fences (s : State) (k : Nat) (f : CoreSt → CoreSt) : (modCore s k f).fences = s.fences := rfl
@[simp] theorem modCore_dir (s : State) (k : Nat) (f : CoreSt → CoreSt) : (modCore s k f).dir = s.dir := rfl
@[simp] theorem modCore_ctxs (s : State) (k : Nat) (f : CoreSt → CoreSt) : (modCore s k f).ctxs = s.ctxs := rfl
@[simp] theorem modCore_nextCtx (s : State) (k : Nat) (f : CoreSt → CoreSt) : (modCore s k f).nextCtx = s.nextCtx := rfl
@[simp] theorem modCore_cores (s : State) (k : Nat) (f : CoreSt → CoreSt) : (modCore s k f).cores = tset {} s.cores k (f (getCore s k)) := rfl
@[simp] theorem modCore_trusses (s : State) (k : Nat) (f : CoreSt → CoreSt) : (modCore s k f).trusses = s.trusses := rfl
@[simp] theorem modCore_bays (s : State) (k : Nat) (f : CoreSt → CoreSt) : (modCore s k f).bays = s.bays := rfl
@[simp] theorem modCore_dies (s : State) (k : Nat) (f : CoreSt → CoreSt) : (modCore s k f).dies = s.dies := rfl
@[simp] theorem modCore_pkgs (s : State) (k : Nat) (f : CoreSt → CoreSt) : (modCore s k f).pkgs = s.pkgs := rfl
@[simp] theorem modCore_due (s : State) (k : Nat) (f : CoreSt → CoreSt) : (modCore s k f).due = s.due := rfl
@[simp] theorem modCore_flight (s : State) (k : Nat) (f : CoreSt → CoreSt) : (modCore s k f).flight = s.flight := rfl
@[simp] theorem modCore_journeys (s : State) (k : Nat) (f : CoreSt → CoreSt) : (modCore s k f).journeys = s.journeys := rfl
@[simp] theorem modCore_nextJourney (s : State) (k : Nat) (f : CoreSt → CoreSt) : (modCore s k f).nextJourney = s.nextJourney := rfl
@[simp] theorem modCore_ev (s : State) (k : Nat) (f : CoreSt → CoreSt) : (modCore s k f).ev = s.ev := rfl
@[simp] theorem modCore_cur (s : State) (k : Nat) (f : CoreSt → CoreSt) : (modCore s k f).cur = s.cur := rfl
@[simp] theorem modCore_now (s : State) (k : Nat) (f : CoreSt → CoreSt) : (modCore s k f).now = s.now := rfl
@[simp] theorem modCore_free (s : State) (k : Nat) (f : CoreSt → CoreSt) : (modCore s k f).free = s.free := rfl

@[simp] theorem setTruss_mem (s : State) (k : Nat) (c : Truss) : (setTruss s k c).mem = s.mem := rfl
@[simp] theorem setTruss_bad (s : State) (k : Nat) (c : Truss) : (setTruss s k c).bad = s.bad := rfl
@[simp] theorem setTruss_olds (s : State) (k : Nat) (c : Truss) : (setTruss s k c).olds = s.olds := rfl
@[simp] theorem setTruss_fences (s : State) (k : Nat) (c : Truss) : (setTruss s k c).fences = s.fences := rfl
@[simp] theorem setTruss_dir (s : State) (k : Nat) (c : Truss) : (setTruss s k c).dir = s.dir := rfl
@[simp] theorem setTruss_ctxs (s : State) (k : Nat) (c : Truss) : (setTruss s k c).ctxs = s.ctxs := rfl
@[simp] theorem setTruss_nextCtx (s : State) (k : Nat) (c : Truss) : (setTruss s k c).nextCtx = s.nextCtx := rfl
@[simp] theorem setTruss_cores (s : State) (k : Nat) (c : Truss) : (setTruss s k c).cores = s.cores := rfl
@[simp] theorem setTruss_trusses (s : State) (k : Nat) (c : Truss) : (setTruss s k c).trusses = tset {} s.trusses k c := rfl
@[simp] theorem setTruss_bays (s : State) (k : Nat) (c : Truss) : (setTruss s k c).bays = s.bays := rfl
@[simp] theorem setTruss_dies (s : State) (k : Nat) (c : Truss) : (setTruss s k c).dies = s.dies := rfl
@[simp] theorem setTruss_pkgs (s : State) (k : Nat) (c : Truss) : (setTruss s k c).pkgs = s.pkgs := rfl
@[simp] theorem setTruss_due (s : State) (k : Nat) (c : Truss) : (setTruss s k c).due = s.due := rfl
@[simp] theorem setTruss_flight (s : State) (k : Nat) (c : Truss) : (setTruss s k c).flight = s.flight := rfl
@[simp] theorem setTruss_journeys (s : State) (k : Nat) (c : Truss) : (setTruss s k c).journeys = s.journeys := rfl
@[simp] theorem setTruss_nextJourney (s : State) (k : Nat) (c : Truss) : (setTruss s k c).nextJourney = s.nextJourney := rfl
@[simp] theorem setTruss_ev (s : State) (k : Nat) (c : Truss) : (setTruss s k c).ev = s.ev := rfl
@[simp] theorem setTruss_cur (s : State) (k : Nat) (c : Truss) : (setTruss s k c).cur = s.cur := rfl
@[simp] theorem setTruss_now (s : State) (k : Nat) (c : Truss) : (setTruss s k c).now = s.now := rfl
@[simp] theorem setTruss_free (s : State) (k : Nat) (c : Truss) : (setTruss s k c).free = s.free := rfl

@[simp] theorem modTruss_mem (s : State) (k : Nat) (f : Truss → Truss) : (modTruss s k f).mem = s.mem := rfl
@[simp] theorem modTruss_bad (s : State) (k : Nat) (f : Truss → Truss) : (modTruss s k f).bad = s.bad := rfl
@[simp] theorem modTruss_olds (s : State) (k : Nat) (f : Truss → Truss) : (modTruss s k f).olds = s.olds := rfl
@[simp] theorem modTruss_fences (s : State) (k : Nat) (f : Truss → Truss) : (modTruss s k f).fences = s.fences := rfl
@[simp] theorem modTruss_dir (s : State) (k : Nat) (f : Truss → Truss) : (modTruss s k f).dir = s.dir := rfl
@[simp] theorem modTruss_ctxs (s : State) (k : Nat) (f : Truss → Truss) : (modTruss s k f).ctxs = s.ctxs := rfl
@[simp] theorem modTruss_nextCtx (s : State) (k : Nat) (f : Truss → Truss) : (modTruss s k f).nextCtx = s.nextCtx := rfl
@[simp] theorem modTruss_cores (s : State) (k : Nat) (f : Truss → Truss) : (modTruss s k f).cores = s.cores := rfl
@[simp] theorem modTruss_trusses (s : State) (k : Nat) (f : Truss → Truss) : (modTruss s k f).trusses = tset {} s.trusses k (f (getTruss s k)) := rfl
@[simp] theorem modTruss_bays (s : State) (k : Nat) (f : Truss → Truss) : (modTruss s k f).bays = s.bays := rfl
@[simp] theorem modTruss_dies (s : State) (k : Nat) (f : Truss → Truss) : (modTruss s k f).dies = s.dies := rfl
@[simp] theorem modTruss_pkgs (s : State) (k : Nat) (f : Truss → Truss) : (modTruss s k f).pkgs = s.pkgs := rfl
@[simp] theorem modTruss_due (s : State) (k : Nat) (f : Truss → Truss) : (modTruss s k f).due = s.due := rfl
@[simp] theorem modTruss_flight (s : State) (k : Nat) (f : Truss → Truss) : (modTruss s k f).flight = s.flight := rfl
@[simp] theorem modTruss_journeys (s : State) (k : Nat) (f : Truss → Truss) : (modTruss s k f).journeys = s.journeys := rfl
@[simp] theorem modTruss_nextJourney (s : State) (k : Nat) (f : Truss → Truss) : (modTruss s k f).nextJourney = s.nextJourney := rfl
@[simp] theorem modTruss_ev (s : State) (k : Nat) (f : Truss → Truss) : (modTruss s k f).ev = s.ev := rfl
@[simp] theorem modTruss_cur (s : State) (k : Nat) (f : Truss → Truss) : (modTruss s k f).cur = s.cur := rfl
@[simp] theorem modTruss_now (s : State) (k : Nat) (f : Truss → Truss) : (modTruss s k f).now = s.now := rfl
@[simp] theorem modTruss_free (s : State) (k : Nat) (f : Truss → Truss) : (modTruss s k f).free = s.free := rfl

@[simp] theorem modBay_mem (s : State) (k : Nat) (f : Bay → Bay) : (modBay s k f).mem = s.mem := rfl
@[simp] theorem modBay_bad (s : State) (k : Nat) (f : Bay → Bay) : (modBay s k f).bad = s.bad := rfl
@[simp] theorem modBay_olds (s : State) (k : Nat) (f : Bay → Bay) : (modBay s k f).olds = s.olds := rfl
@[simp] theorem modBay_fences (s : State) (k : Nat) (f : Bay → Bay) : (modBay s k f).fences = s.fences := rfl
@[simp] theorem modBay_dir (s : State) (k : Nat) (f : Bay → Bay) : (modBay s k f).dir = s.dir := rfl
@[simp] theorem modBay_ctxs (s : State) (k : Nat) (f : Bay → Bay) : (modBay s k f).ctxs = s.ctxs := rfl
@[simp] theorem modBay_nextCtx (s : State) (k : Nat) (f : Bay → Bay) : (modBay s k f).nextCtx = s.nextCtx := rfl
@[simp] theorem modBay_cores (s : State) (k : Nat) (f : Bay → Bay) : (modBay s k f).cores = s.cores := rfl
@[simp] theorem modBay_trusses (s : State) (k : Nat) (f : Bay → Bay) : (modBay s k f).trusses = s.trusses := rfl
@[simp] theorem modBay_bays (s : State) (k : Nat) (f : Bay → Bay) : (modBay s k f).bays = tset {} s.bays k (f (getBay s k)) := rfl
@[simp] theorem modBay_dies (s : State) (k : Nat) (f : Bay → Bay) : (modBay s k f).dies = s.dies := rfl
@[simp] theorem modBay_pkgs (s : State) (k : Nat) (f : Bay → Bay) : (modBay s k f).pkgs = s.pkgs := rfl
@[simp] theorem modBay_due (s : State) (k : Nat) (f : Bay → Bay) : (modBay s k f).due = s.due := rfl
@[simp] theorem modBay_flight (s : State) (k : Nat) (f : Bay → Bay) : (modBay s k f).flight = s.flight := rfl
@[simp] theorem modBay_journeys (s : State) (k : Nat) (f : Bay → Bay) : (modBay s k f).journeys = s.journeys := rfl
@[simp] theorem modBay_nextJourney (s : State) (k : Nat) (f : Bay → Bay) : (modBay s k f).nextJourney = s.nextJourney := rfl
@[simp] theorem modBay_ev (s : State) (k : Nat) (f : Bay → Bay) : (modBay s k f).ev = s.ev := rfl
@[simp] theorem modBay_cur (s : State) (k : Nat) (f : Bay → Bay) : (modBay s k f).cur = s.cur := rfl
@[simp] theorem modBay_now (s : State) (k : Nat) (f : Bay → Bay) : (modBay s k f).now = s.now := rfl
@[simp] theorem modBay_free (s : State) (k : Nat) (f : Bay → Bay) : (modBay s k f).free = s.free := rfl

@[simp] theorem modDie_mem (s : State) (k : Nat) (f : Die → Die) : (modDie s k f).mem = s.mem := rfl
@[simp] theorem modDie_bad (s : State) (k : Nat) (f : Die → Die) : (modDie s k f).bad = s.bad := rfl
@[simp] theorem modDie_olds (s : State) (k : Nat) (f : Die → Die) : (modDie s k f).olds = s.olds := rfl
@[simp] theorem modDie_fences (s : State) (k : Nat) (f : Die → Die) : (modDie s k f).fences = s.fences := rfl
@[simp] theorem modDie_dir (s : State) (k : Nat) (f : Die → Die) : (modDie s k f).dir = s.dir := rfl
@[simp] theorem modDie_ctxs (s : State) (k : Nat) (f : Die → Die) : (modDie s k f).ctxs = s.ctxs := rfl
@[simp] theorem modDie_nextCtx (s : State) (k : Nat) (f : Die → Die) : (modDie s k f).nextCtx = s.nextCtx := rfl
@[simp] theorem modDie_cores (s : State) (k : Nat) (f : Die → Die) : (modDie s k f).cores = s.cores := rfl
@[simp] theorem modDie_trusses (s : State) (k : Nat) (f : Die → Die) : (modDie s k f).trusses = s.trusses := rfl
@[simp] theorem modDie_bays (s : State) (k : Nat) (f : Die → Die) : (modDie s k f).bays = s.bays := rfl
@[simp] theorem modDie_dies (s : State) (k : Nat) (f : Die → Die) : (modDie s k f).dies = tset {} s.dies k (f (getDie s k)) := rfl
@[simp] theorem modDie_pkgs (s : State) (k : Nat) (f : Die → Die) : (modDie s k f).pkgs = s.pkgs := rfl
@[simp] theorem modDie_due (s : State) (k : Nat) (f : Die → Die) : (modDie s k f).due = s.due := rfl
@[simp] theorem modDie_flight (s : State) (k : Nat) (f : Die → Die) : (modDie s k f).flight = s.flight := rfl
@[simp] theorem modDie_journeys (s : State) (k : Nat) (f : Die → Die) : (modDie s k f).journeys = s.journeys := rfl
@[simp] theorem modDie_nextJourney (s : State) (k : Nat) (f : Die → Die) : (modDie s k f).nextJourney = s.nextJourney := rfl
@[simp] theorem modDie_ev (s : State) (k : Nat) (f : Die → Die) : (modDie s k f).ev = s.ev := rfl
@[simp] theorem modDie_cur (s : State) (k : Nat) (f : Die → Die) : (modDie s k f).cur = s.cur := rfl
@[simp] theorem modDie_now (s : State) (k : Nat) (f : Die → Die) : (modDie s k f).now = s.now := rfl
@[simp] theorem modDie_free (s : State) (k : Nat) (f : Die → Die) : (modDie s k f).free = s.free := rfl

@[simp] theorem modPkg_mem (s : State) (k : Nat) (f : Pkg → Pkg) : (modPkg s k f).mem = s.mem := rfl
@[simp] theorem modPkg_bad (s : State) (k : Nat) (f : Pkg → Pkg) : (modPkg s k f).bad = s.bad := rfl
@[simp] theorem modPkg_olds (s : State) (k : Nat) (f : Pkg → Pkg) : (modPkg s k f).olds = s.olds := rfl
@[simp] theorem modPkg_fences (s : State) (k : Nat) (f : Pkg → Pkg) : (modPkg s k f).fences = s.fences := rfl
@[simp] theorem modPkg_dir (s : State) (k : Nat) (f : Pkg → Pkg) : (modPkg s k f).dir = s.dir := rfl
@[simp] theorem modPkg_ctxs (s : State) (k : Nat) (f : Pkg → Pkg) : (modPkg s k f).ctxs = s.ctxs := rfl
@[simp] theorem modPkg_nextCtx (s : State) (k : Nat) (f : Pkg → Pkg) : (modPkg s k f).nextCtx = s.nextCtx := rfl
@[simp] theorem modPkg_cores (s : State) (k : Nat) (f : Pkg → Pkg) : (modPkg s k f).cores = s.cores := rfl
@[simp] theorem modPkg_trusses (s : State) (k : Nat) (f : Pkg → Pkg) : (modPkg s k f).trusses = s.trusses := rfl
@[simp] theorem modPkg_bays (s : State) (k : Nat) (f : Pkg → Pkg) : (modPkg s k f).bays = s.bays := rfl
@[simp] theorem modPkg_dies (s : State) (k : Nat) (f : Pkg → Pkg) : (modPkg s k f).dies = s.dies := rfl
@[simp] theorem modPkg_pkgs (s : State) (k : Nat) (f : Pkg → Pkg) : (modPkg s k f).pkgs = tset {} s.pkgs k (f (getPkg s k)) := rfl
@[simp] theorem modPkg_due (s : State) (k : Nat) (f : Pkg → Pkg) : (modPkg s k f).due = s.due := rfl
@[simp] theorem modPkg_flight (s : State) (k : Nat) (f : Pkg → Pkg) : (modPkg s k f).flight = s.flight := rfl
@[simp] theorem modPkg_journeys (s : State) (k : Nat) (f : Pkg → Pkg) : (modPkg s k f).journeys = s.journeys := rfl
@[simp] theorem modPkg_nextJourney (s : State) (k : Nat) (f : Pkg → Pkg) : (modPkg s k f).nextJourney = s.nextJourney := rfl
@[simp] theorem modPkg_ev (s : State) (k : Nat) (f : Pkg → Pkg) : (modPkg s k f).ev = s.ev := rfl
@[simp] theorem modPkg_cur (s : State) (k : Nat) (f : Pkg → Pkg) : (modPkg s k f).cur = s.cur := rfl
@[simp] theorem modPkg_now (s : State) (k : Nat) (f : Pkg → Pkg) : (modPkg s k f).now = s.now := rfl
@[simp] theorem modPkg_free (s : State) (k : Nat) (f : Pkg → Pkg) : (modPkg s k f).free = s.free := rfl

@[simp] theorem pushDue_mem (s : State) (l : List Ev) : (pushDue s l).mem = s.mem := rfl
@[simp] theorem pushDue_bad (s : State) (l : List Ev) : (pushDue s l).bad = s.bad := rfl
@[simp] theorem pushDue_olds (s : State) (l : List Ev) : (pushDue s l).olds = s.olds := rfl
@[simp] theorem pushDue_fences (s : State) (l : List Ev) : (pushDue s l).fences = s.fences := rfl
@[simp] theorem pushDue_dir (s : State) (l : List Ev) : (pushDue s l).dir = s.dir := rfl
@[simp] theorem pushDue_ctxs (s : State) (l : List Ev) : (pushDue s l).ctxs = s.ctxs := rfl
@[simp] theorem pushDue_nextCtx (s : State) (l : List Ev) : (pushDue s l).nextCtx = s.nextCtx := rfl
@[simp] theorem pushDue_cores (s : State) (l : List Ev) : (pushDue s l).cores = s.cores := rfl
@[simp] theorem pushDue_trusses (s : State) (l : List Ev) : (pushDue s l).trusses = s.trusses := rfl
@[simp] theorem pushDue_bays (s : State) (l : List Ev) : (pushDue s l).bays = s.bays := rfl
@[simp] theorem pushDue_dies (s : State) (l : List Ev) : (pushDue s l).dies = s.dies := rfl
@[simp] theorem pushDue_pkgs (s : State) (l : List Ev) : (pushDue s l).pkgs = s.pkgs := rfl
@[simp] theorem pushDue_due (s : State) (l : List Ev) : (pushDue s l).due = s.due ++ l := rfl
@[simp] theorem pushDue_flight (s : State) (l : List Ev) : (pushDue s l).flight = s.flight := rfl
@[simp] theorem pushDue_journeys (s : State) (l : List Ev) : (pushDue s l).journeys = s.journeys := rfl
@[simp] theorem pushDue_nextJourney (s : State) (l : List Ev) : (pushDue s l).nextJourney = s.nextJourney := rfl
@[simp] theorem pushDue_ev (s : State) (l : List Ev) : (pushDue s l).ev = s.ev := rfl
@[simp] theorem pushDue_cur (s : State) (l : List Ev) : (pushDue s l).cur = s.cur := rfl
@[simp] theorem pushDue_now (s : State) (l : List Ev) : (pushDue s l).now = s.now := rfl
@[simp] theorem pushDue_free (s : State) (l : List Ev) : (pushDue s l).free = s.free := rfl

@[simp] theorem pushFlight_mem (s : State) (l : List Ev) : (pushFlight s l).mem = s.mem := rfl
@[simp] theorem pushFlight_bad (s : State) (l : List Ev) : (pushFlight s l).bad = s.bad := rfl
@[simp] theorem pushFlight_olds (s : State) (l : List Ev) : (pushFlight s l).olds = s.olds := rfl
@[simp] theorem pushFlight_fences (s : State) (l : List Ev) : (pushFlight s l).fences = s.fences := rfl
@[simp] theorem pushFlight_dir (s : State) (l : List Ev) : (pushFlight s l).dir = s.dir := rfl
@[simp] theorem pushFlight_ctxs (s : State) (l : List Ev) : (pushFlight s l).ctxs = s.ctxs := rfl
@[simp] theorem pushFlight_nextCtx (s : State) (l : List Ev) : (pushFlight s l).nextCtx = s.nextCtx := rfl
@[simp] theorem pushFlight_cores (s : State) (l : List Ev) : (pushFlight s l).cores = s.cores := rfl
@[simp] theorem pushFlight_trusses (s : State) (l : List Ev) : (pushFlight s l).trusses = s.trusses := rfl
@[simp] theorem pushFlight_bays (s : State) (l : List Ev) : (pushFlight s l).bays = s.bays := rfl
@[simp] theorem pushFlight_dies (s : State) (l : List Ev) : (pushFlight s l).dies = s.dies := rfl
@[simp] theorem pushFlight_pkgs (s : State) (l : List Ev) : (pushFlight s l).pkgs = s.pkgs := rfl
@[simp] theorem pushFlight_due (s : State) (l : List Ev) : (pushFlight s l).due = s.due := rfl
@[simp] theorem pushFlight_flight (s : State) (l : List Ev) : (pushFlight s l).flight = s.flight ++ l := rfl
@[simp] theorem pushFlight_journeys (s : State) (l : List Ev) : (pushFlight s l).journeys = s.journeys := rfl
@[simp] theorem pushFlight_nextJourney (s : State) (l : List Ev) : (pushFlight s l).nextJourney = s.nextJourney := rfl
@[simp] theorem pushFlight_ev (s : State) (l : List Ev) : (pushFlight s l).ev = s.ev := rfl
@[simp] theorem pushFlight_cur (s : State) (l : List Ev) : (pushFlight s l).cur = s.cur := rfl
@[simp] theorem pushFlight_now (s : State) (l : List Ev) : (pushFlight s l).now = s.now := rfl
@[simp] theorem pushFlight_free (s : State) (l : List Ev) : (pushFlight s l).free = s.free := rfl

@[simp] theorem storeHome_bad (s : State) (pa : Nat) (b : List Byte) : (storeHome s pa b).bad = s.bad := rfl
@[simp] theorem storeHome_fences (s : State) (pa : Nat) (b : List Byte) : (storeHome s pa b).fences = s.fences := rfl
@[simp] theorem storeHome_ctxs (s : State) (pa : Nat) (b : List Byte) : (storeHome s pa b).ctxs = s.ctxs := rfl
@[simp] theorem storeHome_nextCtx (s : State) (pa : Nat) (b : List Byte) : (storeHome s pa b).nextCtx = s.nextCtx := rfl
@[simp] theorem storeHome_cores (s : State) (pa : Nat) (b : List Byte) : (storeHome s pa b).cores = s.cores := rfl
@[simp] theorem storeHome_bays (s : State) (pa : Nat) (b : List Byte) : (storeHome s pa b).bays = s.bays := rfl
@[simp] theorem storeHome_dies (s : State) (pa : Nat) (b : List Byte) : (storeHome s pa b).dies = s.dies := rfl
@[simp] theorem storeHome_pkgs (s : State) (pa : Nat) (b : List Byte) : (storeHome s pa b).pkgs = s.pkgs := rfl
@[simp] theorem storeHome_flight (s : State) (pa : Nat) (b : List Byte) : (storeHome s pa b).flight = s.flight := rfl
@[simp] theorem storeHome_journeys (s : State) (pa : Nat) (b : List Byte) : (storeHome s pa b).journeys = s.journeys := rfl
@[simp] theorem storeHome_nextJourney (s : State) (pa : Nat) (b : List Byte) : (storeHome s pa b).nextJourney = s.nextJourney := rfl
@[simp] theorem storeHome_ev (s : State) (pa : Nat) (b : List Byte) : (storeHome s pa b).ev = s.ev := rfl
@[simp] theorem storeHome_cur (s : State) (pa : Nat) (b : List Byte) : (storeHome s pa b).cur = s.cur := rfl
@[simp] theorem storeHome_now (s : State) (pa : Nat) (b : List Byte) : (storeHome s pa b).now = s.now := rfl
@[simp] theorem storeHome_free (s : State) (pa : Nat) (b : List Byte) : (storeHome s pa b).free = s.free := rfl

@[simp] theorem waitAt_mem (s : State) (w : Wait) : (waitAt s w).mem = s.mem := rfl
@[simp] theorem waitAt_bad (s : State) (w : Wait) : (waitAt s w).bad = s.bad := rfl
@[simp] theorem waitAt_olds (s : State) (w : Wait) : (waitAt s w).olds = s.olds := rfl
@[simp] theorem waitAt_fences (s : State) (w : Wait) : (waitAt s w).fences = s.fences := rfl
@[simp] theorem waitAt_dir (s : State) (w : Wait) : (waitAt s w).dir = s.dir := rfl
@[simp] theorem waitAt_nextCtx (s : State) (w : Wait) : (waitAt s w).nextCtx = s.nextCtx := rfl
@[simp] theorem waitAt_cores (s : State) (w : Wait) : (waitAt s w).cores = s.cores := rfl
@[simp] theorem waitAt_trusses (s : State) (w : Wait) : (waitAt s w).trusses = s.trusses := rfl
@[simp] theorem waitAt_bays (s : State) (w : Wait) : (waitAt s w).bays = s.bays := rfl
@[simp] theorem waitAt_dies (s : State) (w : Wait) : (waitAt s w).dies = s.dies := rfl
@[simp] theorem waitAt_pkgs (s : State) (w : Wait) : (waitAt s w).pkgs = s.pkgs := rfl
@[simp] theorem waitAt_due (s : State) (w : Wait) : (waitAt s w).due = s.due := rfl
@[simp] theorem waitAt_flight (s : State) (w : Wait) : (waitAt s w).flight = s.flight := rfl
@[simp] theorem waitAt_journeys (s : State) (w : Wait) : (waitAt s w).journeys = s.journeys := rfl
@[simp] theorem waitAt_nextJourney (s : State) (w : Wait) : (waitAt s w).nextJourney = s.nextJourney := rfl
@[simp] theorem waitAt_ev (s : State) (w : Wait) : (waitAt s w).ev = s.ev := rfl
@[simp] theorem waitAt_cur (s : State) (w : Wait) : (waitAt s w).cur = s.cur := rfl
@[simp] theorem waitAt_now (s : State) (w : Wait) : (waitAt s w).now = s.now := rfl
@[simp] theorem waitAt_free (s : State) (w : Wait) : (waitAt s w).free = s.free := rfl

@[simp] theorem moveTo_mem (s : State) (pc : DWord) : (moveTo s pc).mem = s.mem := rfl
@[simp] theorem moveTo_bad (s : State) (pc : DWord) : (moveTo s pc).bad = s.bad := rfl
@[simp] theorem moveTo_olds (s : State) (pc : DWord) : (moveTo s pc).olds = s.olds := rfl
@[simp] theorem moveTo_fences (s : State) (pc : DWord) : (moveTo s pc).fences = s.fences := rfl
@[simp] theorem moveTo_dir (s : State) (pc : DWord) : (moveTo s pc).dir = s.dir := rfl
@[simp] theorem moveTo_nextCtx (s : State) (pc : DWord) : (moveTo s pc).nextCtx = s.nextCtx := rfl
@[simp] theorem moveTo_cores (s : State) (pc : DWord) : (moveTo s pc).cores = s.cores := rfl
@[simp] theorem moveTo_trusses (s : State) (pc : DWord) : (moveTo s pc).trusses = s.trusses := rfl
@[simp] theorem moveTo_bays (s : State) (pc : DWord) : (moveTo s pc).bays = s.bays := rfl
@[simp] theorem moveTo_dies (s : State) (pc : DWord) : (moveTo s pc).dies = s.dies := rfl
@[simp] theorem moveTo_pkgs (s : State) (pc : DWord) : (moveTo s pc).pkgs = s.pkgs := rfl
@[simp] theorem moveTo_due (s : State) (pc : DWord) : (moveTo s pc).due = s.due := rfl
@[simp] theorem moveTo_flight (s : State) (pc : DWord) : (moveTo s pc).flight = s.flight := rfl
@[simp] theorem moveTo_journeys (s : State) (pc : DWord) : (moveTo s pc).journeys = s.journeys := rfl
@[simp] theorem moveTo_nextJourney (s : State) (pc : DWord) : (moveTo s pc).nextJourney = s.nextJourney := rfl
@[simp] theorem moveTo_ev (s : State) (pc : DWord) : (moveTo s pc).ev = s.ev := rfl
@[simp] theorem moveTo_cur (s : State) (pc : DWord) : (moveTo s pc).cur = s.cur := rfl
@[simp] theorem moveTo_now (s : State) (pc : DWord) : (moveTo s pc).now = s.now := rfl
@[simp] theorem moveTo_free (s : State) (pc : DWord) : (moveTo s pc).free = s.free := rfl

@[simp] theorem setCoreReg_mem (s : State) (k i : Nat) (v : DWord) : (setCoreReg s k i v).mem = s.mem := rfl
@[simp] theorem setCoreReg_bad (s : State) (k i : Nat) (v : DWord) : (setCoreReg s k i v).bad = s.bad := rfl
@[simp] theorem setCoreReg_olds (s : State) (k i : Nat) (v : DWord) : (setCoreReg s k i v).olds = s.olds := rfl
@[simp] theorem setCoreReg_fences (s : State) (k i : Nat) (v : DWord) : (setCoreReg s k i v).fences = s.fences := rfl
@[simp] theorem setCoreReg_dir (s : State) (k i : Nat) (v : DWord) : (setCoreReg s k i v).dir = s.dir := rfl
@[simp] theorem setCoreReg_ctxs (s : State) (k i : Nat) (v : DWord) : (setCoreReg s k i v).ctxs = s.ctxs := rfl
@[simp] theorem setCoreReg_nextCtx (s : State) (k i : Nat) (v : DWord) : (setCoreReg s k i v).nextCtx = s.nextCtx := rfl
@[simp] theorem setCoreReg_trusses (s : State) (k i : Nat) (v : DWord) : (setCoreReg s k i v).trusses = s.trusses := rfl
@[simp] theorem setCoreReg_bays (s : State) (k i : Nat) (v : DWord) : (setCoreReg s k i v).bays = s.bays := rfl
@[simp] theorem setCoreReg_dies (s : State) (k i : Nat) (v : DWord) : (setCoreReg s k i v).dies = s.dies := rfl
@[simp] theorem setCoreReg_pkgs (s : State) (k i : Nat) (v : DWord) : (setCoreReg s k i v).pkgs = s.pkgs := rfl
@[simp] theorem setCoreReg_due (s : State) (k i : Nat) (v : DWord) : (setCoreReg s k i v).due = s.due := rfl
@[simp] theorem setCoreReg_flight (s : State) (k i : Nat) (v : DWord) : (setCoreReg s k i v).flight = s.flight := rfl
@[simp] theorem setCoreReg_journeys (s : State) (k i : Nat) (v : DWord) : (setCoreReg s k i v).journeys = s.journeys := rfl
@[simp] theorem setCoreReg_nextJourney (s : State) (k i : Nat) (v : DWord) : (setCoreReg s k i v).nextJourney = s.nextJourney := rfl
@[simp] theorem setCoreReg_ev (s : State) (k i : Nat) (v : DWord) : (setCoreReg s k i v).ev = s.ev := rfl
@[simp] theorem setCoreReg_cur (s : State) (k i : Nat) (v : DWord) : (setCoreReg s k i v).cur = s.cur := rfl
@[simp] theorem setCoreReg_now (s : State) (k i : Nat) (v : DWord) : (setCoreReg s k i v).now = s.now := rfl
@[simp] theorem setCoreReg_free (s : State) (k i : Nat) (v : DWord) : (setCoreReg s k i v).free = s.free := rfl

@[simp] theorem setTrussReg_mem (s : State) (k i : Nat) (v : DWord) : (setTrussReg s k i v).mem = s.mem := rfl
@[simp] theorem setTrussReg_bad (s : State) (k i : Nat) (v : DWord) : (setTrussReg s k i v).bad = s.bad := rfl
@[simp] theorem setTrussReg_olds (s : State) (k i : Nat) (v : DWord) : (setTrussReg s k i v).olds = s.olds := rfl
@[simp] theorem setTrussReg_fences (s : State) (k i : Nat) (v : DWord) : (setTrussReg s k i v).fences = s.fences := rfl
@[simp] theorem setTrussReg_dir (s : State) (k i : Nat) (v : DWord) : (setTrussReg s k i v).dir = s.dir := rfl
@[simp] theorem setTrussReg_ctxs (s : State) (k i : Nat) (v : DWord) : (setTrussReg s k i v).ctxs = s.ctxs := rfl
@[simp] theorem setTrussReg_nextCtx (s : State) (k i : Nat) (v : DWord) : (setTrussReg s k i v).nextCtx = s.nextCtx := rfl
@[simp] theorem setTrussReg_cores (s : State) (k i : Nat) (v : DWord) : (setTrussReg s k i v).cores = s.cores := rfl
@[simp] theorem setTrussReg_bays (s : State) (k i : Nat) (v : DWord) : (setTrussReg s k i v).bays = s.bays := rfl
@[simp] theorem setTrussReg_dies (s : State) (k i : Nat) (v : DWord) : (setTrussReg s k i v).dies = s.dies := rfl
@[simp] theorem setTrussReg_pkgs (s : State) (k i : Nat) (v : DWord) : (setTrussReg s k i v).pkgs = s.pkgs := rfl
@[simp] theorem setTrussReg_due (s : State) (k i : Nat) (v : DWord) : (setTrussReg s k i v).due = s.due := rfl
@[simp] theorem setTrussReg_flight (s : State) (k i : Nat) (v : DWord) : (setTrussReg s k i v).flight = s.flight := rfl
@[simp] theorem setTrussReg_journeys (s : State) (k i : Nat) (v : DWord) : (setTrussReg s k i v).journeys = s.journeys := rfl
@[simp] theorem setTrussReg_nextJourney (s : State) (k i : Nat) (v : DWord) : (setTrussReg s k i v).nextJourney = s.nextJourney := rfl
@[simp] theorem setTrussReg_ev (s : State) (k i : Nat) (v : DWord) : (setTrussReg s k i v).ev = s.ev := rfl
@[simp] theorem setTrussReg_cur (s : State) (k i : Nat) (v : DWord) : (setTrussReg s k i v).cur = s.cur := rfl
@[simp] theorem setTrussReg_now (s : State) (k i : Nat) (v : DWord) : (setTrussReg s k i v).now = s.now := rfl
@[simp] theorem setTrussReg_free (s : State) (k i : Nat) (v : DWord) : (setTrussReg s k i v).free = s.free := rfl

@[simp] theorem setBayReg_mem (s : State) (k i : Nat) (v : DWord) : (setBayReg s k i v).mem = s.mem := rfl
@[simp] theorem setBayReg_bad (s : State) (k i : Nat) (v : DWord) : (setBayReg s k i v).bad = s.bad := rfl
@[simp] theorem setBayReg_olds (s : State) (k i : Nat) (v : DWord) : (setBayReg s k i v).olds = s.olds := rfl
@[simp] theorem setBayReg_fences (s : State) (k i : Nat) (v : DWord) : (setBayReg s k i v).fences = s.fences := rfl
@[simp] theorem setBayReg_dir (s : State) (k i : Nat) (v : DWord) : (setBayReg s k i v).dir = s.dir := rfl
@[simp] theorem setBayReg_ctxs (s : State) (k i : Nat) (v : DWord) : (setBayReg s k i v).ctxs = s.ctxs := rfl
@[simp] theorem setBayReg_nextCtx (s : State) (k i : Nat) (v : DWord) : (setBayReg s k i v).nextCtx = s.nextCtx := rfl
@[simp] theorem setBayReg_cores (s : State) (k i : Nat) (v : DWord) : (setBayReg s k i v).cores = s.cores := rfl
@[simp] theorem setBayReg_trusses (s : State) (k i : Nat) (v : DWord) : (setBayReg s k i v).trusses = s.trusses := rfl
@[simp] theorem setBayReg_dies (s : State) (k i : Nat) (v : DWord) : (setBayReg s k i v).dies = s.dies := rfl
@[simp] theorem setBayReg_pkgs (s : State) (k i : Nat) (v : DWord) : (setBayReg s k i v).pkgs = s.pkgs := rfl
@[simp] theorem setBayReg_due (s : State) (k i : Nat) (v : DWord) : (setBayReg s k i v).due = s.due := rfl
@[simp] theorem setBayReg_flight (s : State) (k i : Nat) (v : DWord) : (setBayReg s k i v).flight = s.flight := rfl
@[simp] theorem setBayReg_journeys (s : State) (k i : Nat) (v : DWord) : (setBayReg s k i v).journeys = s.journeys := rfl
@[simp] theorem setBayReg_nextJourney (s : State) (k i : Nat) (v : DWord) : (setBayReg s k i v).nextJourney = s.nextJourney := rfl
@[simp] theorem setBayReg_ev (s : State) (k i : Nat) (v : DWord) : (setBayReg s k i v).ev = s.ev := rfl
@[simp] theorem setBayReg_cur (s : State) (k i : Nat) (v : DWord) : (setBayReg s k i v).cur = s.cur := rfl
@[simp] theorem setBayReg_now (s : State) (k i : Nat) (v : DWord) : (setBayReg s k i v).now = s.now := rfl
@[simp] theorem setBayReg_free (s : State) (k i : Nat) (v : DWord) : (setBayReg s k i v).free = s.free := rfl

@[simp] theorem setDieReg_mem (s : State) (k i : Nat) (v : DWord) : (setDieReg s k i v).mem = s.mem := rfl
@[simp] theorem setDieReg_bad (s : State) (k i : Nat) (v : DWord) : (setDieReg s k i v).bad = s.bad := rfl
@[simp] theorem setDieReg_olds (s : State) (k i : Nat) (v : DWord) : (setDieReg s k i v).olds = s.olds := rfl
@[simp] theorem setDieReg_fences (s : State) (k i : Nat) (v : DWord) : (setDieReg s k i v).fences = s.fences := rfl
@[simp] theorem setDieReg_dir (s : State) (k i : Nat) (v : DWord) : (setDieReg s k i v).dir = s.dir := rfl
@[simp] theorem setDieReg_ctxs (s : State) (k i : Nat) (v : DWord) : (setDieReg s k i v).ctxs = s.ctxs := rfl
@[simp] theorem setDieReg_nextCtx (s : State) (k i : Nat) (v : DWord) : (setDieReg s k i v).nextCtx = s.nextCtx := rfl
@[simp] theorem setDieReg_cores (s : State) (k i : Nat) (v : DWord) : (setDieReg s k i v).cores = s.cores := rfl
@[simp] theorem setDieReg_trusses (s : State) (k i : Nat) (v : DWord) : (setDieReg s k i v).trusses = s.trusses := rfl
@[simp] theorem setDieReg_bays (s : State) (k i : Nat) (v : DWord) : (setDieReg s k i v).bays = s.bays := rfl
@[simp] theorem setDieReg_pkgs (s : State) (k i : Nat) (v : DWord) : (setDieReg s k i v).pkgs = s.pkgs := rfl
@[simp] theorem setDieReg_due (s : State) (k i : Nat) (v : DWord) : (setDieReg s k i v).due = s.due := rfl
@[simp] theorem setDieReg_flight (s : State) (k i : Nat) (v : DWord) : (setDieReg s k i v).flight = s.flight := rfl
@[simp] theorem setDieReg_journeys (s : State) (k i : Nat) (v : DWord) : (setDieReg s k i v).journeys = s.journeys := rfl
@[simp] theorem setDieReg_nextJourney (s : State) (k i : Nat) (v : DWord) : (setDieReg s k i v).nextJourney = s.nextJourney := rfl
@[simp] theorem setDieReg_ev (s : State) (k i : Nat) (v : DWord) : (setDieReg s k i v).ev = s.ev := rfl
@[simp] theorem setDieReg_cur (s : State) (k i : Nat) (v : DWord) : (setDieReg s k i v).cur = s.cur := rfl
@[simp] theorem setDieReg_now (s : State) (k i : Nat) (v : DWord) : (setDieReg s k i v).now = s.now := rfl
@[simp] theorem setDieReg_free (s : State) (k i : Nat) (v : DWord) : (setDieReg s k i v).free = s.free := rfl

/-! ## Units by key -/

@[simp] theorem getCore_setCtx (s : State) (c : Nat) (x : Ctx) (q : Nat) : getCore (setCtx s c x) q = getCore s q := rfl
@[simp] theorem getTruss_setCtx (s : State) (c : Nat) (x : Ctx) (q : Nat) : getTruss (setCtx s c x) q = getTruss s q := rfl
@[simp] theorem getBay_setCtx (s : State) (c : Nat) (x : Ctx) (q : Nat) : getBay (setCtx s c x) q = getBay s q := rfl
@[simp] theorem getDie_setCtx (s : State) (c : Nat) (x : Ctx) (q : Nat) : getDie (setCtx s c x) q = getDie s q := rfl
@[simp] theorem getPkg_setCtx (s : State) (c : Nat) (x : Ctx) (q : Nat) : getPkg (setCtx s c x) q = getPkg s q := rfl
@[simp] theorem memByte_setCtx (s : State) (c : Nat) (x : Ctx) (q : Nat) : memByte (setCtx s c x) q = memByte s q := rfl

@[simp] theorem getCore_modCtx (s : State) (c : Nat) (f : Ctx → Ctx) (q : Nat) : getCore (modCtx s c f) q = getCore s q := rfl
@[simp] theorem getTruss_modCtx (s : State) (c : Nat) (f : Ctx → Ctx) (q : Nat) : getTruss (modCtx s c f) q = getTruss s q := rfl
@[simp] theorem getBay_modCtx (s : State) (c : Nat) (f : Ctx → Ctx) (q : Nat) : getBay (modCtx s c f) q = getBay s q := rfl
@[simp] theorem getDie_modCtx (s : State) (c : Nat) (f : Ctx → Ctx) (q : Nat) : getDie (modCtx s c f) q = getDie s q := rfl
@[simp] theorem getPkg_modCtx (s : State) (c : Nat) (f : Ctx → Ctx) (q : Nat) : getPkg (modCtx s c f) q = getPkg s q := rfl
@[simp] theorem memByte_modCtx (s : State) (c : Nat) (f : Ctx → Ctx) (q : Nat) : memByte (modCtx s c f) q = memByte s q := rfl

@[simp] theorem getCore_modCurLane (s : State) (l : Nat) (f : Lane → Lane) (q : Nat) : getCore (modCurLane s l f) q = getCore s q := rfl
@[simp] theorem getTruss_modCurLane (s : State) (l : Nat) (f : Lane → Lane) (q : Nat) : getTruss (modCurLane s l f) q = getTruss s q := rfl
@[simp] theorem getBay_modCurLane (s : State) (l : Nat) (f : Lane → Lane) (q : Nat) : getBay (modCurLane s l f) q = getBay s q := rfl
@[simp] theorem getDie_modCurLane (s : State) (l : Nat) (f : Lane → Lane) (q : Nat) : getDie (modCurLane s l f) q = getDie s q := rfl
@[simp] theorem getPkg_modCurLane (s : State) (l : Nat) (f : Lane → Lane) (q : Nat) : getPkg (modCurLane s l f) q = getPkg s q := rfl
@[simp] theorem memByte_modCurLane (s : State) (l : Nat) (f : Lane → Lane) (q : Nat) : memByte (modCurLane s l f) q = memByte s q := rfl

@[simp] theorem getCtx_setCore (s : State) (k : Nat) (c : CoreSt) (q : Nat) : getCtx (setCore s k c) q = getCtx s q := rfl
@[simp] theorem getTruss_setCore (s : State) (k : Nat) (c : CoreSt) (q : Nat) : getTruss (setCore s k c) q = getTruss s q := rfl
@[simp] theorem getBay_setCore (s : State) (k : Nat) (c : CoreSt) (q : Nat) : getBay (setCore s k c) q = getBay s q := rfl
@[simp] theorem getDie_setCore (s : State) (k : Nat) (c : CoreSt) (q : Nat) : getDie (setCore s k c) q = getDie s q := rfl
@[simp] theorem getPkg_setCore (s : State) (k : Nat) (c : CoreSt) (q : Nat) : getPkg (setCore s k c) q = getPkg s q := rfl
@[simp] theorem memByte_setCore (s : State) (k : Nat) (c : CoreSt) (q : Nat) : memByte (setCore s k c) q = memByte s q := rfl

@[simp] theorem getCtx_modCore (s : State) (k : Nat) (f : CoreSt → CoreSt) (q : Nat) : getCtx (modCore s k f) q = getCtx s q := rfl
@[simp] theorem getTruss_modCore (s : State) (k : Nat) (f : CoreSt → CoreSt) (q : Nat) : getTruss (modCore s k f) q = getTruss s q := rfl
@[simp] theorem getBay_modCore (s : State) (k : Nat) (f : CoreSt → CoreSt) (q : Nat) : getBay (modCore s k f) q = getBay s q := rfl
@[simp] theorem getDie_modCore (s : State) (k : Nat) (f : CoreSt → CoreSt) (q : Nat) : getDie (modCore s k f) q = getDie s q := rfl
@[simp] theorem getPkg_modCore (s : State) (k : Nat) (f : CoreSt → CoreSt) (q : Nat) : getPkg (modCore s k f) q = getPkg s q := rfl
@[simp] theorem memByte_modCore (s : State) (k : Nat) (f : CoreSt → CoreSt) (q : Nat) : memByte (modCore s k f) q = memByte s q := rfl

@[simp] theorem getCtx_setTruss (s : State) (k : Nat) (c : Truss) (q : Nat) : getCtx (setTruss s k c) q = getCtx s q := rfl
@[simp] theorem getCore_setTruss (s : State) (k : Nat) (c : Truss) (q : Nat) : getCore (setTruss s k c) q = getCore s q := rfl
@[simp] theorem getBay_setTruss (s : State) (k : Nat) (c : Truss) (q : Nat) : getBay (setTruss s k c) q = getBay s q := rfl
@[simp] theorem getDie_setTruss (s : State) (k : Nat) (c : Truss) (q : Nat) : getDie (setTruss s k c) q = getDie s q := rfl
@[simp] theorem getPkg_setTruss (s : State) (k : Nat) (c : Truss) (q : Nat) : getPkg (setTruss s k c) q = getPkg s q := rfl
@[simp] theorem memByte_setTruss (s : State) (k : Nat) (c : Truss) (q : Nat) : memByte (setTruss s k c) q = memByte s q := rfl

@[simp] theorem getCtx_modTruss (s : State) (k : Nat) (f : Truss → Truss) (q : Nat) : getCtx (modTruss s k f) q = getCtx s q := rfl
@[simp] theorem getCore_modTruss (s : State) (k : Nat) (f : Truss → Truss) (q : Nat) : getCore (modTruss s k f) q = getCore s q := rfl
@[simp] theorem getBay_modTruss (s : State) (k : Nat) (f : Truss → Truss) (q : Nat) : getBay (modTruss s k f) q = getBay s q := rfl
@[simp] theorem getDie_modTruss (s : State) (k : Nat) (f : Truss → Truss) (q : Nat) : getDie (modTruss s k f) q = getDie s q := rfl
@[simp] theorem getPkg_modTruss (s : State) (k : Nat) (f : Truss → Truss) (q : Nat) : getPkg (modTruss s k f) q = getPkg s q := rfl
@[simp] theorem memByte_modTruss (s : State) (k : Nat) (f : Truss → Truss) (q : Nat) : memByte (modTruss s k f) q = memByte s q := rfl

@[simp] theorem getCtx_modBay (s : State) (k : Nat) (f : Bay → Bay) (q : Nat) : getCtx (modBay s k f) q = getCtx s q := rfl
@[simp] theorem getCore_modBay (s : State) (k : Nat) (f : Bay → Bay) (q : Nat) : getCore (modBay s k f) q = getCore s q := rfl
@[simp] theorem getTruss_modBay (s : State) (k : Nat) (f : Bay → Bay) (q : Nat) : getTruss (modBay s k f) q = getTruss s q := rfl
@[simp] theorem getDie_modBay (s : State) (k : Nat) (f : Bay → Bay) (q : Nat) : getDie (modBay s k f) q = getDie s q := rfl
@[simp] theorem getPkg_modBay (s : State) (k : Nat) (f : Bay → Bay) (q : Nat) : getPkg (modBay s k f) q = getPkg s q := rfl
@[simp] theorem memByte_modBay (s : State) (k : Nat) (f : Bay → Bay) (q : Nat) : memByte (modBay s k f) q = memByte s q := rfl

@[simp] theorem getCtx_modDie (s : State) (k : Nat) (f : Die → Die) (q : Nat) : getCtx (modDie s k f) q = getCtx s q := rfl
@[simp] theorem getCore_modDie (s : State) (k : Nat) (f : Die → Die) (q : Nat) : getCore (modDie s k f) q = getCore s q := rfl
@[simp] theorem getTruss_modDie (s : State) (k : Nat) (f : Die → Die) (q : Nat) : getTruss (modDie s k f) q = getTruss s q := rfl
@[simp] theorem getBay_modDie (s : State) (k : Nat) (f : Die → Die) (q : Nat) : getBay (modDie s k f) q = getBay s q := rfl
@[simp] theorem getPkg_modDie (s : State) (k : Nat) (f : Die → Die) (q : Nat) : getPkg (modDie s k f) q = getPkg s q := rfl
@[simp] theorem memByte_modDie (s : State) (k : Nat) (f : Die → Die) (q : Nat) : memByte (modDie s k f) q = memByte s q := rfl

@[simp] theorem getCtx_modPkg (s : State) (k : Nat) (f : Pkg → Pkg) (q : Nat) : getCtx (modPkg s k f) q = getCtx s q := rfl
@[simp] theorem getCore_modPkg (s : State) (k : Nat) (f : Pkg → Pkg) (q : Nat) : getCore (modPkg s k f) q = getCore s q := rfl
@[simp] theorem getTruss_modPkg (s : State) (k : Nat) (f : Pkg → Pkg) (q : Nat) : getTruss (modPkg s k f) q = getTruss s q := rfl
@[simp] theorem getBay_modPkg (s : State) (k : Nat) (f : Pkg → Pkg) (q : Nat) : getBay (modPkg s k f) q = getBay s q := rfl
@[simp] theorem getDie_modPkg (s : State) (k : Nat) (f : Pkg → Pkg) (q : Nat) : getDie (modPkg s k f) q = getDie s q := rfl
@[simp] theorem memByte_modPkg (s : State) (k : Nat) (f : Pkg → Pkg) (q : Nat) : memByte (modPkg s k f) q = memByte s q := rfl

@[simp] theorem getCtx_pushDue (s : State) (l : List Ev) (q : Nat) : getCtx (pushDue s l) q = getCtx s q := rfl
@[simp] theorem getCore_pushDue (s : State) (l : List Ev) (q : Nat) : getCore (pushDue s l) q = getCore s q := rfl
@[simp] theorem getTruss_pushDue (s : State) (l : List Ev) (q : Nat) : getTruss (pushDue s l) q = getTruss s q := rfl
@[simp] theorem getBay_pushDue (s : State) (l : List Ev) (q : Nat) : getBay (pushDue s l) q = getBay s q := rfl
@[simp] theorem getDie_pushDue (s : State) (l : List Ev) (q : Nat) : getDie (pushDue s l) q = getDie s q := rfl
@[simp] theorem getPkg_pushDue (s : State) (l : List Ev) (q : Nat) : getPkg (pushDue s l) q = getPkg s q := rfl
@[simp] theorem memByte_pushDue (s : State) (l : List Ev) (q : Nat) : memByte (pushDue s l) q = memByte s q := rfl

@[simp] theorem getCtx_pushFlight (s : State) (l : List Ev) (q : Nat) : getCtx (pushFlight s l) q = getCtx s q := rfl
@[simp] theorem getCore_pushFlight (s : State) (l : List Ev) (q : Nat) : getCore (pushFlight s l) q = getCore s q := rfl
@[simp] theorem getTruss_pushFlight (s : State) (l : List Ev) (q : Nat) : getTruss (pushFlight s l) q = getTruss s q := rfl
@[simp] theorem getBay_pushFlight (s : State) (l : List Ev) (q : Nat) : getBay (pushFlight s l) q = getBay s q := rfl
@[simp] theorem getDie_pushFlight (s : State) (l : List Ev) (q : Nat) : getDie (pushFlight s l) q = getDie s q := rfl
@[simp] theorem getPkg_pushFlight (s : State) (l : List Ev) (q : Nat) : getPkg (pushFlight s l) q = getPkg s q := rfl
@[simp] theorem memByte_pushFlight (s : State) (l : List Ev) (q : Nat) : memByte (pushFlight s l) q = memByte s q := rfl

@[simp] theorem getCtx_storeHome (s : State) (pa : Nat) (b : List Byte) (q : Nat) : getCtx (storeHome s pa b) q = getCtx s q := rfl
@[simp] theorem getCore_storeHome (s : State) (pa : Nat) (b : List Byte) (q : Nat) : getCore (storeHome s pa b) q = getCore s q := rfl
@[simp] theorem getBay_storeHome (s : State) (pa : Nat) (b : List Byte) (q : Nat) : getBay (storeHome s pa b) q = getBay s q := rfl
@[simp] theorem getDie_storeHome (s : State) (pa : Nat) (b : List Byte) (q : Nat) : getDie (storeHome s pa b) q = getDie s q := rfl
@[simp] theorem getPkg_storeHome (s : State) (pa : Nat) (b : List Byte) (q : Nat) : getPkg (storeHome s pa b) q = getPkg s q := rfl

@[simp] theorem getCore_waitAt (s : State) (w : Wait) (q : Nat) : getCore (waitAt s w) q = getCore s q := rfl
@[simp] theorem getTruss_waitAt (s : State) (w : Wait) (q : Nat) : getTruss (waitAt s w) q = getTruss s q := rfl
@[simp] theorem getBay_waitAt (s : State) (w : Wait) (q : Nat) : getBay (waitAt s w) q = getBay s q := rfl
@[simp] theorem getDie_waitAt (s : State) (w : Wait) (q : Nat) : getDie (waitAt s w) q = getDie s q := rfl
@[simp] theorem getPkg_waitAt (s : State) (w : Wait) (q : Nat) : getPkg (waitAt s w) q = getPkg s q := rfl
@[simp] theorem memByte_waitAt (s : State) (w : Wait) (q : Nat) : memByte (waitAt s w) q = memByte s q := rfl

@[simp] theorem getCore_moveTo (s : State) (pc : DWord) (q : Nat) : getCore (moveTo s pc) q = getCore s q := rfl
@[simp] theorem getTruss_moveTo (s : State) (pc : DWord) (q : Nat) : getTruss (moveTo s pc) q = getTruss s q := rfl
@[simp] theorem getBay_moveTo (s : State) (pc : DWord) (q : Nat) : getBay (moveTo s pc) q = getBay s q := rfl
@[simp] theorem getDie_moveTo (s : State) (pc : DWord) (q : Nat) : getDie (moveTo s pc) q = getDie s q := rfl
@[simp] theorem getPkg_moveTo (s : State) (pc : DWord) (q : Nat) : getPkg (moveTo s pc) q = getPkg s q := rfl
@[simp] theorem memByte_moveTo (s : State) (pc : DWord) (q : Nat) : memByte (moveTo s pc) q = memByte s q := rfl

@[simp] theorem getCtx_setCoreReg (s : State) (k i : Nat) (v : DWord) (q : Nat) : getCtx (setCoreReg s k i v) q = getCtx s q := rfl
@[simp] theorem getTruss_setCoreReg (s : State) (k i : Nat) (v : DWord) (q : Nat) : getTruss (setCoreReg s k i v) q = getTruss s q := rfl
@[simp] theorem getBay_setCoreReg (s : State) (k i : Nat) (v : DWord) (q : Nat) : getBay (setCoreReg s k i v) q = getBay s q := rfl
@[simp] theorem getDie_setCoreReg (s : State) (k i : Nat) (v : DWord) (q : Nat) : getDie (setCoreReg s k i v) q = getDie s q := rfl
@[simp] theorem getPkg_setCoreReg (s : State) (k i : Nat) (v : DWord) (q : Nat) : getPkg (setCoreReg s k i v) q = getPkg s q := rfl
@[simp] theorem memByte_setCoreReg (s : State) (k i : Nat) (v : DWord) (q : Nat) : memByte (setCoreReg s k i v) q = memByte s q := rfl

@[simp] theorem getCtx_setTrussReg (s : State) (k i : Nat) (v : DWord) (q : Nat) : getCtx (setTrussReg s k i v) q = getCtx s q := rfl
@[simp] theorem getCore_setTrussReg (s : State) (k i : Nat) (v : DWord) (q : Nat) : getCore (setTrussReg s k i v) q = getCore s q := rfl
@[simp] theorem getBay_setTrussReg (s : State) (k i : Nat) (v : DWord) (q : Nat) : getBay (setTrussReg s k i v) q = getBay s q := rfl
@[simp] theorem getDie_setTrussReg (s : State) (k i : Nat) (v : DWord) (q : Nat) : getDie (setTrussReg s k i v) q = getDie s q := rfl
@[simp] theorem getPkg_setTrussReg (s : State) (k i : Nat) (v : DWord) (q : Nat) : getPkg (setTrussReg s k i v) q = getPkg s q := rfl
@[simp] theorem memByte_setTrussReg (s : State) (k i : Nat) (v : DWord) (q : Nat) : memByte (setTrussReg s k i v) q = memByte s q := rfl

@[simp] theorem getCtx_setBayReg (s : State) (k i : Nat) (v : DWord) (q : Nat) : getCtx (setBayReg s k i v) q = getCtx s q := rfl
@[simp] theorem getCore_setBayReg (s : State) (k i : Nat) (v : DWord) (q : Nat) : getCore (setBayReg s k i v) q = getCore s q := rfl
@[simp] theorem getTruss_setBayReg (s : State) (k i : Nat) (v : DWord) (q : Nat) : getTruss (setBayReg s k i v) q = getTruss s q := rfl
@[simp] theorem getDie_setBayReg (s : State) (k i : Nat) (v : DWord) (q : Nat) : getDie (setBayReg s k i v) q = getDie s q := rfl
@[simp] theorem getPkg_setBayReg (s : State) (k i : Nat) (v : DWord) (q : Nat) : getPkg (setBayReg s k i v) q = getPkg s q := rfl
@[simp] theorem memByte_setBayReg (s : State) (k i : Nat) (v : DWord) (q : Nat) : memByte (setBayReg s k i v) q = memByte s q := rfl

@[simp] theorem getCtx_setDieReg (s : State) (k i : Nat) (v : DWord) (q : Nat) : getCtx (setDieReg s k i v) q = getCtx s q := rfl
@[simp] theorem getCore_setDieReg (s : State) (k i : Nat) (v : DWord) (q : Nat) : getCore (setDieReg s k i v) q = getCore s q := rfl
@[simp] theorem getTruss_setDieReg (s : State) (k i : Nat) (v : DWord) (q : Nat) : getTruss (setDieReg s k i v) q = getTruss s q := rfl
@[simp] theorem getBay_setDieReg (s : State) (k i : Nat) (v : DWord) (q : Nat) : getBay (setDieReg s k i v) q = getBay s q := rfl
@[simp] theorem getPkg_setDieReg (s : State) (k i : Nat) (v : DWord) (q : Nat) : getPkg (setDieReg s k i v) q = getPkg s q := rfl
@[simp] theorem memByte_setDieReg (s : State) (k i : Nat) (v : DWord) (q : Nat) : memByte (setDieReg s k i v) q = memByte s q := rfl

@[simp] theorem getCtx_setCtx (s : State) (c : Nat) (x : Ctx) (q : Nat) :
    getCtx (setCtx s c x) q = if q = c then x else getCtx s q := by
  simp only [getCtx, setCtx]; exact tget_tset ..
@[simp] theorem getCtx_modCtx (s : State) (c : Nat) (f : Ctx → Ctx) (q : Nat) :
    getCtx (modCtx s c f) q = if q = c then f (getCtx s c) else getCtx s q := by
  simp only [getCtx, modCtx, setCtx]; exact tget_tset ..
@[simp] theorem getCore_setCore (s : State) (k : Nat) (c : CoreSt) (q : Nat) :
    getCore (setCore s k c) q = if q = k then c else getCore s q := by
  simp only [getCore, setCore]; exact tget_tset ..
@[simp] theorem getCore_modCore (s : State) (k : Nat) (f : CoreSt → CoreSt) (q : Nat) :
    getCore (modCore s k f) q = if q = k then f (getCore s k) else getCore s q := by
  simp only [getCore, modCore, setCore]; exact tget_tset ..
@[simp] theorem getTruss_setTruss (s : State) (k : Nat) (c : Truss) (q : Nat) :
    getTruss (setTruss s k c) q = if q = k then c else getTruss s q := by
  simp only [getTruss, setTruss]; exact tget_tset ..
@[simp] theorem getTruss_modTruss (s : State) (k : Nat) (f : Truss → Truss) (q : Nat) :
    getTruss (modTruss s k f) q = if q = k then f (getTruss s k) else getTruss s q := by
  simp only [getTruss, modTruss, setTruss]; exact tget_tset ..
@[simp] theorem getBay_modBay (s : State) (k : Nat) (f : Bay → Bay) (q : Nat) :
    getBay (modBay s k f) q = if q = k then f (getBay s k) else getBay s q := by
  simp only [getBay, modBay]; exact tget_tset ..
@[simp] theorem getDie_modDie (s : State) (k : Nat) (f : Die → Die) (q : Nat) :
    getDie (modDie s k f) q = if q = k then f (getDie s k) else getDie s q := by
  simp only [getDie, modDie]; exact tget_tset ..
@[simp] theorem getPkg_modPkg (s : State) (k : Nat) (f : Pkg → Pkg) (q : Nat) :
    getPkg (modPkg s k f) q = if q = k then f (getPkg s k) else getPkg s q := by
  simp only [getPkg, modPkg]; exact tget_tset ..
@[simp] theorem getCtx_withCur (s : State) (k : Issuer) (q : Nat) : getCtx { s with cur := k } q = getCtx s q := rfl
@[simp] theorem getCtx_withEv (s : State) (e : Option Ev) (q : Nat) : getCtx { s with ev := e } q = getCtx s q := rfl
@[simp] theorem getCtx_withDue (s : State) (l : List Ev) (q : Nat) : getCtx { s with due := l } q = getCtx s q := rfl
@[simp] theorem getCtx_withFlight (s : State) (l : List Ev) (q : Nat) : getCtx { s with flight := l } q = getCtx s q := rfl

/-! ## Fields of a lane -/

@[simp] theorem setLaneReg_live (r : Nat) (v : Word) (a : Lane) : (setLaneReg r v a).live = a.live := rfl
@[simp] theorem setLaneReg_actv (r : Nat) (v : Word) (a : Lane) : (setLaneReg r v a).actv = a.actv := rfl
@[simp] theorem setLaneReg_annul (r : Nat) (v : Word) (a : Lane) : (setLaneReg r v a).annul = a.annul := rfl
@[simp] theorem setLaneReg_annulSaved (r : Nat) (v : Word) (a : Lane) : (setLaneReg r v a).annulSaved = a.annulSaved := rfl
@[simp] theorem setLaneReg_depth (r : Nat) (v : Word) (a : Lane) : (setLaneReg r v a).depth = a.depth := rfl
@[simp] theorem setLaneReg_regs (r : Nat) (v : Word) (a : Lane) : (setLaneReg r v a).regs = tset 0 a.regs r v := rfl
@[simp] theorem setLaneReg_b (r : Nat) (v : Word) (a : Lane) : (setLaneReg r v a).b = a.b := rfl
@[simp] theorem setLaneReg_pc (r : Nat) (v : Word) (a : Lane) : (setLaneReg r v a).pc = a.pc := rfl
@[simp] theorem setLaneReg_status (r : Nat) (v : Word) (a : Lane) : (setLaneReg r v a).status = a.status := rfl
@[simp] theorem setLaneReg_slim (r : Nat) (v : Word) (a : Lane) : (setLaneReg r v a).slim = a.slim := rfl
@[simp] theorem setLaneReg_ttb (r : Nat) (v : Word) (a : Lane) : (setLaneReg r v a).ttb = a.ttb := rfl
@[simp] theorem setLaneReg_lnid (r : Nat) (v : Word) (a : Lane) : (setLaneReg r v a).lnid = a.lnid := rfl
@[simp] theorem setLaneReg_lndim (r : Nat) (v : Word) (a : Lane) : (setLaneReg r v a).lndim = a.lndim := rfl
@[simp] theorem setLaneReg_queues (r : Nat) (v : Word) (a : Lane) : (setLaneReg r v a).queues = a.queues := rfl
@[simp] theorem setLaneReg_epc (r : Nat) (v : Word) (a : Lane) : (setLaneReg r v a).epc = a.epc := rfl
@[simp] theorem setLaneReg_estatus (r : Nat) (v : Word) (a : Lane) : (setLaneReg r v a).estatus = a.estatus := rfl
@[simp] theorem setLaneReg_tcause (r : Nat) (v : Word) (a : Lane) : (setLaneReg r v a).tcause = a.tcause := rfl
@[simp] theorem setLaneReg_tpc (r : Nat) (v : Word) (a : Lane) : (setLaneReg r v a).tpc = a.tpc := rfl
@[simp] theorem setLaneReg_teq (r : Nat) (v : Word) (a : Lane) : (setLaneReg r v a).teq = a.teq := rfl
@[simp] theorem setLaneReg_txpc (r : Nat) (v : Word) (a : Lane) : (setLaneReg r v a).txpc = a.txpc := rfl
@[simp] theorem setLaneReg_taddr (r : Nat) (v : Word) (a : Lane) : (setLaneReg r v a).taddr = a.taddr := rfl
@[simp] theorem setLaneReg_tmask (r : Nat) (v : Word) (a : Lane) : (setLaneReg r v a).tmask = a.tmask := rfl
@[simp] theorem setLaneReg_tscr0 (r : Nat) (v : Word) (a : Lane) : (setLaneReg r v a).tscr0 = a.tscr0 := rfl
@[simp] theorem setLaneReg_tscr1 (r : Nat) (v : Word) (a : Lane) : (setLaneReg r v a).tscr1 = a.tscr1 := rfl
@[simp] theorem setLaneReg_inHandler (r : Nat) (v : Word) (a : Lane) : (setLaneReg r v a).inHandler = a.inHandler := rfl
@[simp] theorem setLaneReg_pendWake (r : Nat) (v : Word) (a : Lane) : (setLaneReg r v a).pendWake = a.pendWake := rfl
@[simp] theorem setLaneReg_wait (r : Nat) (v : Word) (a : Lane) : (setLaneReg r v a).wait = a.wait := rfl
@[simp] theorem setLaneReg_inst (r : Nat) (v : Word) (a : Lane) : (setLaneReg r v a).inst = a.inst := rfl
@[simp] theorem setLaneReg_hold (r : Nat) (v : Word) (a : Lane) : (setLaneReg r v a).hold = a.hold := rfl
@[simp] theorem setLaneReg_refpend (r : Nat) (v : Word) (a : Lane) : (setLaneReg r v a).refpend = a.refpend := rfl
@[simp] theorem setLaneReg_wskip (r : Nat) (v : Word) (a : Lane) : (setLaneReg r v a).wskip = a.wskip := rfl
@[simp] theorem setLaneReg_stopped (r : Nat) (v : Word) (a : Lane) : (setLaneReg r v a).stopped = a.stopped := rfl
@[simp] theorem setLaneReg_stepping (r : Nat) (v : Word) (a : Lane) : (setLaneReg r v a).stepping = a.stepping := rfl
@[simp] theorem setLaneReg_haltReq (r : Nat) (v : Word) (a : Lane) : (setLaneReg r v a).haltReq = a.haltReq := rfl
@[simp] theorem setLaneReg_passBp (r : Nat) (v : Word) (a : Lane) : (setLaneReg r v a).passBp = a.passBp := rfl
@[simp] theorem setLaneReg_point (r : Nat) (v : Word) (a : Lane) : (setLaneReg r v a).point = a.point := rfl
@[simp] theorem setLaneReg_pointOther (r : Nat) (v : Word) (a : Lane) : (setLaneReg r v a).pointOther = a.pointOther := rfl
@[simp] theorem setLaneReg_noeq (r : Nat) (v : Word) (a : Lane) : (setLaneReg r v a).noeq = a.noeq := rfl
@[simp] theorem setLaneReg_icnt (r : Nat) (v : Word) (a : Lane) : (setLaneReg r v a).icnt = a.icnt := rfl
@[simp] theorem setLaneReg_replay (r : Nat) (v : Word) (a : Lane) : (setLaneReg r v a).replay = a.replay := rfl

@[simp] theorem setLaneB_live (n : Nat) (v : DWord) (a : Lane) : (setLaneB n v a).live = a.live := rfl
@[simp] theorem setLaneB_actv (n : Nat) (v : DWord) (a : Lane) : (setLaneB n v a).actv = a.actv := rfl
@[simp] theorem setLaneB_annul (n : Nat) (v : DWord) (a : Lane) : (setLaneB n v a).annul = a.annul := rfl
@[simp] theorem setLaneB_annulSaved (n : Nat) (v : DWord) (a : Lane) : (setLaneB n v a).annulSaved = a.annulSaved := rfl
@[simp] theorem setLaneB_depth (n : Nat) (v : DWord) (a : Lane) : (setLaneB n v a).depth = a.depth := rfl
@[simp] theorem setLaneB_regs (n : Nat) (v : DWord) (a : Lane) : (setLaneB n v a).regs = a.regs := rfl
@[simp] theorem setLaneB_b (n : Nat) (v : DWord) (a : Lane) : (setLaneB n v a).b = tset 0 a.b n v := rfl
@[simp] theorem setLaneB_pc (n : Nat) (v : DWord) (a : Lane) : (setLaneB n v a).pc = a.pc := rfl
@[simp] theorem setLaneB_status (n : Nat) (v : DWord) (a : Lane) : (setLaneB n v a).status = a.status := rfl
@[simp] theorem setLaneB_slim (n : Nat) (v : DWord) (a : Lane) : (setLaneB n v a).slim = a.slim := rfl
@[simp] theorem setLaneB_ttb (n : Nat) (v : DWord) (a : Lane) : (setLaneB n v a).ttb = a.ttb := rfl
@[simp] theorem setLaneB_lnid (n : Nat) (v : DWord) (a : Lane) : (setLaneB n v a).lnid = a.lnid := rfl
@[simp] theorem setLaneB_lndim (n : Nat) (v : DWord) (a : Lane) : (setLaneB n v a).lndim = a.lndim := rfl
@[simp] theorem setLaneB_queues (n : Nat) (v : DWord) (a : Lane) : (setLaneB n v a).queues = a.queues := rfl
@[simp] theorem setLaneB_epc (n : Nat) (v : DWord) (a : Lane) : (setLaneB n v a).epc = a.epc := rfl
@[simp] theorem setLaneB_estatus (n : Nat) (v : DWord) (a : Lane) : (setLaneB n v a).estatus = a.estatus := rfl
@[simp] theorem setLaneB_tcause (n : Nat) (v : DWord) (a : Lane) : (setLaneB n v a).tcause = a.tcause := rfl
@[simp] theorem setLaneB_tpc (n : Nat) (v : DWord) (a : Lane) : (setLaneB n v a).tpc = a.tpc := rfl
@[simp] theorem setLaneB_teq (n : Nat) (v : DWord) (a : Lane) : (setLaneB n v a).teq = a.teq := rfl
@[simp] theorem setLaneB_txpc (n : Nat) (v : DWord) (a : Lane) : (setLaneB n v a).txpc = a.txpc := rfl
@[simp] theorem setLaneB_taddr (n : Nat) (v : DWord) (a : Lane) : (setLaneB n v a).taddr = a.taddr := rfl
@[simp] theorem setLaneB_tmask (n : Nat) (v : DWord) (a : Lane) : (setLaneB n v a).tmask = a.tmask := rfl
@[simp] theorem setLaneB_tscr0 (n : Nat) (v : DWord) (a : Lane) : (setLaneB n v a).tscr0 = a.tscr0 := rfl
@[simp] theorem setLaneB_tscr1 (n : Nat) (v : DWord) (a : Lane) : (setLaneB n v a).tscr1 = a.tscr1 := rfl
@[simp] theorem setLaneB_inHandler (n : Nat) (v : DWord) (a : Lane) : (setLaneB n v a).inHandler = a.inHandler := rfl
@[simp] theorem setLaneB_pendWake (n : Nat) (v : DWord) (a : Lane) : (setLaneB n v a).pendWake = a.pendWake := rfl
@[simp] theorem setLaneB_wait (n : Nat) (v : DWord) (a : Lane) : (setLaneB n v a).wait = a.wait := rfl
@[simp] theorem setLaneB_inst (n : Nat) (v : DWord) (a : Lane) : (setLaneB n v a).inst = a.inst := rfl
@[simp] theorem setLaneB_hold (n : Nat) (v : DWord) (a : Lane) : (setLaneB n v a).hold = a.hold := rfl
@[simp] theorem setLaneB_refpend (n : Nat) (v : DWord) (a : Lane) : (setLaneB n v a).refpend = a.refpend := rfl
@[simp] theorem setLaneB_wskip (n : Nat) (v : DWord) (a : Lane) : (setLaneB n v a).wskip = a.wskip := rfl
@[simp] theorem setLaneB_stopped (n : Nat) (v : DWord) (a : Lane) : (setLaneB n v a).stopped = a.stopped := rfl
@[simp] theorem setLaneB_stepping (n : Nat) (v : DWord) (a : Lane) : (setLaneB n v a).stepping = a.stepping := rfl
@[simp] theorem setLaneB_haltReq (n : Nat) (v : DWord) (a : Lane) : (setLaneB n v a).haltReq = a.haltReq := rfl
@[simp] theorem setLaneB_passBp (n : Nat) (v : DWord) (a : Lane) : (setLaneB n v a).passBp = a.passBp := rfl
@[simp] theorem setLaneB_point (n : Nat) (v : DWord) (a : Lane) : (setLaneB n v a).point = a.point := rfl
@[simp] theorem setLaneB_pointOther (n : Nat) (v : DWord) (a : Lane) : (setLaneB n v a).pointOther = a.pointOther := rfl
@[simp] theorem setLaneB_noeq (n : Nat) (v : DWord) (a : Lane) : (setLaneB n v a).noeq = a.noeq := rfl
@[simp] theorem setLaneB_icnt (n : Nat) (v : DWord) (a : Lane) : (setLaneB n v a).icnt = a.icnt := rfl
@[simp] theorem setLaneB_replay (n : Nat) (v : DWord) (a : Lane) : (setLaneB n v a).replay = a.replay := rfl

@[simp] theorem setLaneQ_live (n : Nat) (q : Queue) (a : Lane) : (setLaneQ n q a).live = a.live := rfl
@[simp] theorem setLaneQ_actv (n : Nat) (q : Queue) (a : Lane) : (setLaneQ n q a).actv = a.actv := rfl
@[simp] theorem setLaneQ_annul (n : Nat) (q : Queue) (a : Lane) : (setLaneQ n q a).annul = a.annul := rfl
@[simp] theorem setLaneQ_annulSaved (n : Nat) (q : Queue) (a : Lane) : (setLaneQ n q a).annulSaved = a.annulSaved := rfl
@[simp] theorem setLaneQ_depth (n : Nat) (q : Queue) (a : Lane) : (setLaneQ n q a).depth = a.depth := rfl
@[simp] theorem setLaneQ_regs (n : Nat) (q : Queue) (a : Lane) : (setLaneQ n q a).regs = a.regs := rfl
@[simp] theorem setLaneQ_b (n : Nat) (q : Queue) (a : Lane) : (setLaneQ n q a).b = a.b := rfl
@[simp] theorem setLaneQ_pc (n : Nat) (q : Queue) (a : Lane) : (setLaneQ n q a).pc = a.pc := rfl
@[simp] theorem setLaneQ_status (n : Nat) (q : Queue) (a : Lane) : (setLaneQ n q a).status = a.status := rfl
@[simp] theorem setLaneQ_slim (n : Nat) (q : Queue) (a : Lane) : (setLaneQ n q a).slim = a.slim := rfl
@[simp] theorem setLaneQ_ttb (n : Nat) (q : Queue) (a : Lane) : (setLaneQ n q a).ttb = a.ttb := rfl
@[simp] theorem setLaneQ_lnid (n : Nat) (q : Queue) (a : Lane) : (setLaneQ n q a).lnid = a.lnid := rfl
@[simp] theorem setLaneQ_lndim (n : Nat) (q : Queue) (a : Lane) : (setLaneQ n q a).lndim = a.lndim := rfl
@[simp] theorem setLaneQ_queues (n : Nat) (q : Queue) (a : Lane) : (setLaneQ n q a).queues = tset {} a.queues n q := rfl
@[simp] theorem setLaneQ_epc (n : Nat) (q : Queue) (a : Lane) : (setLaneQ n q a).epc = a.epc := rfl
@[simp] theorem setLaneQ_estatus (n : Nat) (q : Queue) (a : Lane) : (setLaneQ n q a).estatus = a.estatus := rfl
@[simp] theorem setLaneQ_tcause (n : Nat) (q : Queue) (a : Lane) : (setLaneQ n q a).tcause = a.tcause := rfl
@[simp] theorem setLaneQ_tpc (n : Nat) (q : Queue) (a : Lane) : (setLaneQ n q a).tpc = a.tpc := rfl
@[simp] theorem setLaneQ_teq (n : Nat) (q : Queue) (a : Lane) : (setLaneQ n q a).teq = a.teq := rfl
@[simp] theorem setLaneQ_txpc (n : Nat) (q : Queue) (a : Lane) : (setLaneQ n q a).txpc = a.txpc := rfl
@[simp] theorem setLaneQ_taddr (n : Nat) (q : Queue) (a : Lane) : (setLaneQ n q a).taddr = a.taddr := rfl
@[simp] theorem setLaneQ_tmask (n : Nat) (q : Queue) (a : Lane) : (setLaneQ n q a).tmask = a.tmask := rfl
@[simp] theorem setLaneQ_tscr0 (n : Nat) (q : Queue) (a : Lane) : (setLaneQ n q a).tscr0 = a.tscr0 := rfl
@[simp] theorem setLaneQ_tscr1 (n : Nat) (q : Queue) (a : Lane) : (setLaneQ n q a).tscr1 = a.tscr1 := rfl
@[simp] theorem setLaneQ_inHandler (n : Nat) (q : Queue) (a : Lane) : (setLaneQ n q a).inHandler = a.inHandler := rfl
@[simp] theorem setLaneQ_pendWake (n : Nat) (q : Queue) (a : Lane) : (setLaneQ n q a).pendWake = a.pendWake := rfl
@[simp] theorem setLaneQ_wait (n : Nat) (q : Queue) (a : Lane) : (setLaneQ n q a).wait = a.wait := rfl
@[simp] theorem setLaneQ_inst (n : Nat) (q : Queue) (a : Lane) : (setLaneQ n q a).inst = a.inst := rfl
@[simp] theorem setLaneQ_hold (n : Nat) (q : Queue) (a : Lane) : (setLaneQ n q a).hold = a.hold := rfl
@[simp] theorem setLaneQ_refpend (n : Nat) (q : Queue) (a : Lane) : (setLaneQ n q a).refpend = a.refpend := rfl
@[simp] theorem setLaneQ_wskip (n : Nat) (q : Queue) (a : Lane) : (setLaneQ n q a).wskip = a.wskip := rfl
@[simp] theorem setLaneQ_stopped (n : Nat) (q : Queue) (a : Lane) : (setLaneQ n q a).stopped = a.stopped := rfl
@[simp] theorem setLaneQ_stepping (n : Nat) (q : Queue) (a : Lane) : (setLaneQ n q a).stepping = a.stepping := rfl
@[simp] theorem setLaneQ_haltReq (n : Nat) (q : Queue) (a : Lane) : (setLaneQ n q a).haltReq = a.haltReq := rfl
@[simp] theorem setLaneQ_passBp (n : Nat) (q : Queue) (a : Lane) : (setLaneQ n q a).passBp = a.passBp := rfl
@[simp] theorem setLaneQ_point (n : Nat) (q : Queue) (a : Lane) : (setLaneQ n q a).point = a.point := rfl
@[simp] theorem setLaneQ_pointOther (n : Nat) (q : Queue) (a : Lane) : (setLaneQ n q a).pointOther = a.pointOther := rfl
@[simp] theorem setLaneQ_noeq (n : Nat) (q : Queue) (a : Lane) : (setLaneQ n q a).noeq = a.noeq := rfl
@[simp] theorem setLaneQ_icnt (n : Nat) (q : Queue) (a : Lane) : (setLaneQ n q a).icnt = a.icnt := rfl
@[simp] theorem setLaneQ_replay (n : Nat) (q : Queue) (a : Lane) : (setLaneQ n q a).replay = a.replay := rfl

@[simp] theorem stepAnnul_live (a : Lane) : (stepAnnul a).live = a.live := rfl
@[simp] theorem stepAnnul_actv (a : Lane) : (stepAnnul a).actv = a.actv := rfl
@[simp] theorem stepAnnul_annul (a : Lane) : (stepAnnul a).annul = a.annul - 1 := rfl
@[simp] theorem stepAnnul_annulSaved (a : Lane) : (stepAnnul a).annulSaved = a.annulSaved := rfl
@[simp] theorem stepAnnul_depth (a : Lane) : (stepAnnul a).depth = a.depth := rfl
@[simp] theorem stepAnnul_regs (a : Lane) : (stepAnnul a).regs = a.regs := rfl
@[simp] theorem stepAnnul_b (a : Lane) : (stepAnnul a).b = a.b := rfl
@[simp] theorem stepAnnul_pc (a : Lane) : (stepAnnul a).pc = a.pc := rfl
@[simp] theorem stepAnnul_status (a : Lane) : (stepAnnul a).status = a.status := rfl
@[simp] theorem stepAnnul_slim (a : Lane) : (stepAnnul a).slim = a.slim := rfl
@[simp] theorem stepAnnul_ttb (a : Lane) : (stepAnnul a).ttb = a.ttb := rfl
@[simp] theorem stepAnnul_lnid (a : Lane) : (stepAnnul a).lnid = a.lnid := rfl
@[simp] theorem stepAnnul_lndim (a : Lane) : (stepAnnul a).lndim = a.lndim := rfl
@[simp] theorem stepAnnul_queues (a : Lane) : (stepAnnul a).queues = a.queues := rfl
@[simp] theorem stepAnnul_epc (a : Lane) : (stepAnnul a).epc = a.epc := rfl
@[simp] theorem stepAnnul_estatus (a : Lane) : (stepAnnul a).estatus = a.estatus := rfl
@[simp] theorem stepAnnul_tcause (a : Lane) : (stepAnnul a).tcause = a.tcause := rfl
@[simp] theorem stepAnnul_tpc (a : Lane) : (stepAnnul a).tpc = a.tpc := rfl
@[simp] theorem stepAnnul_teq (a : Lane) : (stepAnnul a).teq = a.teq := rfl
@[simp] theorem stepAnnul_txpc (a : Lane) : (stepAnnul a).txpc = a.txpc := rfl
@[simp] theorem stepAnnul_taddr (a : Lane) : (stepAnnul a).taddr = a.taddr := rfl
@[simp] theorem stepAnnul_tmask (a : Lane) : (stepAnnul a).tmask = a.tmask := rfl
@[simp] theorem stepAnnul_tscr0 (a : Lane) : (stepAnnul a).tscr0 = a.tscr0 := rfl
@[simp] theorem stepAnnul_tscr1 (a : Lane) : (stepAnnul a).tscr1 = a.tscr1 := rfl
@[simp] theorem stepAnnul_inHandler (a : Lane) : (stepAnnul a).inHandler = a.inHandler := rfl
@[simp] theorem stepAnnul_pendWake (a : Lane) : (stepAnnul a).pendWake = a.pendWake := rfl
@[simp] theorem stepAnnul_wait (a : Lane) : (stepAnnul a).wait = a.wait := rfl
@[simp] theorem stepAnnul_inst (a : Lane) : (stepAnnul a).inst = a.inst := rfl
@[simp] theorem stepAnnul_hold (a : Lane) : (stepAnnul a).hold = a.hold := rfl
@[simp] theorem stepAnnul_refpend (a : Lane) : (stepAnnul a).refpend = a.refpend := rfl
@[simp] theorem stepAnnul_wskip (a : Lane) : (stepAnnul a).wskip = a.wskip := rfl
@[simp] theorem stepAnnul_stopped (a : Lane) : (stepAnnul a).stopped = a.stopped := rfl
@[simp] theorem stepAnnul_stepping (a : Lane) : (stepAnnul a).stepping = a.stepping := rfl
@[simp] theorem stepAnnul_haltReq (a : Lane) : (stepAnnul a).haltReq = a.haltReq := rfl
@[simp] theorem stepAnnul_passBp (a : Lane) : (stepAnnul a).passBp = a.passBp := rfl
@[simp] theorem stepAnnul_point (a : Lane) : (stepAnnul a).point = a.point := rfl
@[simp] theorem stepAnnul_pointOther (a : Lane) : (stepAnnul a).pointOther = a.pointOther := rfl
@[simp] theorem stepAnnul_noeq (a : Lane) : (stepAnnul a).noeq = a.noeq := rfl
@[simp] theorem stepAnnul_icnt (a : Lane) : (stepAnnul a).icnt = a.icnt := rfl
@[simp] theorem stepAnnul_replay (a : Lane) : (stepAnnul a).replay = a.replay := rfl

/-! ## Registers of a lane -/

theorem laneReg_setLaneReg (r q : Nat) (v : Word) (a : Lane) :
    laneReg (setLaneReg r v a) q = if q = r then v else laneReg a q := tget_tset ..
theorem laneB_setLaneB (r q : Nat) (v : DWord) (a : Lane) :
    laneB (setLaneB r v a) q = if q = r then v else laneB a q := tget_tset ..
theorem laneQ_setLaneQ (r q : Nat) (v : Queue) (a : Lane) :
    laneQ (setLaneQ r v a) q = if q = r then v else laneQ a q := tget_tset ..
@[simp] theorem laneReg_setLaneB (r q : Nat) (v : DWord) (a : Lane) : laneReg (setLaneB r v a) q = laneReg a q := rfl
@[simp] theorem laneReg_setLaneQ (r q : Nat) (v : Queue) (a : Lane) : laneReg (setLaneQ r v a) q = laneReg a q := rfl
@[simp] theorem laneB_setLaneReg (r q : Nat) (v : Word) (a : Lane) : laneB (setLaneReg r v a) q = laneB a q := rfl
@[simp] theorem laneB_setLaneQ (r q : Nat) (v : Queue) (a : Lane) : laneB (setLaneQ r v a) q = laneB a q := rfl
@[simp] theorem laneQ_setLaneReg (r q : Nat) (v : Word) (a : Lane) : laneQ (setLaneReg r v a) q = laneQ a q := rfl
@[simp] theorem laneQ_setLaneB (r q : Nat) (v : DWord) (a : Lane) : laneQ (setLaneB r v a) q = laneQ a q := rfl

/-- A pair read where it was written (R12). -/
theorem lanePair_setLanePair (r : Nat) (v : DWord) (a : Lane) : lanePair (setLanePair r v a) r = v := by
  have h : r ≠ r + 1 := by omega
  simp only [lanePair, setLanePair, laneReg_setLaneReg, h, if_true, if_false]
  apply BitVec.eq_of_getLsbD_eq
  intro i hi
  simp only [BitVec.getLsbD_append, BitVec.getLsbD_extractLsb']
  by_cases h : i < 32
  · simp [h]
  · have h1 : i - 32 < 32 := by omega
    have h2 : 32 + (i - 32) = i := by omega
    simp [h, h1, h2]

end Sys2Proof.Machine
end

