-- ==== Sys2Proof/Laws/Lanes.lean ====
section
/-! SUPPORT. Laws of lanes, of completing an instruction, and of running an operation in each lane. -/

namespace Sys2Proof.Machine

open Sys2Proof

/-! ## Lanes of a context -/

theorem getLane_eq (x : Ctx) (l : Nat) : getLane x l = (x.lanes[l]?).getD {} := getAt_eq ..

/-- Changing distinct lanes changes exactly them. -/
theorem modLanes_eq (x : Ctx) (ls : List Nat) (f : Nat → Lane → Lane) (h : ls.Nodup) :
    modLanes x ls f = { x with lanes := x.lanes.mapIdx fun l a => if l ∈ ls then f l a else a } := by
  induction ls generalizing x with
  | nil =>
    have : x.lanes.mapIdx (fun _ a => a) = x.lanes := List.ext_getElem (by simp) (by simp)
    simp [modLanes, this]
  | cons n t ih =>
    have hn := (List.nodup_cons.mp h).1
    have : modLanes x (n :: t) f = modLanes (modLane x n (f n)) t f := rfl
    rw [this, ih _ (List.nodup_cons.mp h).2]
    simp only [modLane, setAt_eq, List.mapIdx_mapIdx]
    congr 1
    apply List.ext_getElem (by simp)
    intro k h1 h2
    simp only [List.getElem_mapIdx, List.mem_cons]
    by_cases hk : k = n
    · subst hk; simp [hn]
    · simp [hk]

theorem modLanes_lanes (x : Ctx) (ls : List Nat) (f : Nat → Lane → Lane) (h : ls.Nodup) :
    (modLanes x ls f).lanes = x.lanes.mapIdx fun l a => if l ∈ ls then f l a else a := by rw [modLanes_eq _ _ _ h]

theorem getLane_mapIdx (x : Ctx) (g : Nat → Lane → Lane) (l : Nat) (h : l < x.lanes.length) :
    getLane { x with lanes := x.lanes.mapIdx g } l = g l (getLane x l) := by
  simp [getLane_eq, h]

theorem nodup_execLanes {s : State} (h : Issues s) : (execLanes s).Nodup := h.filter _

theorem nodup_allLanes (x : Ctx) : (allLanes x).Nodup := List.nodup_range

theorem nodup_pcLanes {s : State} (h : Issues s) : (pcLanes s).Nodup := by
  unfold pcLanes
  simp only
  split
  · exact h
  · exact nodup_allLanes _

/-! ## Completing -/

/-- Completing an instruction passes every lane, and changes nothing but lanes of the issuer. -/
theorem complete_becomes (i : Instr) (s : State) (h : Issues s) :
    Becomes s (complete i s) { curCtx s with lanes := (curCtx s).lanes.mapIdx (passLane i s) } := by
  constructor
  · simp only [complete]
    generalize (if coreKind (curCtx s).core = .lcore then 0 else holdRot i) = n
    by_cases hn : n = 0
    · rw [if_pos hn]; rfl
    · rw [if_neg hn]; rfl
  · intro c
    by_cases hk : coreKind (curCtx s).core = .lcore
    · have e : complete i s = { moveTo s (nextPc i s) with cur := { (moveTo s (nextPc i s)).cur with done := true } } := by
        simp [complete, hk]
      rw [e]
      show getCtx (moveTo s (nextPc i s)) c = _
      simp only [moveTo, getCtx_modCtx]
      split
      · subst_vars
        rw [modLanes_eq _ _ _ (nodup_pcLanes h), modLanes_eq _ _ _ h]
        simp only [List.mapIdx_mapIdx, curCtx]
        congr 1
        apply List.ext_getElem (by simp)
        intro k h1 h2
        have hk' : coreKind (getCtx s s.cur.ctx).core = .lcore := hk
        simp [passLane, stepAnnul, curCtx, hk']
      · rfl
    · by_cases h0 : holdRot i = 0
      · have e : complete i s = { moveTo s (nextPc i s) with cur := { (moveTo s (nextPc i s)).cur with done := true } } := by
          simp [complete, hk, h0]
        rw [e]
        show getCtx (moveTo s (nextPc i s)) c = _
        simp only [moveTo, getCtx_modCtx]
        split
        · subst_vars
          rw [modLanes_eq _ _ _ (nodup_pcLanes h), modLanes_eq _ _ _ h]
          simp only [List.mapIdx_mapIdx, curCtx]
          congr 1
          apply List.ext_getElem (by simp)
          intro k h1 h2
          simp [passLane, stepAnnul, h0]
        · rfl
      · have e : getCtx (complete i s) c = getCtx (modCtx (moveTo s (nextPc i s)) s.cur.ctx fun x =>
            modLanes x s.cur.lanes fun _ a => { a with hold := holdRot i }) c := by
          simp [complete, hk, h0, getCtx]
        rw [e]
        simp only [moveTo, getCtx_modCtx]
        split
        · subst_vars
          rw [if_pos trivial, modLanes_eq _ _ _ h, modLanes_eq _ _ _ (nodup_pcLanes h), modLanes_eq _ _ _ h]
          simp only [List.mapIdx_mapIdx, curCtx]
          congr 1
          apply List.ext_getElem (by simp)
          intro k h1 h2
          have hk' : coreKind (getCtx s s.cur.ctx).core ≠ .lcore := hk
          by_cases hm : k ∈ s.cur.lanes <;> simp [passLane, stepAnnul, curCtx, hk', h0, hm]
        · rfl

/-- A completed instruction with a change of the lanes that execute it. -/
theorem becomes_modExec {i : Instr} {s t : State} (h : Issues s) (f : Nat → Lane → Lane)
    (ht : Becomes s t { curCtx s with lanes := (curCtx s).lanes.mapIdx (passLane i s) }) :
    Becomes s (modCtx t s.cur.ctx fun x => modLanes x (execLanes s) f)
      { curCtx s with lanes := lanesAfter i s f } := by
  constructor
  · conv_lhs => rw [ht.1]
    rfl
  · intro c
    rw [getCtx_modCtx]
    split
    · rw [ht.2, if_pos rfl, modLanes_eq _ _ _ (nodup_execLanes h)]
      simp only [List.mapIdx_mapIdx, lanesAfter]
      congr 1
    · rename_i hc; rw [ht.2, if_neg hc]

/-- What running an operation in each lane does once the queue operands are ready. -/
theorem runLanes_go {i : Instr} {s : State} (f : Nat → Lane → Vals → Lane) (h : Issues s)
    (hq : queueGate i.opnds s = .go) :
    ∃ t, runLanes i s f = .next t ∧ Becomes s t
      { curCtx s with lanes := lanesAfter i s fun l a => f l (consume i.opnds a) (valsOf i a) } := by
  unfold runLanes
  rw [hq]
  exact ⟨_, rfl, becomes_modExec h _ (complete_becomes i s h)⟩

/-! ## Completion claims -/

@[simp] theorem passLane_regs (i : Instr) (s : State) (l : Nat) (a : Lane) : (passLane i s l a).regs = a.regs := by
  unfold passLane; simp only; split <;> split <;> split <;> rfl
@[simp] theorem passLane_b (i : Instr) (s : State) (l : Nat) (a : Lane) : (passLane i s l a).b = a.b := by
  unfold passLane; simp only; split <;> split <;> split <;> rfl
@[simp] theorem passLane_queues (i : Instr) (s : State) (l : Nat) (a : Lane) :
    (passLane i s l a).queues = a.queues := by
  unfold passLane; simp only; split <;> split <;> split <;> rfl
@[simp] theorem passLane_status (i : Instr) (s : State) (l : Nat) (a : Lane) :
    (passLane i s l a).status = a.status := by
  unfold passLane; simp only; split <;> split <;> split <;> rfl
@[simp] theorem passLane_slim (i : Instr) (s : State) (l : Nat) (a : Lane) : (passLane i s l a).slim = a.slim := by
  unfold passLane; simp only; split <;> split <;> split <;> rfl
@[simp] theorem laneReg_passLane (i : Instr) (s : State) (l : Nat) (a : Lane) (r : Nat) :
    laneReg (passLane i s l a) r = laneReg a r := by simp [laneReg]
@[simp] theorem laneB_passLane (i : Instr) (s : State) (l : Nat) (a : Lane) (r : Nat) :
    laneB (passLane i s l a) r = laneB a r := by simp [laneB]
@[simp] theorem laneQ_passLane (i : Instr) (s : State) (l : Nat) (a : Lane) (r : Nat) :
    laneQ (passLane i s l a) r = laneQ a r := by simp [laneQ]
@[simp] theorem lanePair_passLane (i : Instr) (s : State) (l : Nat) (a : Lane) (r : Nat) :
    lanePair (passLane i s l a) r = lanePair a r := by simp [lanePair]
@[simp] theorem readUse_passLane (i : Instr) (s : State) (l : Nat) (a : Lane) (u : RegUse) (r : Reg) :
    readUse u r (passLane i s l a) = readUse u r a := by cases u <;> simp [readUse]
@[simp] theorem valsOf_passLane (i j : Instr) (s : State) (l : Nat) (a : Lane) :
    valsOf j (passLane i s l a) = valsOf j a := by simp [valsOf]

@[simp] theorem consume_regs (o : Opnds) (a : Lane) : (consume o a).regs = a.regs := by
  unfold consume; split <;> rfl
@[simp] theorem consume_b (o : Opnds) (a : Lane) : (consume o a).b = a.b := by unfold consume; split <;> rfl
@[simp] theorem consume_annul (o : Opnds) (a : Lane) : (consume o a).annul = a.annul := by unfold consume; split <;> rfl
@[simp] theorem laneReg_consume (o : Opnds) (a : Lane) (r : Nat) : laneReg (consume o a) r = laneReg a r := by
  simp [laneReg]
@[simp] theorem laneB_consume (o : Opnds) (a : Lane) (r : Nat) : laneB (consume o a) r = laneB a r := by simp [laneB]

theorem mem_execLanes {s : State} {l : Nat} : l ∈ execLanes s ↔ l ∈ s.cur.lanes ∧ (curLane s l).annul = 0 := by
  simp [execLanes]

theorem passLane_annul_exec {i : Instr} {s : State} {l : Nat} (h : l ∈ execLanes s) :
    (passLane i s l (curLane s l)).annul = 0 := by
  have h0 := (mem_execLanes.mp h).2
  unfold passLane; simp only; split <;> split <;> split <;> simp [h0]

/-- Two effects that agree on the lanes that execute leave the same lanes. -/
theorem lanesAfter_congr {i : Instr} {s : State} {f g : Nat → Lane → Lane}
    (h : ∀ l, l ∈ execLanes s → f l (passLane i s l (curLane s l)) = g l (passLane i s l (curLane s l))) :
    lanesAfter i s f = lanesAfter i s g := by
  unfold lanesAfter
  apply List.ext_getElem (by simp)
  intro k h1 h2
  simp only [List.getElem_mapIdx]
  split
  · rename_i hk
    have := h k hk
    have e : curLane s k = (curCtx s).lanes[k]'(by simpa using h1) := by
      have hl : k < (curCtx s).lanes.length := by simpa using h1
      simp [curLane, getLane_eq, hl]
    rwa [e] at this
  · rfl

theorem Completes.congr {i : Instr} {s : State} {f g : Nat → Lane → Lane} (hc : Completes i s f)
    (h : ∀ l, l ∈ execLanes s → f l (passLane i s l (curLane s l)) = g l (passLane i s l (curLane s l))) :
    Completes i s g := by
  obtain ⟨t, h1, h2⟩ := hc
  exact ⟨t, h1, lanesAfter_congr h ▸ h2⟩

/-- An instruction that runs an operation in each lane completes. -/
theorem completes_runLanes {i : Instr} {s : State} {f : Nat → Lane → Vals → Lane} (he : exec i s = runLanes i s f)
    (h : Ready i.opnds s) :
    Completes i s fun l a => f l (consume i.opnds a) (valsOf i (curLane s l)) := by
  obtain ⟨t, h1, h2⟩ := runLanes_go f h.1 h.2
  refine ⟨t, he.trans h1, ?_⟩
  rw [← lanesAfter_congr]
  · exact h2
  · intro l _; simp

theorem Gives.congr {i : Instr} {s : State} {f g : Lane → DWord} (h : Gives i s f) (e : ∀ a, f a = g a) :
    Gives i s g := by rwa [show g = f from funext fun a => (e a).symm]

/-- An instruction whose result is a function of its operands gives it. -/
theorem gives_runVal {i : Instr} {s : State} {f : Vals → DWord} {g : Lane → DWord} (he : exec i s = runVal i s f)
    (h : Ready i.opnds s) (e : ∀ a, f (valsOf i a) = g a) : Gives i s g :=
  Gives.congr (f := fun a => f (valsOf i a)) (completes_runLanes he h) e

theorem gives_runImm {i : Instr} {s : State} {f : Word → Word → Word} {g : Lane → DWord}
    (he : exec i s = runImm i s f) (h : Ready i.opnds s)
    (e : ∀ a, (f (x32 i a) (imm32 i.opnds)).setWidth 64 = g a) : Gives i s g :=
  Gives.congr (f := fun a => (f (x32 i a) (imm32 i.opnds)).setWidth 64) (completes_runLanes he h) e

/-- An instruction of two widths gives a function of its operands. -/
theorem givesW_runVal {i : Width → Instr} {s : State} {f g : (n : Nat) → BitVec n → BitVec n → BitVec n}
    (h32 : exec (i .w32) s = runVal (i .w32) s fun v => atWidth .w32 f v.s1 v.s2)
    (h64 : exec (i .w64) s = runVal (i .w64) s fun v => atWidth .w64 f v.s1 v.s2)
    (r32 : Ready (i .w32).opnds s) (r64 : Ready (i .w64).opnds s)
    (e : ∀ n a b, n = 32 ∨ n = 64 → f n a b = g n a b) : GivesW i s g := by
  refine ⟨gives_runVal h32 r32 fun a => ?_, gives_runVal h64 r64 fun a => ?_⟩
  · simp only [atWidth]; rw [e _ _ _ (.inl rfl)]; rfl
  · simp only [atWidth]; rw [e _ _ _ (.inr rfl)]

@[simp] theorem consume_status (o : Opnds) (a : Lane) : (consume o a).status = a.status := by
  unfold consume; split <;> rfl

/-- A floating-point instruction gives its rounded result. -/
theorem givesF_runFp {i : Instr} {s : State} {f g : RMode → Vals → Rounded} (he : exec i s = runFp i s f)
    (h : Ready i.opnds s) (e : ∀ r v, f r v = g r v) : GivesF i s g := by
  refine (completes_runLanes (f := fun _ a v =>
    let r := f (rmOf (stRM a.status)) v
    putX i (BitVec.ofNat 64 r.bits) { a with status := raiseFlags a.status r.flags }) he h).congr fun l _ => ?_
  simp only [consume_status, passLane_status, e]
  rfl

/-- An arithmetic instruction gives the rounded result of each element. -/
theorem givesF_runArith {i : Instr} {t : FType} {s : State} {f : Fmt → RMode → FVal → FVal → FVal → Rounded}
    {g : RMode → Vals → Rounded} (he : exec i s = runArith i t s f) (h : Ready i.opnds s)
    (e : ∀ r v, (onElems t v fun x a b =>
      f (fmtOf t) r (fDecode (fmtOf t) x) (fDecode (fmtOf t) a) (fDecode (fmtOf t) b)) = g r v) : GivesF i s g :=
  givesF_runFp he h e

end Sys2Proof.Machine
end

