-- ==== Sys2Proof/Laws/Access.lean ====
section
/-! SUPPORT. Laws of accesses: what keeping a translation changes, and an access of one lane of a strand. -/

namespace Sys2Proof.Machine

open Sys2Proof

/-! ## States that an access does not tell apart -/

/-- Two states that differ at most in what the TLBs and the holders of lines keep. -/
structure Alike (s z : State) : Prop where
  cur     : z.cur = s.cur
  ctxs    : z.ctxs = s.ctxs
  mem     : z.mem = s.mem
  bad     : z.bad = s.bad
  flight  : z.flight = s.flight
  dies    : z.dies = s.dies
  sys     : ∀ k, (getCore z k).sys = (getCore s k).sys
  journal : ∀ k, (getCore z k).journal = (getCore s k).journal
  tsys    : ∀ t, (getTruss z t).sys = (getTruss s t).sys

theorem Alike.refl (s : State) : Alike s s := ⟨rfl, rfl, rfl, rfl, rfl, rfl, fun _ => rfl, fun _ => rfl, fun _ => rfl⟩

theorem Alike.trans {s y z : State} (h : Alike s y) (g : Alike y z) : Alike s z :=
  ⟨g.1.trans h.1, g.2.trans h.2, g.3.trans h.3, g.4.trans h.4, g.5.trans h.5, g.6.trans h.6, fun k => (g.7 k).trans (h.7 k),
    fun k => (g.8 k).trans (h.8 k), fun k => (g.9 k).trans (h.9 k)⟩

theorem alike_modCore (s : State) (k : Nat) (f : CoreSt → CoreSt) (h : ∀ c, (f c).sys = c.sys)
    (g : ∀ c, (f c).journal = c.journal) : Alike s (modCore s k f) :=
  ⟨rfl, rfl, rfl, rfl, rfl, rfl, fun q => by rw [getCore_modCore]; split <;> simp_all,
    fun q => by rw [getCore_modCore]; split <;> simp_all, fun _ => rfl⟩

theorem alike_modTruss (s : State) (k : Nat) (f : Truss → Truss) (h : ∀ c, (f c).sys = c.sys) : Alike s (modTruss s k f) :=
  ⟨rfl, rfl, rfl, rfl, rfl, rfl, fun _ => rfl, fun _ => rfl, fun q => by rw [getTruss_modTruss]; split <;> simp_all⟩

theorem alike_modBay (s : State) (k : Nat) (f : Bay → Bay) : Alike s (modBay s k f) :=
  ⟨rfl, rfl, rfl, rfl, rfl, rfl, fun _ => rfl, fun _ => rfl, fun _ => rfl⟩

theorem alike_dirDue (s : State) (d : List Holding) (es : List Ev) : Alike s { s with dir := d, due := es } :=
  ⟨rfl, rfl, rfl, rfl, rfl, rfl, fun _ => rfl, fun _ => rfl, fun _ => rfl⟩

theorem alike_dir (s : State) (d : List Holding) : Alike s { s with dir := d } :=
  ⟨rfl, rfl, rfl, rfl, rfl, rfl, fun _ => rfl, fun _ => rfl, fun _ => rfl⟩

theorem alike_foldl {α : Type} (f : State → α → State) (l : List α) (s : State) (h : ∀ z a, Alike z (f z a)) :
    Alike s (l.foldl f s) := by
  induction l generalizing s with
  | nil => exact .refl s
  | cons a t ih => exact (h s a).trans (ih _)

/-! ## Keeping a translation -/

theorem alike_keepBay (s : State) (bay : Nat) (p : TlbEnt) (ws : List WalkEnt) : Alike s (keepBay s bay p ws) := by
  unfold keepBay
  simp only
  split
  · exact .refl s
  · exact alike_modBay ..

theorem alike_keepPage (s : State) (core : Nat) (p : TlbEnt) (ws : List WalkEnt) : Alike s (keepPage s core p ws) := by
  unfold keepPage
  split
  · exact .refl s
  · have h1 : Alike s (if coreKind core = .eave then s else modCore s core fun c => { c with tlb := addEntry s 16 c.tlb p }) := by
      split
      · exact .refl s
      · apply alike_modCore <;> (intro c; rfl)
    simp only
    revert h1
    generalize (if coreKind core = .eave then s else modCore s core fun c => { c with tlb := addEntry s 16 c.tlb p }) = s1
    intro h1
    split
    · exact h1
    · refine Alike.trans (Alike.trans h1 ?_) (alike_keepBay ..)
      split
      · apply alike_modTruss; intro c; rfl
      · apply Alike.refl

theorem alike_keepWalk (z s : State) (core : Nat) (ttb va : DWord) : Alike z (keepWalk z s core ttb va) := by
  unfold keepWalk
  split
  · exact alike_keepPage ..
  · exact .refl z

/-- What an instruction's checks translated stays, and nothing else changes. -/
theorem alike_keepAll (s : State) (rs : List (Except LaneFail Passed)) : Alike s (keepAll s rs) := by
  unfold keepAll
  apply alike_foldl
  intro z r
  split
  · exact alike_keepWalk ..
  · split
    · exact .refl z
    · exact alike_keepWalk ..

/-! ## Holders of lines -/

theorem alike_tagVictim (s : State) (t line : Nat) (c : Option Nat) : Alike s (tagVictim s t line c) := by
  unfold tagVictim
  split
  · exact .refl s
  · apply alike_modTruss; intro c; rfl

theorem alike_dropHolding (s : State) (h : Holding) : Alike s (dropHolding s h) := by
  unfold dropHolding
  split
  · apply alike_modTruss; intro c; rfl
  all_goals exact .refl s

theorem alike_evictHolding (s : State) (h : Holder) (line : Nat) : Alike s (evictHolding s h line) := by
  unfold evictHolding
  cases h
  · rename_i k
    refine Alike.trans (Alike.trans (alike_dir s (s.dir.filter fun e => !(e.line == line && e.holder == .truss k))) ?_)
      (alike_tagVictim ..)
    apply alike_modTruss; intro c; rfl
  · exact alike_dir ..
  · exact ((alike_dir s _).trans (alike_dir _ _)).trans (alike_foldl _ _ _ fun z a => alike_dropHolding z a)

/-- A recall takes lines from their holders, tells other packages, and changes nothing else. -/
theorem alike_recallLines (s : State) (w : List Holder) (l : List Nat) : Alike s (recallLines s w l) := by
  unfold recallLines
  simp only
  split
  · exact .refl s
  · exact (alike_dirDue ..).trans (alike_foldl _ _ _ fun z a => alike_dropHolding z a)

theorem alike_holdRoom (s : State) (h : Holder) : Alike s (holdRoom s h) := by
  unfold holdRoom
  split
  · exact .refl s
  · split
    · exact .refl s
    · split
      · exact .refl s
      · exact alike_evictHolding ..

theorem alike_touchStash (s : State) (h : Holder) (line c : Nat) : Alike s (touchStash s h line c) := by
  unfold touchStash
  split
  · apply alike_modTruss; intro c; rfl
  all_goals exact .refl s

/-- A line that a core fills changes its holders alone. -/
theorem alike_holdLine (s : State) (core c attr pa : Nat) (e : Bool) : Alike s (holdLine s core c attr pa e) := by
  unfold holdLine
  split
  · exact .refl s
  · simp only
    split
    · exact .refl s
    · refine Alike.trans ?_ (alike_touchStash ..)
      split
      · exact .refl s
      · exact (alike_holdRoom ..).trans (alike_dir ..)

/-- A touch of a strand names the last context that touched the line, and changes nothing else. -/
theorem alike_touch (s : State) (c core : Nat) (va : DWord) (pa : Nat) (h : isStrand (getCtx s c) = true) :
    Alike s (touch s c core va pa) := by
  have hk : (getCtx s c).kind = .strand := by simpa [isStrand] using h
  unfold touch
  simp only [hk]
  split
  · unfold ownLine
    split
    · apply alike_modTruss; intro c; rfl
    · exact .refl s
  · exact .refl s

/-! ## What a state that is alike answers -/

section
variable {s z : State} (h : Alike s z)
include h

theorem Alike.getCtx (c : Nat) : Machine.getCtx z c = Machine.getCtx s c := by simp [Machine.getCtx, h.ctxs]
theorem Alike.curCtx : Machine.curCtx z = Machine.curCtx s := by simp [Machine.curCtx, h.cur, h.getCtx]
theorem Alike.curLane (l : Nat) : Machine.curLane z l = Machine.curLane s l := by simp [Machine.curLane, h.curCtx]
theorem Alike.curCore (l : Nat) : Machine.curCore z l = Machine.curCore s l := by simp [Machine.curCore, h.curCtx]
theorem Alike.execLanes : Machine.execLanes z = Machine.execLanes s := by simp [Machine.execLanes, h.cur, h.curLane]
theorem Alike.memByte (a : Nat) : Machine.memByte z a = Machine.memByte s a := memByte_of_mem h.mem a
theorem Alike.memBytes (a n : Nat) : Machine.memBytes z a n = Machine.memBytes s a n := memBytes_of_mem h.mem a n
theorem Alike.memNat (a n : Nat) : Machine.memNat z a n = Machine.memNat s a n := by simp [Machine.memNat, h.memBytes]
theorem Alike.coreReg (k i : Nat) : Machine.coreReg z k i = Machine.coreReg s k i := by
  simp [Machine.coreReg, lcarve, h.sys]
theorem Alike.cacheAt (core attr pa : Nat) : Machine.cacheAt z core attr pa = Machine.cacheAt s core attr pa := by
  simp [Machine.cacheAt, lcarve, trussShared, h.sys, h.tsys]
theorem Alike.muted : Machine.muted z = Machine.muted s := by simp [Machine.muted, replays, h.curCtx, h.coreReg]
theorem Alike.ownPkg (a : LaneAcc) : Machine.ownPkg z a = Machine.ownPkg s a := by simp [Machine.ownPkg, h.curCore]
theorem Alike.deviceWaits (l : List LaneAcc) : Machine.deviceWaits z l = Machine.deviceWaits s l := by
  simp [Machine.deviceWaits, accessesOut, loadsOut, storesOut, journalOut, h.flight, h.cur, h.getCtx, h.journal]
theorem Alike.watch (i : Instr) (loc : Bool) (k : Bool × Bool) (l : List (Nat × DWord × Nat))
    (hw : watchReport i s loc k l = none) : watchReport i z loc k l = none := by
  have e1 : watchOn z = watchOn s := by simp [watchOn, execHead, h.curCtx, h.curLane, h.execLanes]
  have e2 : ∀ core n loc k a b, hitsWatch z core n loc k a b = hitsWatch s core n loc k a b := by
    intros; simp [hitsWatch, h.sys]
  unfold watchReport at hw ⊢
  simp only [e1, e2, h.curCore] at hw ⊢
  split at hw
  · rename_i hc; rw [if_pos hc]
  · rename_i hc
    rw [if_neg hc]
    split at hw
    · exact absurd hw (by simp)
    · exact absurd hw (by simp)
    · rfl

end

/-! ## One lane of a strand -/

theorem OneLane.issues {s : State} {l : Nat} (h : OneLane s l) : Issues s := by simp [Issues, h.2.1]

theorem OneLane.exec {s : State} {l : Nat} (h : OneLane s l) : execLanes s = [l] := by
  simp [execLanes, h.2.1, h.2.2.2.1]

theorem OneLane.head {s : State} {l : Nat} (h : OneLane s l) : execHead s = l := by simp [execHead, h.exec]

/-- With nothing on its way, nothing is forced. -/
theorem forceOwn_nil (s : State) (c l pa n : Nat) (h : s.flight = []) : forceOwn s c l pa n = s := by
  simp [forceOwn, forceFlight, h]

/-- A log that is not enabled takes no input. -/
theorem logLane_off (s : State) (c : Nat) (pc : DWord) (k l : Nat) (d : List Byte)
    (h : replayOn s (laneCore (getCtx s c) l) = false) : logLane s c pc k l d = s := by
  unfold logLane
  simp only
  split
  · rfl
  · unfold logInput
    have : logOn s (laneCore (getCtx s c) l) = false := by
      have e : (coreReg s (laneCore (getCtx s c) l) 0x15D).getLsbD 31 = false := h
      simp only [logOn, e, Bool.false_and]
    rw [this]
    rfl

theorem logAccess_off (s : State) (c : Nat) (pc : DWord) (op : MemOp) (a : List LaneAcc) (v : List (Nat × Nat))
    (h : ∀ l, replayOn s (laneCore (getCtx s c) l) = false) : logAccess s c pc op a v = s := by
  unfold logAccess
  induction v with
  | nil => rfl
  | cons e t ih =>
    rw [List.foldl_cons]
    cases op <;> simp only [logLane_off _ _ _ _ _ _ (h _), ite_self] at ih ⊢ <;> exact ih

theorem lane_of_check {s : State} {l : Nat} {op : MemOp} {va : DWord} {b : Bool} {p : Passed}
    (h2 : checkLane s l op va b = .ok p) : p.acc.lane = l := by
  unfold checkLane checkAddr at h2
  simp only at h2
  split at h2
  · exact absurd h2 (by simp)
  · split at h2
    · exact absurd h2 (by simp)
    · split at h2
      · exact absurd h2 (by simp)
      · cases h2; rfl

/-- The access that an instruction makes of one that passed its checks: with its data, and the function word of its home. -/
def reachAcc (i : Instr) (s : State) (op : MemOp) (l : Nat) (p : Passed) : LaneAcc :=
  match op with
  | .afn f _ => { p.acc with data := opData op i.opnds.x (curLane s l), word := afnWord s p.acc.pa f.toNat }
  | _ => { p.acc with data := opData op i.opnds.x (curLane s l) }

theorem accWords_one (i : Instr) (s : State) (op : MemOp) (l : Nat) (p : Passed) :
    accWords s op [{ p.acc with data := opData op i.opnds.x (curLane s l) }] = [reachAcc i s op l p] := by
  cases op <;> rfl

theorem reachAcc_lane (i : Instr) (s : State) (op : MemOp) (l : Nat) (p : Passed) :
    (reachAcc i s op l p).lane = p.acc.lane ∧ (reachAcc i s op l p).va = p.acc.va ∧ (reachAcc i s op l p).pa = p.acc.pa
      ∧ (reachAcc i s op l p).attr = p.acc.attr := by
  cases op <;> exact ⟨rfl, rfl, rfl, rfl⟩

theorem homeFail_reachAcc (i : Instr) (s : State) (core : Nat) (op : MemOp) (l : Nat) (p : Passed) :
    homeFail s core op (reachAcc i s op l p) = homeFail s core op p.acc := by cases op <;> rfl

/-- An access of one lane that passes its checks, and is not relaxed, is performed, in a state that is alike. -/
theorem runAccess_reaches {i : Instr} {s : State} {op : MemOp} {l : Nat} {p : Passed} (h : Reaches i s op l p)
    (hr : i.opnds.g.rlx = false) :
    ∃ z, Alike s z ∧ runAccess i s op = .next (performPlain i z op i.opnds.x [reachAcc i s op l p]) := by
  obtain ⟨h1, h2, h3, h4, h5, h6, h7, h8, h9, h10⟩ := h
  have hl := lane_of_check h2
  obtain ⟨b, hb⟩ : ∃ b : LaneAcc, b = { p.acc with data := opData op i.opnds.x (curLane s l) } := ⟨_, rfl⟩
  have hrs : accessChecks i s op (!i.opnds.g.rlx) = [.ok { acc := b }] := by simp [accessChecks, h1.exec, h2, hb]
  have hwd : accWords s op [b] = [reachAcc i s op l p] := by rw [hb]; exact accWords_one ..
  refine ⟨keepAll s (accessChecks i s op (!i.opnds.g.rlx)), alike_keepAll .., ?_⟩
  have hz := alike_keepAll s (accessChecks i s op (!i.opnds.g.rlx))
  generalize hz' : keepAll s (accessChecks i s op (!i.opnds.g.rlx)) = z at hz ⊢
  have hown : ownPkg s (reachAcc i s op l p) = true := by
    obtain ⟨e1, -, e3, -⟩ := reachAcc_lane i s op l p
    rw [ownPkg, e1, e3, hl, h3]; rfl
  have hm : muted s = false := by
    have hk : curCore s l = (curCtx s).core := by
      have : (curCtx s).kind = .strand := by simpa [isStrand] using h1.1
      simp [curCore, laneCore, this]
    have : (coreReg s (curCtx s).core 0x15D).getLsbD 31 = false := by rw [← hk]; simpa [replayOn, coreReg] using h8
    show replays s (curCtx s) = false
    simp only [replays, this, Bool.and_false, Bool.false_and]
  have hw : watchReport i z false (watchKinds op) [(l, p.acc.va, opBytes op)] = none := hz.watch _ _ _ _ h7
  have hd : deviceWaits z [reachAcc i s op l p] = false := by
    rw [hz.deviceWaits]
    simpa [deviceWaits, reachAcc_lane] using h10
  have hc : checksNow s i.opnds.g.rlx [reachAcc i s op l p] = true := by simp [checksNow, hown, hr]
  have hf : homeFails s op [reachAcc i s op l p] = [] := by
    simp [homeFails, homeFail_reachAcc, reachAcc_lane, hl, h6]
  have ho : ownPkg z (reachAcc i s op l p) = true := (hz.ownPkg _).trans hown
  unfold runAccess
  simp only [h1.head, h1.2.2.2.2, hrs, failsOf, passesOf, List.filterMap_cons, List.filterMap_nil, List.map_cons, List.map_nil,
    hwd, reachAcc_lane, hl]
  rw [hrs] at hz'
  simp only [hz', hw, hc, if_true, hf]
  simp only [performAccess, hz.muted, hm, hd, hr, Bool.false_and, Bool.false_eq_true, if_false, List.all_cons, List.all_nil, ho,
    Bool.and_true, Bool.not_true]


/-! ## What a performed access leaves of a strand -/

theorem OneLane.setAt_mapIdx {s : State} {l : Nat} (h : OneLane s l) (f : Nat → Lane → Lane)
    (hf : ∀ k a, k ≠ l → f k a = a) :
    (curCtx s).lanes.mapIdx f = setAt (curCtx s).lanes l fun _ => f l (curLane s l) := by
  rw [setAt_eq]
  apply List.ext_getElem (by simp)
  intro k h1 h2
  simp only [List.getElem_mapIdx]
  by_cases hk : k = l
  · subst hk
    have h3 : k < (curCtx s).lanes.length := h.2.2.1
    simp [curLane, getLane_eq, h3]
  · simp [hk, hf]

theorem OneLane.passLane {s : State} {l : Nat} (h : OneLane s l) {i : Instr} (h0 : holdRot i = 0) (k : Nat) (a : Lane) :
    passLane i s k a = if k = l then { a with annul := a.annul - 1, pc := nextPc i s, wait := .none } else a := by
  have hs : isStrand (curCtx s) = true := h.1
  by_cases hk : k = l <;> simp [Machine.passLane, h.2.1, hk, pcLanes, hs, h0]

theorem holdAccess_one {i : Instr} {s : State} {l : Nat} (h : OneLane s l) (h0 : holdRot i = 0) :
    AfterAccess i s (holdAccess i s) l (curLane s l) := by
  have hb := complete_becomes i s h.issues
  constructor
  · show (complete i s).cur = _
    rw [hb.1]
  · intro c
    simp only [holdAccess, getCtx_modCtx]
    split
    · subst_vars
      rw [hb.2, if_pos rfl, h.exec, modLanes_eq _ _ _ (by simp)]
      simp only [List.mapIdx_mapIdx]
      congr 1
      rw [h.setAt_mapIdx]
      · have h4 : (curLane s l).annul = 0 := h.2.2.2.1
        simp only [Function.comp_def, h.passLane h0, if_true, List.mem_singleton, h4]
      · intro k a hk
        simp [h.passLane h0, hk]
    · rename_i hc; rw [hb.2, if_neg hc]

/-- A change of the memory and of the translations does not matter to the strand. -/
theorem AfterAccess.of_eq {i : Instr} {s z t : State} {l : Nat} {a : Lane} (h : AfterAccess i z t l a)
    (hc : z.cur = s.cur) (hx : z.ctxs = s.ctxs) : AfterAccess i s t l a := by
  have hg : ∀ c, getCtx z c = getCtx s c := fun c => by simp [getCtx, hx]
  have hcc : curCtx z = curCtx s := by simp [curCtx, hc, hg]
  have hn : nextPc i z = nextPc i s := by simp [nextPc, curPc, curLane, hcc, hc]
  obtain ⟨h1, h2⟩ := h
  exact ⟨by rw [h1, hc], fun c => by rw [h2, hc, hcc, hn, hg]⟩

/-- A value lands in a lane that waits for its access. -/
theorem AfterAccess.land {i : Instr} {s t : State} {l : Nat} {a : Lane} (h : AfterAccess i s t l a) (op : MemOp) (x : Reg) (v : Nat)
    (hf : ∀ p w, landValue op x v { a with pc := p, wait := w } = { landValue op x v a with pc := p, wait := w }) :
    AfterAccess i s (landAll t s.cur.ctx op x [(l, v)]) l (landValue op x v a) := by
  obtain ⟨h1, h2⟩ := h
  refine ⟨h1, fun c => ?_⟩
  simp only [landAll, getCtx_modCtx]
  split
  · rw [h2, if_pos rfl]
    simp only [List.foldl_cons, List.foldl_nil, modLane]
    congr 1
    rw [setAt_eq, setAt_eq, setAt_eq, List.mapIdx_mapIdx]
    congr 1
    funext k b
    by_cases hk : k = l
    · simp only [Function.comp_def, hk, if_true]; exact hf ..
    · simp [hk]
  · rename_i hc; rw [h2, if_neg hc]

theorem land_wait (op : MemOp) (x : Reg) (v : Nat) (a : Lane) (p : DWord) (w : Wait) :
    landValue op x v { a with pc := p, wait := w } = { landValue op x v a with pc := p, wait := w } := by
  unfold landValue
  cases op <;> simp only
  case load sz => cases sz <;> rfl
  all_goals (rename_i w; cases w <;> rfl)

/-- What performing an access of one lane leaves: it answers `v`, and memory is as `P` says. -/
def Performs (s : State) (core : Nat) (op : MemOp) (acc : LaneAcc) (v : Nat) (P : List Host.Cell → Prop) : Prop :=
  ∀ z, Alike s z → ∃ t, performLane z core s.cur.ctx op acc = (t, v) ∧ t.cur = s.cur ∧ t.ctxs = s.ctxs
    ∧ (∀ k, (getCore t k).sys = (getCore s k).sys) ∧ P t.mem

/-- The core of a strand keeps no log after its access where it kept none before. -/
theorem AfterAccess.replayOff {i : Instr} {s t : State} {l : Nat} {a : Lane} (h : AfterAccess i s t l a) (h1 : OneLane s l)
    (h8 : replayOn s (curCore s l) = false) (hsys : ∀ k, (getCore t k).sys = (getCore s k).sys) (q : Nat) :
    replayOn t (laneCore (getCtx t s.cur.ctx) q) = false := by
  have hk : (curCtx s).kind = .strand := by simpa [isStrand] using h1.1
  have hq : curCore s l = (curCtx s).core := by simp [curCore, laneCore, hk]
  have hc : laneCore (getCtx t s.cur.ctx) q = (curCtx s).core := by rw [h.2, if_pos rfl]; simp [laneCore, hk]
  rw [hc, ← hq]
  simpa [replayOn, hsys] using h8

theorem landAll_complete {i : Instr} {s : State} (h : Issues s) (c : Nat) (op : MemOp) (x : Reg) (v : List (Nat × Nat)) :
    (landAll (holdAccess i s) c op x v).cores = s.cores ∧ (landAll (holdAccess i s) c op x v).mem = s.mem := by
  have e := (complete_becomes i s h).1
  constructor
  · show (complete i s).cores = _; rw [e]
  · show (complete i s).mem = _; rw [e]

/-- What a plain access of a strand's lane leaves: its value has landed, and memory is what performing it leaves. -/
theorem performPlain_one {i : Instr} {s z : State} {l : Nat} {op : MemOp} {acc : LaneAcc} (h1 : OneLane s l)
    (hl : acc.lane = l) (h8 : replayOn s (curCore s l) = false) (h9 : s.flight = []) (hz : Alike s z) (h0 : holdRot i = 0)
    (x : Reg) (v : Nat) {P : List Host.Cell → Prop} (hp : Performs s (curCore s l) op acc v P) :
    AfterAccess i s (performPlain i z op x [acc]) l (landValue op x v (curLane s l)) ∧ P (performPlain i z op x [acc]).mem := by
  subst hl
  have hk : (curCtx s).kind = .strand := by simpa [isStrand] using h1.1
  have hs : isStrand (getCtx z z.cur.ctx) = true := by rw [hz.getCtx, hz.cur]; exact h1.1
  have ht : Alike s (touchAll z [acc]) := by
    simp only [touchAll, List.foldl_cons, List.foldl_nil]
    exact hz.trans (alike_touch _ _ _ _ _ hs)
  have e2 : forceAll (touchAll z [acc]) op [acc] = touchAll z [acc] := by
    simp only [forceAll, List.foldl_cons, List.foldl_nil]
    exact forceOwn_nil _ _ _ _ _ (ht.flight.trans h9)
  obtain ⟨s2, hp1, hc, hx, hsys, hm⟩ := hp _ ht
  have e3 : performLanes (touchAll z [acc]) (curCore z) z.cur.ctx op [acc] = (s2, [(acc.lane, v)]) := by
    simp only [performLanes, hz.curCore, hz.cur, hp1]
  rw [hz.cur] at e3
  have hcc : curCtx s2 = curCtx s := by simp [curCtx, hc, getCtx, hx]
  have h1' : OneLane s2 acc.lane := by unfold OneLane; simp only [hcc, hc, curLane]; exact h1
  have ha := ((holdAccess_one h1' h0).of_eq hc hx).land op x v (fun p w => land_wait ..)
  have hcl : curLane s2 acc.lane = curLane s acc.lane := by simp [curLane, hcc]
  rw [hcl] at ha
  obtain ⟨f1, f2⟩ := landAll_complete (i := i) h1'.issues s.cur.ctx op x [(acc.lane, v)]
  have hlog := fun q => ha.replayOff h1 h8 (fun k => by rw [getCore, f1]; exact hsys k) q
  have e4 : performPlain i z op x [acc] = pushFlight (landAll (holdAccess i s2) s.cur.ctx op x [(acc.lane, v)])
      [.accessPerformed { acc := accessOf z op x [acc], own := true, refused := [], vals := [] }] := by
    unfold performPlain
    simp only [hz.cur, e2, e3]
    rw [logAccess_off _ _ _ _ _ _ hlog]
  rw [e4]
  exact ⟨⟨ha.1, ha.2⟩, by
    rw [pushFlight_mem, f2]; exact hm⟩

/-- A plain access of a strand's lane that reaches its home: what it answers, from what performing it answers. -/
theorem runAccess_one {i : Instr} {s : State} {l : Nat} {p : Passed} {op : MemOp} {o : Opnds} (h : Reaches i s op l p)
    (ho : i.opnds = o) (hr : o.g.rlx = false) (h0 : holdRot i = 0) (v : Nat) {P : List Host.Cell → Prop}
    (hp : Performs s (curCore s l) op (reachAcc i s op l p) v P) :
    ∃ t, runAccess i s op = .next t ∧ AfterAccess i s t l (landValue op o.x v (curLane s l)) ∧ P t.mem := by
  subst ho
  obtain ⟨z, hz, hq⟩ := runAccess_reaches h hr
  have := performPlain_one h.1 ((reachAcc_lane i s op l p).1.trans (lane_of_check h.2.1)) h.2.2.2.2.2.2.2.1
    h.2.2.2.2.2.2.2.2.1 hz h0 i.opnds.x v hp
  exact ⟨_, hq, this.1, this.2⟩

/-! ## What performing an access leaves -/

/-- A load from a page that no cache holds answers the bytes of memory. -/
theorem performs_load {s : State} {core : Nat} {sz : ISize} {acc : LaneAcc} (hw : targetOf acc.pa ≠ .window)
    (hc : cacheAt s core acc.attr acc.pa = .nowhere) :
    Performs s core (.load sz) acc (memNat s acc.pa (isizeBytes sz)) (fun m => m = s.mem) := by
  intro z hz
  have e : cacheAt z core acc.attr acc.pa = .nowhere := (hz.cacheAt ..).trans hc
  have hh := hz.trans (alike_holdLine z core s.cur.ctx acc.attr acc.pa false)
  refine ⟨holdLine z core s.cur.ctx acc.attr acc.pa false, ?_, hh.cur, hh.ctxs, hh.sys, hh.mem⟩
  simp [performLane, readAt, hw, cacheRead, e, opBytes, memNat, hz.memBytes]

/-- The bytes that a store leaves in memory. -/
theorem putBytes_stores {s t : State} {pa n v : Nat} (h : t.mem = putBytes s.mem pa (leBytes n v)) : Stores s t pa n v := by
  intro a
  have := tget_putBytes s.mem pa (leBytes n v) a
  rw [length_leBytes] at this
  simp only [memByte, h, this]
  split
  · rename_i hc; exact getD_leBytes _ _ _ (by omega)
  · rfl

/-- A store to a page that no cache holds places its bytes. -/
theorem performs_store {s : State} {core : Nat} {sz : ISize} {acc : LaneAcc} (hw : targetOf acc.pa ≠ .window)
    (hc : cacheAt s core acc.attr acc.pa = .nowhere) :
    Performs s core (.store sz) acc 0 (fun m => m = putBytes s.mem acc.pa
      (leBytes (isizeBytes sz) (acc.data.toNat % 2 ^ (8 * isizeBytes sz)))) := by
  intro z hz
  have e : cacheAt z core acc.attr acc.pa = .nowhere := (hz.cacheAt ..).trans hc
  generalize hb : leBytes (isizeBytes sz) (acc.data.toNat % 2 ^ (8 * isizeBytes sz)) = bs
  have hh := alike_holdLine (storeBy z (holdersFor core acc.pa) acc.pa bs) core s.cur.ctx acc.attr acc.pa true
  refine ⟨_, by simp [performLane, writeAt, hw, cacheWrite, e, opBytes, hb]; rfl, ?_, ?_, ?_, ?_⟩
  · rw [hh.cur]; exact hz.cur
  · rw [hh.ctxs]; exact hz.ctxs
  · intro k; rw [hh.sys]; exact hz.sys k
  · rw [hh.mem]; show putBytes z.mem _ _ = _; rw [hz.mem]

/-- An update at its home answers the old value, and places the new one. -/
theorem homeUpdate_mem {s z : State} (hz : Alike s z) (acc : LaneAcc) (n : Nat) (new : Nat → Option Nat)
    (hw : targetOf acc.pa ≠ .window) :
    ∃ t, homeUpdate z acc n new = (t, memNat s acc.pa n) ∧ t.cur = s.cur ∧ t.ctxs = s.ctxs
      ∧ (∀ k, (getCore t k).sys = (getCore s k).sys)
      ∧ t.mem = (match new (memNat s acc.pa n) with | none => s.mem | some v => putBytes s.mem acc.pa (leBytes n v)) := by
  have hr := hz.trans (alike_recallLines z [] [acc.pa / lineBytes])
  unfold homeUpdate
  simp only [homeRead, hw, if_false, hz.memNat]
  cases new (memNat s acc.pa n) with
  | none => exact ⟨_, rfl, hr.cur, hr.ctxs, hr.sys, hr.mem⟩
  | some v =>
    refine ⟨_, rfl, hr.cur, hr.ctxs, hr.sys, ?_⟩
    show putBytes (recallLines z [] _).mem _ _ = _
    rw [hr.mem]

end Sys2Proof.Machine
end

