-- ==== Sys2Proof/Tests/Slice0.lean ====
section
/-! SUPPORT. Tests of the model, and witnesses that the hypotheses of the statements can hold. The expected values are the
spec's own examples and tables, or worked by hand from its rules. -/

namespace Sys2Proof.Tests

open Sys2Proof Sys2Proof.Machine

set_option maxRecDepth 100000

/-! ## Decoding: the words of the spec's examples -/

/-- The words of one instruction on a D-core, and its encoding again. -/
def kIs (l : List Half) (i : Instr) : Bool :=
  decide (decode .dcore (l.flatMap halfBytes) = .ok i) && decide (encode i = l.flatMap halfBytes)
/-- The words of one instruction on an L-core, and its encoding again. -/
def wIs (l : List Word) (i : Instr) : Bool :=
  decide (decode .lcore (l.flatMap wordBytes) = .ok i) && decide (encode i = l.flatMap wordBytes)
/-- The reason code of an illegal instruction on a D-core (R76). -/
def kBad (l : List Half) (n : Nat) : Bool :=
  match decode .dcore (l.flatMap halfBytes) with
  | .ok _ => false
  | .error e => decodeErrReason e == n
def wBad (l : List Word) (n : Nat) : Bool :=
  match decode .lcore (l.flatMap wordBytes) with
  | .ok _ => false
  | .error e => decodeErrReason e == n

/-- The examples of 03_encoding, after R77. -/
theorem test_decode_encoding_chapter :
    kIs [0x0C67] (.add { form := .k, x := 3, y := 7 }) = true
    ∧ wIs [0x0C030C70] (.add { form := .w, x := 3, y := 3, z := 7 }) = true
    ∧ kIs [0xF010, 0xF520, 0xB885]
        (.ld .w32 { form := .k, nImm := 1, reg := true, x := 4, y := 5, imm := 16, desc := { base := 2, scale := 2 } }) = true
    ∧ wIs [0xB8041520, 0x10] (.ld .w32 { form := .w, x := 4, y := 5, imm := 16, desc := { base := 2, scale := 2 } }) = true
    ∧ kIs [0xF009, 0xF068, 0xF2B3, 0x08D8] (.movi { form := .k, nImm := 3, x := 6, imm := 0x12345678 }) = true
    ∧ wIs [0x08060000, 0x12345678] (.movi { form := .w, x := 6, imm := 0x12345678 }) = true
    ∧ kIs [0xB885] (.ld .w32 { form := .k, x := 4, y := 5 }) = true := by decide

/-- The fates of the last table of 03_encoding. -/
theorem test_decode_fates :
    kBad [0x0000] 1 = true ∧ kBad [0xF800, 0x0C67] 2 = true ∧ kBad [0xFB00, 0x0C67] 2 = true
    ∧ kBad [0xF400, 0xF400, 0x0C67] 3 = true ∧ kBad [0xF010, 0xE005] 3 = true
    ∧ kBad [0xF010, 0xF010, 0xF010, 0xF010, 0xF010, 0x0C67] 3 = true ∧ kBad [0xF001, 0x0C67] 4 = true
    ∧ wBad [0xE0000000] 1 = true ∧ wBad [0x0F000000] 2 = true := by decide

/-- 05_integer_and_control, after R118, and R117. -/
theorem test_decode_integer :
    kIs [0xFC04, 0x4889] (.skp .lt { form := .k, mod := true, x := 4, y := 9, g := { cnt := 1 } }) = true
    ∧ wIs [0x48042401] (.skp .lt { form := .w, x := 4, y := 9, g := { cnt := 1 } }) = true
    ∧ kIs [0x8185] (.skbSet { form := .k, x := 12, y := 5 }) = true
    ∧ wIs [0x800C1400] (.skbSet { form := .w, x := 12, y := 5 }) = true
    ∧ kIs [0xF005, 0xF842, 0xF480, 0x8D83]
        (.setb .lt { form := .k, nImm := 1, reg := true, x := 12, y := 3, z := 4, imm := 5 }) = true
    ∧ wIs [0x8C4C0C40, 0x00050002] (.setb .lt { form := .w, x := 12, y := 3, z := 4, imm := 5 }) = true
    ∧ kIs [0xF168, 0xF840, 0x74F4] (.bfx { form := .k, nImm := 1, x := 7, y := 20, imm := 0x168 }) = true
    ∧ wIs [0x74470140, 0x01680000] (.bfx { form := .w, x := 7, z := 20, imm := 0x168 }) = true
    ∧ kIs [0xF840, 0xF4C0, 0x0144] (.adc { form := .k, reg := true, x := 10, y := 4, z := 6 }) = true
    ∧ wIs [0x004A1060] (.adc { form := .w, x := 10, y := 4, z := 6 }) = true
    ∧ kIs [0xF3FE, 0xA3E0] (.frame { form := .k, nImm := 1, x := 31, imm := -64 }) = true
    ∧ wIs [0xA01FFFC0] (.frame { form := .w, x := 31, imm := -64 }) = true
    ∧ kIs [0x941E] (.ret { form := .k, y := 30 }) = true ∧ wIs [0x940001E0] (.ret { form := .w, z := 30 }) = true
    ∧ kIs [0xA400] (.nop { form := .k }) = true ∧ wIs [0xA4000000] (.nop { form := .w }) = true := by decide

/-- 06_floating_point, after R139. -/
theorem test_decode_floating :
    kIs [0xF880, 0xF4E0, 0x0064] (.fadd .f32 { form := .k, reg := true, x := 3, y := 4, z := 7 }) = true
    ∧ wIs [0x00831070] (.fadd .f32 { form := .w, x := 3, y := 4, z := 7 }) = true
    ∧ kIs [0xF881, 0xF540, 0x0C88] (.fma .f64 { form := .k, reg := true, x := 4, y := 8, z := 10 }) = true
    ∧ wIs [0x0C8420A1] (.fma .f64 { form := .w, x := 4, y := 8, z := 10 }) = true
    ∧ kIs [0xF8C3, 0xFC10, 0x00C9] (.cvt .f32 .bf16 { form := .k, mod := true, x := 6, y := 9, g := { sr := true } }) = true
    ∧ wIs [0x00C60090, 0x00000403] (.cvt .f32 .bf16 { form := .w, x := 6, z := 9, g := { sr := true } }) = true
    ∧ kIs [0xF890, 0xFC04, 0x4889] (.fskp .lt .f32 { form := .k, mod := true, x := 4, y := 9, g := { cnt := 1 } }) = true
    ∧ wIs [0x48801090, 0x00000110] (.fskp .lt .f32 { form := .w, y := 4, z := 9, g := { cnt := 1 } }) = true := by decide

/-- 07_memory_access and 08_calls_and_stack. -/
theorem test_decode_memory :
    kIs [0xF904, 0xF502, 0x0000] (.ldq .w32 { form := .k, reg := true, desc := { base := 2, mode := 1 } }) = true
    ∧ kIs [0xF412, 0x0C84] (.add { form := .k, reg := true, x := 4, y := 4, zq := true, wait := 1 }) = true
    ∧ kIs [0xF411, 0x0C04] (.add { form := .k, reg := true, x := 0, y := 4, zq := true, xq := true }) = true
    ∧ kIs [0xF004, 0xF904, 0xF582, 0x0400]
        (.stq .w32 { form := .k, nImm := 1, reg := true, imm := 4, desc := { base := 3, mode := 1 } }) = true
    ∧ kIs [0xF900, 0x0840] (.qadv 0 { form := .k, x := 2 }) = true
    ∧ kIs [0xF900, 0xF482, 0x1D00]
        (.atom .add .w32 { form := .k, reg := true, x := 8, desc := { base := 1, mode := 1 } }) = true
    ∧ wIs [0x1D0808A0, 0] (.atom .add .w32 { form := .w, x := 8, y := 2, desc := { base := 1, scale := 2 } }) = true
    ∧ kIs [0xF912, 0xF620, 0x246D]
        (.red .fadd .w32 { form := .k, reg := true, x := 3, y := 13, desc := { base := 4, scale := 2 } }) = true
    ∧ wIs [0x25033620, 0x48000000]
        (.red .fadd .w32 { form := .w, x := 3, y := 13, desc := { base := 4, scale := 2 } }) = true
    ∧ kIs [0xF900, 0xFDC0, 0x2C00] (.fence { form := .k, mod := true, g := { scope := .sys } }) = true
    ∧ wIs [0x2D000000, 0x00007000] (.fence { form := .w, g := { scope := .sys } }) = true
    ∧ kIs [0xF000, 0xF200, 0xF780, 0xD61F]
        (.st .w128 { form := .k, nImm := 2, reg := true, x := 16, y := 31, imm := 512, desc := { base := 7 } }) = true
    ∧ wIs [0xD4107F80, 0x200] (.st .w128 { form := .w, x := 16, y := 31, imm := 512, desc := { base := 7 } }) = true
    ∧ wIs [0xCC2B05A0, 0] (.st .w32 { form := .w, x := 43, y := 1, desc := { base := 3, scale := 2 } }) = true := by decide

/-- 09_cores, 10_messages and 11_traps_and_preemption. -/
theorem test_decode_cores_and_messages :
    kIs [0xF980, 0xF480, 0x0043] (.spawnCtx { form := .k, reg := true, x := 2, y := 3, z := 4 }) = true
    ∧ wIs [0x01820C40] (.spawnCtx { form := .w, x := 2, y := 3, z := 4 }) = true
    ∧ kIs [0xF980, 0x0400] (.quit { form := .k }) = true ∧ wIs [0x05800000] (.quit { form := .w }) = true
    ∧ kIs [0xF981, 0x0900] (.reapWait { form := .k, x := 8 }) = true ∧ wIs [0x09880001] (.reapWait { form := .w, x := 8 }) = true
    ∧ kIs [0xF980, 0x0C46] (.sleep { form := .k, x := 2, y := 6 }) = true
    ∧ wIs [0x0D820060] (.sleep { form := .w, x := 2, z := 6 }) = true
    ∧ kIs [0xF980, 0xF4A0, 0x18E2]
        (.spin .w32 { form := .k, reg := true, x := 7, y := 2, desc := { base := 1, scale := 2 } }) = true
    ∧ kIs [0xF008, 0xF980, 0x2081] (.gets { form := .k, nImm := 1, x := 4, imm := 0x101 }) = true
    ∧ wIs [0x21840101] (.gets { form := .w, x := 4, imm := 0x101 }) = true
    ∧ kIs [0xF981, 0x2806] (.cinvCode { form := .k, y := 6 }) = true
    ∧ kIs [0xF981, 0xF520, 0xFD80, 0x3048]
        (.msend 1 false { form := .k, reg := true, mod := true, x := 2, y := 8, z := 9, g := { scope := .pkg } }) = true
    ∧ wIs [0x31822090, 0x00006001] (.msend 1 false { form := .w, x := 2, y := 8, z := 9, g := { scope := .pkg } }) = true
    ∧ kIs [0xF982, 0x3467] (.mbind 2 { form := .k, x := 3, y := 7 }) = true
    ∧ kIs [0xF992, 0x3460] (.mbindKeep 2 { form := .k, x := 3 }) = true
    ∧ kIs [0xF983, 0x3885] (.mwaitAll 3 { form := .k, x := 4, y := 5 }) = true
    ∧ wIs [0x3D800063] (.mack 3 { form := .w, z := 6 }) = true
    ∧ kIs [0xFAC0, 0x0005] (.trap { form := .k, imm := 5 }) = true
    ∧ kIs [0xF009, 0xFAC0, 0x040C] (.sysc { form := .k, nImm := 1, imm := 300 }) = true
    ∧ wIs [0x06C0012C] (.sysc { form := .w, imm := 300 }) = true
    ∧ kIs [0xFAC0, 0x0800] (.eret { form := .k }) = true ∧ wIs [0x0EC00001] (.brk { form := .w, imm := 1 }) = true := by
  decide

/-- 13_truss_and_courses, 14_matrix_engine and 16_die_mesh. -/
theorem test_decode_courses_and_engines :
    kIs [0xF941, 0x0400] (.unclaspJoin { form := .k }) = true
    ∧ kIs [0xF940, 0x0A00] (.lane { form := .k, x := 16 }) = true ∧ wIs [0x09500000] (.lane { form := .w, x := 16 }) = true
    ∧ kIs [0xF942, 0x14E9] (.vote .mask { form := .k, x := 7, y := 9 }) = true
    ∧ kIs [0xF001, 0xF943, 0x10C8] (.shfl .mix { form := .k, nImm := 1, x := 6, y := 8, imm := 1 }) = true
    ∧ wIs [0x11460080, 0x00010003] (.shfl .mix { form := .w, x := 6, z := 8, imm := 1 }) = true
    ∧ kIs [0xF948, 0xF560, 0x186A] (.rseg .fadd { form := .k, reg := true, x := 3, y := 10, z := 11 }) = true
    ∧ wIs [0x19618280, 0x0000000A] (.rseg .fmax { form := .w, x := 33, y := 32, z := 40 }) = true
    ∧ kIs [0xF940, 0x2000] (.bar { form := .k }) = true ∧ kIs [0xF941, 0x2400] (.cmodeShared { form := .k }) = true
    ∧ kIs [0xF081, 0xF9C0, 0x0000] (.mfmt { form := .k, nImm := 1, imm := 0x81 }) = true
    ∧ kIs [0xF003, 0xF9EA, 0xF4C0, 0x0885]
        (.mma { m := 2, n := 2, k := 2 } { form := .k, nImm := 1, reg := true, x := 4, y := 5, z := 6, imm := 3 }) = true
    ∧ kIs [0xF105, 0xF9E8, 0xF5A0, 0x148C]
        (.mstc { m := 2, n := 2, k := 0 } { form := .k, nImm := 1, reg := true, x := 4, y := 12, z := 13, imm := 0x105 }) = true
    ∧ kIs [0xF0FF, 0xF307, 0xF9C2, 0xF6C0, 0x1E95]
        (.gath 2 false { form := .k, nImm := 2, reg := true, x := 20, y := 21, z := 22, imm := 0x3FF07 }) = true
    ∧ kIs [0xF9C3, 0x2000] (.mqf 3 { form := .k }) = true
    ∧ kIs [0xFA00, 0x0888] (.wpush { form := .k, x := 4, y := 8 }) = true
    ∧ kIs [0xFA01, 0x0CC0] (.wpopHead { form := .k, x := 6 }) = true
    ∧ kIs [0xF007, 0xF385, 0xFA00, 0xF5A0, 0x110C]
        (.mcast { form := .k, nImm := 2, reg := true, x := 8, y := 12, z := 13, imm := 0x1F85 }) = true
    ∧ kIs [0xF006, 0xFA00, 0xF5A0, 0x150C]
        (.rredLast { form := .k, nImm := 1, reg := true, x := 8, y := 12, z := 13, imm := 6 }) = true := by decide

/-- 17_scheduler, 18_leases_and_migration, 20_translation, 23_package and 24_fabric. -/
theorem test_decode_die_and_fabric :
    kIs [0xFA00, 0xF520, 0x1848] (.lnch { form := .k, reg := true, x := 2, y := 8, z := 9 }) = true
    ∧ wIs [0x1A022090, 1] (.lnchHw { form := .w, x := 2, y := 8, z := 9 }) = true
    ∧ kIs [0xF002, 0xFA00, 0x1C86] (.gsub { form := .k, nImm := 1, x := 4, y := 6, imm := 2 }) = true
    ∧ wIs [0x22001050] (.gdone { form := .w, y := 4, z := 5 }) = true
    ∧ kIs [0xFA00, 0x0064] (.lease { form := .k, x := 3, y := 4 }) = true
    ∧ wIs [0x02050001] (.leaseRd { form := .w, x := 5 }) = true
    ∧ kIs [0xFA00, 0x04C0] (.migrL { form := .k, x := 6 }) = true ∧ wIs [0x06060002] (.migrAny { form := .w, x := 6 }) = true
    ∧ kIs [0xFAC0, 0xFD80, 0x1400] (.tfence { form := .k, mod := true, g := { scope := .pkg } }) = true
    ∧ kIs [0xFAC0, 0xF4C0, 0xFD40, 0x1804]
        (.tlbiPage { form := .k, reg := true, mod := true, y := 4, z := 6, g := { scope := .die } }) = true
    ∧ wIs [0x1AC01060, 0x00005000] (.tlbiPage { form := .w, y := 4, z := 6, g := { scope := .die } }) = true
    ∧ wIs [0x1AC00060, 0x00004001] (.tlbiAsid { form := .w, z := 6, g := { scope := .bay } }) = true
    ∧ kIs [0xF009, 0xFA40, 0xF500, 0x0086]
        (.cpy { form := .k, nImm := 1, reg := true, x := 4, y := 6, z := 8, imm := 9 }) = true
    -- on an L-core the message bit must be 1 and the join's mask 0 (R462, R464, R488)
    ∧ wBad [0x02400000, 0x00010001] 5 = true ∧ wBad [0x06400060, 0x00030000] 5 = true
    ∧ kIs [0xF001, 0xFA41, 0x0000] (.cpyJoin { form := .k, nImm := 1, imm := 1 }) = true
    ∧ wIs [0x06400060, 0x00830000] (.cpyr { form := .w, z := 6, imm := 0x83 }) = true
    ∧ decode .eave ([0xF000, 0xF282, 0xFA40, 0xF580, 0x088A].flatMap halfBytes)
        = .ok (.tsend { form := .k, nImm := 2, reg := true, x := 4, y := 10, z := 12, imm := 0x282 })
    ∧ kBad [0xF000, 0xF282, 0xFA40, 0xF580, 0x088A] 1 = true
    ∧ kIs [0xF00F, 0xFA80, 0xF540, 0x0080] (.fput { form := .k, nImm := 1, reg := true, x := 4, z := 10, imm := 15 }) = true
    ∧ wIs [0x06842090, 0x00860000] (.fget { form := .w, x := 4, y := 8, z := 9, imm := 0x86 }) = true
    ∧ kIs [0xFA80, 0x0800] (.xfence { form := .k }) = true
    ∧ wIs [0x0A800060, 0x00000001] (.xfencePkg { form := .w, z := 6 }) = true := by decide

/-! ## Well-formedness: what each check refuses (R64 to R68, R74 to R76) -/

theorem test_wf_refuses :
    (Instr.add { form := .k, x := 3, y := 7 }).wf .dcore = true
    -- the other form
    ∧ (Instr.add { form := .w, x := 3, y := 7 }).wf .dcore = false
    -- an immediate that class A has not
    ∧ (Instr.add { form := .k, nImm := 1, x := 3, y := 7 }).wf .dcore = false
    -- an immediate that one prefix does not hold
    ∧ (Instr.movi { form := .k, nImm := 1, x := 6, imm := 0x12345678 }).wf .dcore = false
    -- a register above the form's need (R11)
    ∧ (Instr.add { form := .k, x := 33, y := 7 }).wf .dcore = false
    -- an odd pair (R12)
    ∧ (Instr.adds .w64 { form := .k, x := 3, y := 4 }).wf .dcore = false
    -- x read as a source without REG (R65)
    ∧ (Instr.sel 3 { form := .k, x := 3, y := 4 }).wf .dcore = false
    -- a wait count without a queue operand (R56)
    ∧ (Instr.add { form := .k, reg := true, x := 3, y := 4, z := 5, wait := 1 }).wf .dcore = false
    -- a queue operand of a pair (R91)
    ∧ (Instr.adds .w64 { form := .k, reg := true, x := 4, y := 4, zq := true }).wf .dcore = false
    -- a reserved scale (R67)
    ∧ (Instr.lea { form := .k, reg := true, x := 4, y := 4, desc := { scale := 5 } }).wf .dcore = false
    -- the reserved skip count (R58)
    ∧ (Instr.skp .eq { form := .k, mod := true, x := 4, y := 4, g := { cnt := 3 } }).wf .dcore = false
    -- a condition that SKP has not (R106)
    ∧ (Instr.skp .gt { form := .k, x := 4, y := 4 }).wf .dcore = false
    -- a cell of the K-form on an L-core, and one that an Eave core lacks (R73, R74)
    ∧ (Instr.wpush { form := .w, x := 4, y := 8 }).wf .lcore = false
    ∧ (Instr.mqf 3 { form := .k }).wf .eave = false
    -- FRAME on another register (R116)
    ∧ (Instr.frame { form := .k, x := 30 }).wf .dcore = false
    -- an event has no words
    ∧ Instr.messageArrival.wf .dcore = false := by decide

/-! ## One instruction on a small state -/

/-- A lane with registers, under the identity page tables of `loadTables`. -/
def tLane (rs : Tab Word) : Lane := { regs := rs, ttb := 0x1000 }
/-- A strand in slot 1 of D-core 0, about to run an instruction. -/
def tCtx (a : Lane) : Ctx := { alive := true, slot := some 1, lanes := [a] }
def tOne (a : Lane) : State :=
  { mem := loadTables [], ctxs := [(1, tCtx a)], nextCtx := 2, cur := { ctx := 1, lanes := [0] } }
/-- The same, with registers only. -/
def tRegs (rs : Tab Word) : State := tOne (tLane rs)
/-- A course of 8 lanes in slot 1 of the first Truss; lane l has 10 + l in g1. -/
def tCourse : State :=
  { mem := loadTables [],
    ctxs := [(1, { alive := true, kind := .course, slot := some 1,
                   lanes := (List.range 8).map fun l => tLane [(1, BitVec.ofNat 32 (10 + l))] })],
    nextCtx := 2, cur := { ctx := 1, lanes := List.range 8 } }

def tNext (o : Host.Outcome State Fault Refusal) : Option State :=
  match o with
  | .next t => some t
  | _ => none
/-- Lane 0 of context 1 after an instruction. -/
def tLane0 (i : Instr) (s : State) : Option Lane := (tNext (exec i s)).map fun t => getLane (getCtx t 1) 0
/-- A register of that lane. -/
def tReg (i : Instr) (s : State) (r : Nat) : Option Word := (tLane0 i s).map fun a => laneReg a r
/-- Register 1 of every lane of a course. -/
def tReg1s (i : Instr) (s : State) : Option (List Word) :=
  (tNext (exec i s)).map fun t => (getCtx t 1).lanes.map fun a => laneReg a 1
/-- The vector with which lane 0 has trapped. -/
def tVector (i : Instr) (s : State) : Option Nat := (tLane0 i s).map fun a => a.tcause.toNat % 256

/-- Operands of a three-register instruction of the K-form. -/
def k3 (x y z : Reg) : Opnds := { form := .k, reg := true, x, y, z }
/-- Operands with an immediate. -/
def kI (x : Reg) (imm : DWord) : Opnds := { form := .k, nImm := 2, x, imm }

/-- The carry example of R98: 0x1_FFFF_FFFF + 0x3_0000_0002. -/
theorem test_adc_example :
    tReg (.adc (k3 10 4 6)) (tRegs [(4, 0xFFFFFFFF), (5, 1), (6, 2), (7, 3)]) 10 = some 1
    ∧ tReg (.adc (k3 10 4 6)) (tRegs [(4, 0xFFFFFFFF), (5, 1), (6, 2), (7, 3)]) 11 = some 1
    ∧ tReg (.adc (k3 12 5 7)) (tRegs [(5, 1), (7, 3), (13, 1)]) 12 = some 5 := by decide

/-- A borrow that wraps (R98). -/
theorem test_sbc_borrow :
    tReg (.sbc (k3 10 4 6)) (tRegs [(6, 1)]) 10 = some 0xFFFFFFFF ∧ tReg (.sbc (k3 10 4 6)) (tRegs [(6, 1)]) 11 = some 1 := by
  decide

/-- The division table of R100. -/
theorem test_division_table :
    let s := tRegs [(1, 7), (2, 0xFFFFFFFE), (3, 0xFFFFFFF9), (4, 2), (5, 5), (6, 0x80000000), (7, 0xFFFFFFFF)]
    [tReg (.div .w32 (k3 9 1 2)) s 9, tReg (.rem .w32 (k3 9 1 2)) s 9, tReg (.divn .w32 (k3 9 1 2)) s 9,
      tReg (.remn .w32 (k3 9 1 2)) s 9] = [some 0xFFFFFFFD, some 1, some 0, some 7]
    ∧ [tReg (.div .w32 (k3 9 3 4)) s 9, tReg (.rem .w32 (k3 9 3 4)) s 9, tReg (.divn .w32 (k3 9 3 4)) s 9,
      tReg (.remn .w32 (k3 9 3 4)) s 9] = [some 0xFFFFFFFD, some 0xFFFFFFFF, some 0x7FFFFFFC, some 1]
    ∧ [tReg (.div .w32 (k3 9 5 0)) s 9, tReg (.rem .w32 (k3 9 5 0)) s 9] = [some 0xFFFFFFFF, some 5]
    ∧ [tReg (.div .w32 (k3 9 6 7)) s 9, tReg (.rem .w32 (k3 9 6 7)) s 9, tReg (.divn .w32 (k3 9 6 7)) s 9,
      tReg (.remn .w32 (k3 9 6 7)) s 9] = [some 0x80000000, some 0, some 0, some 0x80000000] := by decide

/-- MULH and MULHN of −1 and 2 (R99). -/
theorem test_mul_high :
    tReg (.mulh .w32 (k3 9 1 2)) (tRegs [(1, 0xFFFFFFFF), (2, 2)]) 9 = some 0xFFFFFFFF
    ∧ tReg (.mulhn .w32 (k3 9 1 2)) (tRegs [(1, 0xFFFFFFFF), (2, 2)]) 9 = some 1 := by decide

/-- ADD wraps, and ADDS saturates (R96). -/
theorem test_add_wraps :
    tReg (.add (k3 9 1 2)) (tRegs [(1, 0x7FFFFFFF), (2, 0x80000003)]) 9 = some 2
    ∧ tReg (.adds .w32 (k3 9 1 2)) (tRegs [(1, 0x7FFFFFFF), (2, 3)]) 9 = some 0x7FFFFFFF := by decide

/-- SAR fills with the sign, and ROL by 0 keeps its value (R101). -/
theorem test_shifts :
    tReg (.sarImm (kI 9 4)) (tRegs [(9, 0x80000010)]) 9 = some 0xF8000001
    ∧ tReg (.rolReg (k3 9 1 2)) (tRegs [(1, 0x80000001), (2, 32)]) 9 = some 0x80000001 := by decide

/-- CLZ of 0 and BSWP (R102). -/
theorem test_bit_counts :
    tReg (.clz .w32 { form := .k, x := 9, y := 1 }) (tRegs []) 9 = some 32
    ∧ tReg (.bswp .w32 { form := .k, x := 9, y := 1 }) (tRegs [(1, 0x01020304)]) 9 = some 0x04030201 := by decide

/-- The example of R103. -/
theorem test_bfx_example :
    tReg (.bfx { form := .k, nImm := 1, x := 7, y := 20, imm := 0x168 }) (tRegs [(20, 0xABCD1234)]) 7 = some 0xFFFFFD12
    ∧ tReg (.bfxn { form := .k, nImm := 1, x := 7, y := 20, imm := 0x168 }) (tRegs [(20, 0xABCD1234)]) 7 = some 0x00000D12 := by
  decide

/-- SEL takes s1 where bit k of x is 1 (R104); SETB changes one bit (R105). -/
theorem test_sel_setb :
    tReg (.sel 2 (k3 9 1 2)) (tRegs [(1, 5), (2, 6), (9, 4)]) 9 = some 5
    ∧ tReg (.setb .lt { k3 9 1 2 with nImm := 1, imm := 3 }) (tRegs [(1, 5), (2, 6), (9, 4)]) 9 = some 12 := by decide

/-- The skip of the example after R110: it holds in a lane where g4 ≥ g5. -/
theorem test_skip_counts :
    let i := Instr.skp .ge { form := .k, mod := true, x := 4, y := 5, g := { cnt := 1 } }
    (tLane0 i (tRegs [(4, 3), (5, 8)])).map (·.annul) = some 0 ∧ (tLane0 i (tRegs [(4, 10), (5, 2)])).map (·.annul) = some 2 := by
  decide

/-- The example of R116. -/
theorem test_frame_example :
    let i := Instr.frame { form := .k, nImm := 1, x := 31, imm := -64 }
    tReg i (tOne { tLane [(31, 0x1000)] with slim := 0xF80 }) 31 = some 0xFC0
    ∧ let j := Instr.frame { form := .k, nImm := 1, x := 31, imm := -128 }
      tReg j (tOne { tLane [(31, 0xFC0)] with slim := 0xF80 }) 31 = some 0xFC0
      ∧ tVector j (tOne { tLane [(31, 0xFC0)] with slim := 0xF80 }) = some 5 := by decide

/-- CVTI under modes 2 and 1: 3.75 and 200.5 (the examples after R135). -/
theorem test_cvti_examples :
    tReg (.cvti .s8 .f32 { form := .k, nImm := 1, x := 5, y := 9, imm := 4 }) (tRegs [(9, 0x40700000)]) 5 = some 3
    ∧ tReg (.cvti .n8 .f32 { form := .k, nImm := 1, x := 5, y := 9, imm := 2 }) (tRegs [(9, 0x43488000)]) 5 = some 200 := by
  decide

/-- 1.5 + 2.25 = 3.75, and 1 / 0 is +inf (R123). -/
theorem test_float_sums :
    tReg (.fadd .f32 (k3 9 1 2)) (tRegs [(1, 0x3FC00000), (2, 0x40100000)]) 9 = some 0x40700000
    ∧ tReg (.frcp .f32 { form := .k, x := 9, y := 1 }) (tRegs []) 9 = some 0x7F800000 := by decide

/-- FMIN of −0 and +0 is −0 (R124), and FSETC.eq holds of them (R128). -/
theorem test_float_zeros :
    tReg (.fmin .f32 (k3 9 1 2)) (tRegs [(2, 0x80000000)]) 9 = some 0x80000000
    ∧ tReg (.fsetc .eq .f32 (k3 9 1 2)) (tRegs [(2, 0x80000000)]) 9 = some 1 := by decide

/-- CALL links the address after it and adds its offset (R53, R66, R112). -/
theorem test_call :
    tReg (.call { form := .k, imm := 8 }) (tOne { tLane [] with pc := 0x100 }) 30 = some 0x102
    ∧ (tLane0 (.call { form := .k, imm := 8 }) (tOne { tLane [] with pc := 0x100 })).map (·.pc) = some 0x110 := by decide

/-- RET to an odd address in the K-form raises vector 3 and keeps the pc in EPC (R113). -/
theorem test_ret_odd :
    tVector (.ret { form := .k, y := 30 }) (tOne { tLane [(30, 0x201)] with pc := 0x100 }) = some 3
    ∧ (tLane0 (.ret { form := .k, y := 30 }) (tOne { tLane [(30, 0x201)] with pc := 0x100 })).map (·.epc) = some 0x100 := by
  decide

/-- A base register and an index for the tests of memory: b0 + gy. -/
def kM (x y : Reg) : Opnds := { form := .k, x, y }

/-- A signed byte is extended (R148); the bytes of a page table entry, lowest address first. -/
theorem test_load :
    tReg (.ld .s8 (kM 9 1)) (tRegs [(1, 0x3000)]) 9 = some 0xFFFFFFEF
    ∧ tReg (.ld .w32 (kM 9 1)) (tRegs [(1, 0x3000)]) 9 = some 0x7EF := by decide

/-- A store of two bytes changes those two alone (R148). -/
theorem test_store :
    (tNext (exec (.st .n16 (kM 9 1)) (tRegs [(1, 0x5000), (9, 0xAABBCCDD)]))).map
      (fun t => [memByte t 0x4FFF, memByte t 0x5000, memByte t 0x5001, memByte t 0x5002]) = some [0, 0xDD, 0xCC, 0] := by decide

/-- ATOM.add returns the old word and adds (R159). -/
theorem test_atom_add :
    (tNext (exec (.atom .add .w32 (kM 9 1)) (tRegs [(1, 0x3000), (9, 1)]))).map
      (fun t => (laneReg (getLane (getCtx t 1) 0) 9, memNat t 0x3000 4)) = some (0x7EF, 0x7F0) := by decide

/-- A misaligned load raises vector 8 with its address (R141). -/
theorem test_misaligned :
    tVector (.ld .w32 (kM 9 1)) (tRegs [(1, 0x3001)]) = some 8
    ∧ (tLane0 (.ld .w32 (kM 9 1)) (tRegs [(1, 0x3001)])).map (·.taddr) = some 0x3001 := by decide

/-- SYSC raises vector 25 with its number as INFO, and the handler is at TVEC + 64 × 25 (R238, R242). -/
theorem test_sysc :
    tVector (.sysc { form := .k, nImm := 1, imm := 300 }) (tOne { tLane [] with pc := 0x100 }) = some 25
    ∧ (tLane0 (.sysc { form := .k, nImm := 1, imm := 300 }) (tOne { tLane [] with pc := 0x100 })).map (·.pc) = some 0x640
    ∧ (tLane0 (.sysc { form := .k, nImm := 1, imm := 300 }) (tOne { tLane [] with pc := 0x100 })).map (·.epc) = some 0x106 := by
  decide

/-- LANE and VOTE of a course of 8 lanes (R302, R305): lanes 10 to 17 hold a non-zero g1. -/
theorem test_course_lanes :
    tReg1s (.lane { form := .k, x := 1 }) tCourse = some [0, 1, 2, 3, 4, 5, 6, 7]
    ∧ tReg1s (.vote .mask { form := .k, x := 1, y := 1 }) tCourse = some (List.replicate 8 0xFF) := by decide

/-- An inclusive sum over the lanes (R306), and SHFL.rot by one lane (R304). -/
theorem test_course_scan :
    (tNext (exec (.shfl .mix { form := .k, nImm := 1, x := 1, y := 1, imm := 1 }) tCourse)).map
      (fun t => (getCtx t 1).lanes.map fun a => laneReg a 1) = some [11, 10, 13, 12, 15, 14, 17, 16] := by decide

/-- A course whose lanes part at a skip stays fused: each lane has a count of its own (R107). -/
theorem test_course_skip :
    (tNext (exec (.skpi .lt { form := .k, nImm := 1, x := 1, imm := 14 }) tCourse)).map
      (fun t => (getCtx t 1).lanes.map (·.annul)) = some [1, 1, 1, 1, 0, 0, 0, 0] := by decide

/-- MARK pushes its label with every active lane (R290). -/
theorem test_mark :
    (tNext (exec (.mark { form := .k, imm := 16 }) tCourse)).map (fun t => (getCtx t 1).marks)
      = some [{ rj := 0x20, mask := 0xFF }] := by decide


/-! ## Witnesses: the hypotheses of each statement can hold together

A theorem `witness_<Statement>` gives, for each clause of a statement with hypotheses, a state and operands that meet them. -/

/-- A strand whose load queue 0 has one filled entry, 5 or one with a cause, and whose store queues are empty. -/
def tQueue (cause : BitVec 2 := 0) : State :=
  tOne { tLane [(1, 7)] with queues := [(0, { ents := [(0, { data := 5, filled := true, cause })], prod := 1, fill := 1 })] }
/-- An addition of a register and a queue operand, with its result to a store queue. -/
def qAdd (z x : Reg) : Opnds := { form := .k, reg := true, x, y := 1, z, zq := true, xq := true }
/-- A course whose lanes 0 to 3 execute, and whose lanes 4 to 7 annul. -/
def tHalf : State := modCtx tCourse 1 fun x => { x with lanes := x.lanes.mapIdx fun l a => if l < 4 then a else { a with annul := 1 } }
/-- The course, split. -/
def tSplit : State := modCtx { tCourse with cur := { ctx := 1, lanes := [3] } } 1 fun x => { x with split := true }

theorem ready_k3 : Ready (k3 9 1 2) (tRegs [(1, 5), (2, 6)]) := by unfold Ready Issues; decide
theorem ready_queue : Ready (qAdd 0 1) tQueue := by unfold Ready Issues; decide
theorem ready_course : Ready (k3 9 1 2) tHalf ∧ execLanes tHalf = [0, 1, 2, 3] := by unfold Ready Issues; decide

theorem witness_SumsAndLogicResults : Ready (qAdd 0 1) tQueue ∧ Ready (k3 9 1 2) tHalf := ⟨ready_queue, ready_course.1⟩
theorem witness_ProductAndQuotientResults : Ready (k3 9 1 2) (tRegs [(1, 5), (2, 6)]) := ready_k3
theorem witness_ShiftCountAndReversalResults : Ready (k3 9 1 2) (tRegs [(1, 5), (2, 6)]) := ready_k3

/-- SEL of the K-form is well-formed with a register word. -/
theorem witness_BitFieldSelectAndPredicateResults :
    Ready (k3 9 1 2) (tRegs [(1, 5), (2, 6)]) ∧ (Instr.sel 2 (k3 9 1 2)).wf .dcore = true ∧ (k3 9 1 2).form = .k :=
  ⟨ready_k3, by decide⟩

/-- The three addressing modes, a source without a queue, NOP well-formed, and bits that are set and clear. -/
theorem witness_MovesAddressesAndSkips :
    Ready (k3 9 1 2) tHalf ∧ (k3 9 1 2).zq = false ∧ (Instr.nop { form := .k }).wf .dcore = true
    ∧ Ready { k3 9 1 2 with desc := { mode := 1 } } tHalf ∧ Ready { k3 9 1 2 with desc := { mode := 2 } } tHalf := by
  unfold Ready Issues; decide

/-- FRAME with a stack that stays within its limit, exactly at it, one below it, and one above the top. -/
theorem witness_FrameMovesStackPointerOrTraps :
    let o : Opnds := { form := .k, nImm := 1, x := 31, imm := -64 }
    let bad (s : State) (o : Opnds) :=
      let new (l : Nat) : Int := (laneReg (curLane s l) 31).toNat + (o.imm.setWidth 32).toInt
      (execLanes s).filter fun l => decide (new l < (curLane s l).slim.toNat ∨ 0x100000000 ≤ new l)
    let at_ (sp lim : Word) := tOne { tLane [(31, sp)] with slim := lim }
    Ready o (at_ 0x1000 0xFC0) ∧ bad (at_ 0x1000 0xFC0) o = [] ∧ bad (at_ 0x1000 0xFC1) o = [0]
    ∧ bad (at_ 0xFFFFFFC0 0) { o with imm := 63 } = [] ∧ bad (at_ 0xFFFFFFC0 0) { o with imm := 64 } = [0] := by
  unfold Ready Issues; decide

theorem witness_FloatArithmeticCompletes : Ready (k3 9 1 2) tHalf := ready_course.1

/-- Numbers, zeros, infinities and NaNs for each clause. -/
theorem witness_SumsProductsAndInvalidOperations :
    ratOf (.fin false 3 (-1)) = some (3 / 2) ∧ ratOf (.fin true 1 0) = some (-1) ∧ ratOf (.fin false 0 0) = some 0
    ∧ isNan (.nan true) = true ∧ (isZero (.fin true 0 0) && isInf (.inf false)) = true
    ∧ isZero (.fin true 0 0) = true ∧ isInf (.inf true) = true := by
  refine ⟨?_, ?_, ?_, by decide⟩ <;> norm_num [ratOf]

/-- The largest code of a format, a NaN, and the smallest, zero. -/
theorem witness_RepresentableValuesRoundToThemselves :
    0xFFFF < 2 ^ ((fmtOf .f16).p + (fmtOf .f16).eb) ∧ isNan (fDecode (fmtOf .f16) 0xFFFF) = true
    ∧ isNan (fDecode (fmtOf .f16) 0) = false := by decide

theorem witness_FloatSelectSignClassAndCompareResults :
    Ready (k3 9 1 2) tHalf ∧ ratOf (.fin false 3 (-1)) = some (3 / 2) ∧ ratOf (.fin true 0 0) = some 0 :=
  ⟨ready_course.1, by norm_num [ratOf], by norm_num [ratOf]⟩

/-- A strand under a table A that is loaded, and can be encoded or not; table B is not loaded. -/
def tTables (encodable : Bool) : State :=
  { tRegs [(2, 0x3F800000)] with
    cores := [(0, { fmts := [(1, { a := { loaded := true, encodable, entries := List.replicate 128 0x7F } })] })] }

/-- No stochastic rounding; table A good for ENC8 or for DEC8 alone; table B bad. -/
theorem witness_ConversionResults :
    let o : Opnds := { form := .k, x := 9, z := 2 }
    let bad (o : Opnds) (s : State) (enc : Bool) (l : Nat) : Bool :=
      let b := tableOf o s l
      !b.loaded || (enc && !b.encodable) || b.txr != stTxr (curLane s l).status
    Ready o (tTables true) ∧ o.g.sr = false ∧ execLanes (tTables true) = [0]
    ∧ bad o (tTables true) true 0 = false ∧ bad o (tTables false) true 0 = true ∧ bad o (tTables false) false 0 = false
    ∧ bad { o with imm := 1 } (tTables true) false 0 = true := by
  unfold Ready Issues; decide

/-- A tie under the nearest mode is one half away: 5/2 rounds to 2. -/
theorem witness_RoundingToAnIntegerFollowsTheMode :
    (roundInt { mode := .rne } false 5 (-1)).1 = 2 ∧ Rounding.rne ≠ .sr := by decide

/-- Targets of a strand, of a split lane and of a whole course that keep R10, and one that breaks it. -/
theorem witness_TransfersReachTheirTargets :
    let o : Opnds := { form := .k, imm := 8, y := 30 }
    Issues (tRegs []) ∧ isStrand (curCtx (tRegs [])) = true ∧ breaksR10 .k (jTarget (.br o) (tRegs [])) = false
    ∧ Issues tSplit ∧ (curCtx tSplit).split = true
    ∧ isStrand (curCtx tCourse) = false ∧ (curCtx tCourse).split = false ∧ tCourse.cur.lanes ≠ []
    ∧ (∀ l ∈ tCourse.cur.lanes, (if l ∈ execLanes tCourse then jTarget (.br o) tCourse else nextPc (.br o) tCourse) = 0x10)
    ∧ (execLanes (tRegs [(30, 0x201)])).filter (fun l => breaksR10 .k
        ((curPc (tRegs [(30, 0x201)])).extractLsb' 32 32 ++ laneReg (curLane (tRegs [(30, 0x201)]) l) 30)) = [0]
    ∧ breaksR10 (ctxForm (curCtx (tRegs []))) 0x01FFFFFFFFFFFFFE = true
    ∧ breaksR10 (ctxForm (curCtx (tRegs []))) (jTarget (.jmp { o with imm := -1 }) (tRegs [])) = false := by
  unfold Issues; decide

/-- The access of an instruction in lane 0 meets every condition of `Reaches`. -/
def tReach (i : Instr) (s : State) (op : MemOp) : Bool :=
  match checkLane s 0 op (memAddr i.opnds (curLane s 0)) (!i.opnds.g.rlx) with
  | .ok p => decide ((isStrand (curCtx s) = true ∧ s.cur.lanes = [0] ∧ 0 < (curCtx s).lanes.length
      ∧ (curLane s 0).annul = 0 ∧ (curLane s 0).wait = .none) ∧ farFrom (pkgOf (curCore s 0)) p.acc.pa = false
      ∧ targetOf p.acc.pa ≠ .window ∧ cacheAt s (curCore s 0) p.acc.attr p.acc.pa = .nowhere
      ∧ homeFail s (curCore s 0) op p.acc = none
      ∧ watchReport i s false (watchKinds op) [(0, p.acc.va, opBytes op)] = none
      ∧ replayOn s (curCore s 0) = false ∧ s.flight = [] ∧ deviceWaits s [p.acc] = false)
  | .error _ => false
theorem reaches_of_tReach {i : Instr} {s : State} {op : MemOp} (h : tReach i s op = true) : ∃ p, Reaches i s op 0 p := by
  unfold tReach at h
  split at h
  · next p hp => exact ⟨p, (of_decide_eq_true h).1, hp, (of_decide_eq_true h).2⟩
  · cases h

/-- A load of each size at an aligned address, and the last 16 bytes of the page. -/
theorem witness_LoadsReadMemory :
    (∃ p, Reaches (.ld .w128 (kM 4 1)) (tRegs [(1, 0x5FF0)]) (.load .w128) 0 p)
    ∧ (∃ p, Reaches (.ld .s8 (kM 4 1)) (tRegs [(1, 0x5FFF)]) (.load .s8) 0 p) ∧ (kM 4 1).g.rlx = false :=
  ⟨reaches_of_tReach (by decide), reaches_of_tReach (by decide), rfl⟩

theorem witness_StoresWriteMemory :
    (∃ p, Reaches (.st .w64 (kM 4 1)) (tRegs [(1, 0x5FF8), (4, 7)]) (.store .w64) 0 p) ∧ (kM 4 1).g.rlx = false :=
  ⟨reaches_of_tReach (by decide), rfl⟩

/-- An atomic function that is not registered fails its checks at its home; this one is registered. -/
theorem witness_AtomicsUpdateTheirHome :
    let s := tRegs [(1, 0x3000), (4, 7)]
    (∃ p, Reaches (.atom .add .w32 (kM 4 1)) s (.atom .add .w32) 0 p)
    ∧ (∃ p, Reaches (.red .fadd .w64 (kM 4 1)) s (.red .fadd .w64) 0 p) ∧ memBad s 0x3000 8 = false
    ∧ (∃ p, Reaches (.cas .w64 (kM 4 1)) s (.cas .w64) 0 p)
    ∧ 0xFFFFFFFF < 2 ^ 32 ∧ (kM 4 1).g.rlx = false :=
  ⟨reaches_of_tReach (by decide), reaches_of_tReach (by decide), by decide, reaches_of_tReach (by decide), by decide, rfl⟩

/-- The values that a list of checks gives. -/
def tOks {α β : Type} (l : List (Except α β)) : List β := l.filterMap fun e => match e with | .ok p => some p | .error _ => none
/-- The hypotheses of `AccessesProceedByKind`, and one of its clauses. -/
def AccessReady (i : Instr) (op : MemOp) (s : State) (clause : State → List LaneAcc → Bool) : Prop :=
  let ps := tOks (accessChecks i s op (!i.opnds.g.rlx))
  let accs := accWords s op (ps.map (·.acc))
  let z := keepAll s (ps.map .ok)
  (curLane s (execHead s)).wait = .none ∧ accessChecks i s op (!i.opnds.g.rlx) = ps.map .ok
    ∧ watchReport i z false (watchKinds op) (accs.map fun a => (a.lane, a.va, opBytes op)) = none
    ∧ homeFails s op accs = [] ∧ muted z = false ∧ clause z accs = true

/-- A strand under page tables whose second GiB lies in package 1. -/
def tFar (rs : Tab Word) : State := { tRegs rs with mem := putBytes (loadTables []) 0x3008 (leBytes 8 0x1000000007EF) }
/-- The same with that GiB a device page (R426). -/
def tDev (s : State) : State := { s with mem := putBytes s.mem 0x3008 (leBytes 8 0x501000000007EF) }
def tRlx : Opnds := { kM 4 1 with g := { rlx := true } }
/-- A relaxed store of lane 0 on its way. -/
def tPosted (n : Nat) : List Ev :=
  (List.range n).map fun k => .relaxedStorePerform { ctx := 1, acc := { lane := 0, va := 0, pa := 128 * k, attr := 0, data := 0 }, op := .store .w32 }
/-- The state with a posted store of lane 0 to the first bytes of package 1 in the journal of its core. -/
def tJournal (s : State) : State :=
  { s with cores := [(0, { journal := [{ id := 0, ctx := 1, lane := 0, idx := 0, op := .store .w32, va := 0x40000000,
                                         pa := 0x100000000000, data := 0, bytes := [], task := 0, parent := 0 }] })] }

/-- An access of a device page with one in the journal; posted with room and without it; to another package with and
without an older access to its bytes; relaxed and plain in the own package. -/
theorem witness_AccessesProceedByKind :
    AccessReady (.ld .w32 (kM 4 1)) (.load .w32) (tJournal (tDev (tFar [(1, 0x40000000)]))) (fun z l => deviceWaits z l)
    ∧ AccessReady (.st .w32 tRlx) (.store .w32) (tRegs [(1, 0x5000)]) (fun z l => !deviceWaits z l && postsFit z l)
    ∧ AccessReady (.st .w32 tRlx) (.store .w32) { tRegs [(1, 0x5000)] with flight := tPosted 8 }
        (fun z l => !deviceWaits z l && !postsFit z l)
    ∧ AccessReady (.ld .w32 (kM 4 1)) (.load .w32) (tFar [(1, 0x40000000)])
        (fun z l => !deviceWaits z l && l.all fun a => paPkg a.pa == 1 && !journalOverlap z 1 0 a.pa 4)
    ∧ AccessReady (.ld .w32 (kM 4 1)) (.load .w32) (tJournal (tFar [(1, 0x40000000)]))
        (fun z l => !deviceWaits z l && l.all fun a => paPkg a.pa == 1 && journalOverlap z 1 0 a.pa 4)
    ∧ AccessReady (.ld .w32 tRlx) (.load .w32) (tRegs [(1, 0x5000)]) (fun z l => !deviceWaits z l && l.all fun a => paPkg a.pa == 0)
    ∧ AccessReady (.ld .w32 (kM 4 1)) (.load .w32) (tRegs [(1, 0x5000)])
        (fun z l => !deviceWaits z l && l.all fun a => paPkg a.pa == 0) := by
  refine ⟨?_, ?_, ?_, ?_, ?_, ?_, ?_⟩ <;> (unfold AccessReady; decide)

theorem error_of {α : Type} {x : Except Fail α}
    (h : (match x with | .error f => decide (f.vector < 14) | .ok _ => false) = true) : ∃ f, x = .error f ∧ f.vector < 14 := by
  split at h
  · next f => exact ⟨f, rfl, of_decide_eq_true h⟩
  · cases h

/-- A misaligned address; an address without a page; a page that may be read and not written. -/
theorem witness_FailedChecksTrap :
    let s := tRegs [(1, 0x80000000)]
    let page (s : State) (k : AccKind) := translate s (curCore s 0) (curLane s 0).ttb (memAddr (kM 4 1) (curLane s 0)) k
      (stPriv (curLane s 0).status)
    OneLane s 0 ∧ (memAddr (kM 4 1) (curLane (tRegs [(1, 0x5002)]) 0)).toNat % isizeBytes .w32 ≠ 0
    ∧ (memAddr (kM 4 1) (curLane s 0)).toNat % isizeBytes .w32 = 0
    ∧ (∃ f, page s .read = .error f ∧ f.vector < 14)
    ∧ ∃ f, page { tRegs [(1, 0x5000)] with mem := putBytes (loadTables []) 0x3000 (leBytes 8 0x76F) } .write = .error f ∧ f.vector < 14 :=
  ⟨by unfold OneLane; decide, by decide, by decide, error_of (by decide), error_of (by decide)⟩

/-- Local addresses of a strand: the last place of its scratch, one place beyond it, and a misaligned one. -/
theorem witness_LocalLoadsAndStores :
    let at_ (a : Word) := tRegs [(1, a)]
    let adr (s : State) := (locAddr (kM 4 1) (curLane s 0)).toNat
    let ok (s : State) := adr s % 4 = 0 ∧ adr s + 4 ≤ locLimit s (curCtx s) 0 ∧ spaceBad s (locSpace (curCtx s) 0) (adr s) 4 = false
    let top := BitVec.ofNat 32 (locLimit (at_ 0) (curCtx (at_ 0)) 0)
    Issues (at_ 0) ∧ execLanes (at_ 0) = [0] ∧ ok (at_ 0) ∧ ok (at_ (top - 4)) ∧ OneLane (at_ 0) 0
    ∧ watchReport (.ldl .w32 (kM 4 1)) (at_ 0) true (true, false) [(0, (locAddr (kM 4 1) (curLane (at_ 0) 0)).setWidth 64, 4)] = none
    ∧ watchReport (.stl .w32 (kM 4 1)) (at_ 0) true (false, true) [(0, (locAddr (kM 4 1) (curLane (at_ 0) 0)).setWidth 64, 4)] = none
    ∧ adr (at_ 2) % 4 ≠ 0 ∧ adr (at_ top) % 4 = 0 ∧ locLimit (at_ top) (curCtx (at_ top)) 0 < adr (at_ top) + 4 := by
  unfold Issues OneLane; decide

/-- A strand with k filled entries in a queue, and m on their way. -/
def tFill (q fill m : Nat) : State :=
  tOne { tLane [(1, 0x5000)] with queues := [(q, { prod := fill % 8, fill, inflight := m })] }

theorem addr_ok {i : Instr} {s : State} {n : Nat} {k : AccKind} {kinds : Bool × Bool}
    (h : (match checkAddr s 0 (memAddr i.opnds (curLane s 0)) n k false false with
      | .ok p => decide (watchReport i s false kinds [(0, p.acc.va, n)] = none ∧ paPkg p.acc.pa = pkgOf (curCore s 0))
      | .error _ => false) = true) :
    ∃ p, checkAddr s 0 (memAddr i.opnds (curLane s 0)) n k false false = .ok p
      ∧ watchReport i s false kinds [(0, p.acc.va, n)] = none ∧ paPkg p.acc.pa = pkgOf (curCore s 0) := by
  split at h
  · next p hp => exact ⟨p, hp, of_decide_eq_true h⟩
  · cases h

/-- LDQ with one free entry; STQ with one entry; QADV that pops and pushes as many as it can, up to 8; QRST with and
without loads on their way. -/
theorem witness_QueueInstructionsMoveEntries :
    let o : Opnds := kM 0 1
    let q (x : Reg) : Opnds := { form := .k, x }
    Issues (tFill 0 7 0) ∧ execLanes (tFill 0 7 0) = [0] ∧ 1 ≤ qFree (laneQ (curLane (tFill 0 7 0) 0) 0)
    ∧ (∃ p, checkAddr (tFill 0 7 0) 0 (memAddr o (curLane (tFill 0 7 0) 0)) 4 .read false false = .ok p
        ∧ watchReport (.ldq .w32 o) (tFill 0 7 0) false (true, false) [(0, p.acc.va, 4)] = none
        ∧ paPkg p.acc.pa = pkgOf (curCore (tFill 0 7 0) 0))
    ∧ 1 ≤ (laneQ (curLane (tFill 2 1 0) 0) 2).fill ∧ skipsStq 2 (curLane (tFill 2 1 0) 0) = false ∧ muted (tFill 2 1 0) = false
    ∧ (∃ p, checkAddr (tFill 2 1 0) 0 (memAddr o (curLane (tFill 2 1 0) 0)) 4 .write false false = .ok p
        ∧ watchReport (.stq .w32 o) (tFill 2 1 0) false (false, true) [(0, p.acc.va, 4)] = none
        ∧ paPkg p.acc.pa = pkgOf (curCore (tFill 2 1 0) 0))
    ∧ (∀ l ∈ execLanes (tFill 1 8 0), (7 : BitVec 3).toNat + 1 ≤ (laneQ (curLane (tFill 1 8 0) l) (q 1).x.toNat).fill)
    ∧ (∀ l ∈ execLanes (tFill 3 0 0), (7 : BitVec 3).toNat + 1 ≤ qFree (laneQ (curLane (tFill 3 0 0) l) (q 3).x.toNat))
    ∧ (q 1).zq = false ∧ (q 1).xq = false ∧ (q 4).x.toNat = 4
    ∧ (∀ l ∈ execLanes (tFill 1 8 0), ∀ q, q < 4 → (laneQ (curLane (tFill 1 8 0) l) q).inflight = 0)
    ∧ (∃ l ∈ execLanes (tFill 1 0 2), (laneQ (curLane (tFill 1 0 2) l) (q 1).x.toNat).inflight ≠ 0) :=
  ⟨by unfold Issues; decide, by decide, by decide, addr_ok (i := .ldq .w32 (kM 0 1)) (by decide), by decide, by decide,
    by decide, addr_ok (i := .stq .w32 (kM 0 1)) (by decide), by decide, by decide, by decide, by decide, by decide,
    by decide, by decide⟩

/-- A relaxed load of lane 0 on its way. -/
def tLoading (s : State) : State :=
  { s with flight := [.relaxedLoadReturn { ctx := 1, op := .load .w32, x := 4, ticket := 0, pc := 0,
                                           lanes := [{ lane := 0, va := 0x5000, pa := 0x5000, attr := 0, data := 0 }] }] }
/-- The same lane in privileged mode. -/
def tPriv (s : State) : State := modCtx s 1 fun x => { x with lanes := x.lanes.map fun a => { a with status := 0x200 } }

/-- Nothing on its way, a store on its way, a load on its way, an entry in the journal; privileged mode, and not. -/
theorem witness_FencesWaitForAccesses :
    let s := tRegs []
    Issues s ∧ execLanes s = [0] ∧ accessesOut s 1 [0] .sys = false ∧ loadsOut s 1 [0] = false ∧ journalOut s 1 [0] none = false
    ∧ accessesOut { s with flight := tPosted 1 } 1 [0] .core = true
    ∧ loadsOut (tLoading s) 1 [0] = true ∧ journalOut (tJournal s) 1 [0] none = true
    ∧ curPriv (tPriv s) = true ∧ xlBusy (tPriv s) (ownXl (tPriv s)) .sys = false ∧ accessesOut (tPriv s) 1 [0] .sys = false
    ∧ canonical (valsOf (.tlbiPage { form := .k }) (curLane (tPriv s) 0)).s1 = true ∧ curPriv s = false
    ∧ ¬ ((Mods.mk true .sys false false 0).scope = .none) := by
  unfold Issues; decide

/-! ### Courses -/

/-- The course with marks. -/
def tMarked (ms : List Mark) : State := modCtx tCourse 1 fun x => { x with marks := ms }
/-- A split lane at a depth. -/
def tDepth (d : Nat) : State := modCtx tSplit 1 fun x => { x with lanes := x.lanes.map fun a => { a with depth := d } }
/-- 16 marks. -/
def tMarks16 : List Mark := List.replicate 16 { rj := 0x20, mask := 0xFF }

/-- A strand; a split lane at the least and greatest depths; a whole course with 15 and 16 marks, with a mark whose label
is the pc and one whose label is not, and with none. -/
theorem witness_MarksAndJoins :
    let o : Opnds := { form := .k, imm := 16 }
    let whole (s : State) := isStrand (curCtx s) = false ∧ (curCtx s).split = false ∧ execLanes s = s.cur.lanes
    Issues (tRegs []) ∧ isStrand (curCtx (tRegs [])) = true ∧ breaksR10 (ctxForm (curCtx (tRegs []))) (jTarget (.mark o) (tRegs [])) = false
    ∧ Issues (tDepth 254) ∧ isStrand (curCtx (tDepth 254)) = false ∧ (curCtx (tDepth 254)).split = true
    ∧ (∀ l ∈ execLanes (tDepth 254), (curLane (tDepth 254) l).depth ≠ 255)
    ∧ breaksR10 (ctxForm (curCtx (tDepth 254))) (jTarget (.mark o) (tDepth 254)) = false
    ∧ (∀ l ∈ execLanes (tDepth 1), (curLane (tDepth 1) l).depth ≠ 0)
    ∧ whole (tMarked (tMarks16.drop 1)) ∧ breaksR10 (ctxForm (curCtx tCourse)) (jTarget (.mark o) tCourse) = false
    ∧ (curCtx (tMarked (tMarks16.drop 1))).marks.length < 16 ∧ whole (tMarked tMarks16) ∧ (curCtx (tMarked tMarks16)).marks.length = 16
    ∧ whole (tMarked [{ rj := 0, mask := 0xF }]) ∧ curPc (tMarked [{ rj := 0, mask := 0xF }]) = 0
    ∧ curPc (tMarked tMarks16) ≠ 0x20 ∧ whole tCourse ∧ (curCtx tCourse).marks = [] := by
  unfold Issues; decide

/-- Strands on D-cores 0 to 7 in slot 1, the first of which issues. -/
def tEight : State :=
  { mem := loadTables [],
    ctxs := (List.range 8).map fun k => (k + 1, { alive := true, slot := some 1, core := k, lanes := [tLane []] }),
    nextCtx := 9, cur := { ctx := 1, lanes := [0] } }
/-- A keeper of a Gable's first core, or a course of it, and a keeper of D-core 0. -/
def tKeeper : State := tPriv (modCtx (tRegs []) 1 fun x => { x with slot := some 0 })
def tWaitsAt (s : State) (c : Nat) (w : Wait) : State := modCtx s c fun x => { x with lanes := x.lanes.map fun a => { a with wait := w } }
def tWaits (w : Wait) (s : State) : State := modCtx s 1 fun x => { x with lanes := x.lanes.map fun a => { a with wait := w } }

/-- Strands that have met and that fuse; a range that does not fit; a strand, a split and a whole course; a lane that has
left BAR and one that reaches it; a keeper of a quiescent Truss, and no keeper. -/
theorem witness_CoursesFuseSplitAndMeet :
    let o : Opnds := { form := .k }
    Issues tEight ∧ queueGate o tEight = .go ∧ (curLane (tWaits (.woken 1) tEight) 0).wait = .woken 1
    ∧ (curLane tEight (execHead tEight)).wait ≠ .woken 1 ∧ (curCtx tEight).slot ≠ some 0 ∧ isStrand (curCtx tEight) = true
    ∧ (∀ k, k < 8 → boundAt tEight (trussOf (curCore tEight 0) * 64 + k) 1 = some (k + 1) ∧ isStrand (getCtx tEight (k + 1)) = true)
    ∧ (curLane tCourse (execHead tCourse)).wait ≠ .woken 1 ∧ isStrand (curCtx tCourse) = false ∧ (curCtx tCourse).split = false
    ∧ (curCtx tCourse).core = trussOf (curCore tCourse 0) * 64 ∧ (curCtx tCourse).lanes.length = 8 * 2 ^ (0 : BitVec 2).toNat
    ∧ Issues tSplit ∧ (curCtx tSplit).split = true ∧ isStrand (curCtx tSplit) = false
    ∧ (curCtx (tMarked tMarks16)).marks ≠ [] ∧ muted tCourse = false ∧ (curLane (tWaits (.woken 0) tCourse) 0).wait = .woken 0
    ∧ muted tSplit = false ∧ (∀ k ∈ execLanes tSplit, (curLane tSplit k).depth = 0)
    ∧ isKeeper (curCtx tKeeper) = true ∧ curPriv tKeeper = true ∧ quiescent tKeeper (trussOf (curCtx tKeeper).core) = true
    ∧ isKeeper (curCtx tCourse) = false ∧ ((5 : Nat) % 8 ≠ 0) := by
  unfold Issues; decide

/-- A whole course whose lanes all execute, a course of which half does, a split lane, and a strand. -/
theorem witness_CrossLaneResults :
    let ok (s : State) := Issues s ∧ s.cur.lanes.Pairwise (· < ·) ∧ (∀ l ∈ s.cur.lanes, l < 32) ∧ queueGate (k3 9 1 2) s = .go
      ∧ muted s = false
    ok tCourse ∧ ok tHalf ∧ ok tSplit ∧ ok (tRegs []) ∧ (curCtx tCourse).mate = none ∧ (curCtx tCourse).split = false
    ∧ (curCtx tSplit).split = true ∧ isStrand (curCtx tSplit) = false ∧ isStrand (curCtx (tRegs [])) = true
    ∧ (curCtx (tRegs [])).mate = none := by
  unfold Issues; decide
/-! ### Strands -/

/-- The strand of `tRegs` with another lane state, and with its core in another state. -/
def tW (w : Wait) (s : State := tRegs []) : State := tWaits w s
def tCore (c : CoreSt) (s : State) : State := { s with cores := [(0, c)] }
/-- Core 0 as after reset, with one system register at a value. -/
def tSys (i : Nat) (v : DWord) (s : State := tRegs []) : State := tCore { sys := [(i, v)] } s
/-- One lane of a strand issues, and no core keeps a log. -/
def tStrand (s : State) : Prop :=
  isStrand (curCtx s) = true ∧ s.cur.lanes = [0] ∧ 0 < (curCtx s).lanes.length ∧ (curLane s 0).annul = 0

theorem unlogged_nil {s : State} (h : s.cores = []) : Unlogged s := by
  intro l; unfold replayOn getCore; rw [h]; simp [tget]
theorem unlogged_strand {s : State} (h : isStrand (curCtx s) = true ∧ replayOn s (curCtx s).core = false) : Unlogged s := by
  intro l; unfold curCore laneCore; have h1 := h.1; unfold isStrand at h1
  cases hk : (curCtx s).kind <;> simp_all
theorem noLaunch_nil {s : State} (h : s.dies = []) : NoLaunch s := by
  intro d; unfold getDie; rw [h]; rfl

/-- An exit record, and a context that another may end: a strand in slot 2. -/
def tExit : ExitRec := { w0 := 1, w1 := 2, w2 := 3, w3 := 4, ctx := 7 }
def tTwo (s : State) : State := { s with ctxs := s.ctxs ++ [(2, { alive := true, slot := some 2, lanes := [tLane []] })], nextCtx := 3 }

/-- SPAWN with its answer, to itself with an entry that R10 allows and with an odd one, and to a Truss; QUIT with a free
place in the exit queue; REAP with and without a record, and by force with and without a target; with and without PRIV. -/
theorem witness_SpawnQuitAndReap :
    let o : Opnds := { form := .k, reg := true, x := 2, y := 3, z := 4 }
    let p := tPriv (tRegs [])
    (∀ s ∈ [tRegs [], tW (.answer 0 [(0, 5)] []), p, tTwo p], tStrand s) ∧ Unlogged (tRegs []) ∧ NoLaunch (tRegs [])
    ∧ Unlogged (tW (.answer 0 [(0, 5)] [])) ∧ Unlogged p ∧ NoLaunch p ∧ (curLane (tW (.answer 0 [(0, 5)] [])) 0).wait = .answer 0 [(0, 5)] []
    ∧ (curLane (tRegs []) 0).wait = .none
    ∧ spawnTarget (tRegs []) 0 false 0 = some 0 ∧ spawnTarget (tRegs []) 0 true 0x700 = some 0 ∧ spawnEntry (tRegs []) 0 0x200000000000000 .k = none
    ∧ spawnEntry (tRegs []) 0 0x100 .k = some ({}, 0x100) ∧ queueGate o (tRegs []) = .go
    ∧ accessesOut (tRegs []) 1 [0] (relScope (tRegs []) [0]) = false
    ∧ curPriv p = true ∧ curPriv (tRegs []) = false ∧ accessesOut (tRegs []) 1 [0] .sys = false ∧ (curCtx (tRegs [])).lanes.length = 1
    ∧ (∀ q ∈ (curLane (tRegs []) 0).queues, q.2.inflight = 0) ∧ (getCore (tRegs []) 0).exitWait = []
    ∧ (getCore (tCore { exitQ := List.replicate 31 tExit } (tRegs [])) 0).exitQ.length < 32
    ∧ (getCore (tCore { exitQ := [tExit] } p) 0).exitQ = [tExit] ∧ (getCore p 0).exitQ = []
    ∧ forceTarget (tTwo p) 0 3 = none ∧ forceTarget (tTwo p) 0 2 = some 2 ∧ (2 : Nat) ≠ 1 ∧ (getCtx (tTwo p) 2).alive = true
    ∧ queuesBusy (getCtx (tTwo p) 2) = false := by
  refine ⟨by unfold tStrand; decide, unlogged_nil rfl, noLaunch_nil rfl, unlogged_nil rfl, unlogged_nil rfl, noLaunch_nil rfl, ?_⟩
  decide

/-- SLEEP that has ended, with a wake pending, past its time, and waiting; WAKE to a node and to none; a counter that an Eave
core has; SPIN that finds its value and another; WSP that binds an unbound strand, and that names a slot in use. -/
theorem witness_SleepWakeYieldAndSpin :
    let o : Opnds := { form := .k, reg := true, x := 2, y := 3, z := 4 }
    let p := tPriv (tRegs [(3, 5), (4, 0x2000)])
    let q : State := { p with ctxs := p.ctxs ++ [(2, { alive := true, wsOn := true, wsptr := 0x2000, lanes := [tLane []] })] }
    (∀ s ∈ [tRegs [], tW (.woken 0), tW (.sleep 0 4), p, q], tStrand s ∧ queueGate o s = .go) ∧ Unlogged (tRegs []) ∧ Unlogged q
    ∧ Unlogged (tW (.woken 0)) ∧ (curLane (tW (.woken 0)) 0).wait = .woken 0
    ∧ (curLane (modCtx (tRegs []) 1 fun x => { x with lanes := x.lanes.map fun a => { a with pendWake := true } }) 0).pendWake = true
    ∧ (curLane (tW (.sleep 0 4)) 0).wait = .sleep 0 4 ∧ 4 ≤ cycOf { tW (.sleep 0 4) with now := 32 } 0 - 0
    ∧ (curLane (tRegs []) 0).wait = .none ∧ (curLane (tRegs []) 0).pendWake = false
    ∧ accessesOut (tRegs []) 1 [0] (relScope (tRegs []) [0]) = false ∧ validNode 0 = true ∧ validNode 1 = false
    ∧ breaksR10 .k (curPc (tRegs []) + jUnit .k * 0x10) = false
    ∧ (∃ a, Reaches (.spin .w32 (kM 2 1)) (tRegs [(1, 0x5000)]) (.spin .w32) 0 a)
    ∧ memNat (tRegs [(1, 0x5000)]) 0x5000 4 = dataNat .w32 (curLane (tRegs [(1, 0x5000)]) 0) 2
    ∧ memNat (tRegs [(1, 0x5000), (2, 9)]) 0x5000 4 ≠ dataNat .w32 (curLane (tRegs [(1, 0x5000), (2, 9)]) 0) 2
    ∧ curPriv q = true ∧ 5 < slotCount .dcore ∧ boundAt q 0 5 = none ∧ unboundStrand q 0 0x2000 = some 2
    ∧ boundAt q 0 1 ≠ none ∧ unboundStrand p 0 0x2000 = none ∧ curPriv (tRegs []) = false := by
  refine ⟨by unfold tStrand; decide, unlogged_nil rfl, unlogged_nil rfl, unlogged_nil rfl, by decide, by decide, by decide, by decide, by decide,
    by decide, by decide, by decide, by decide, by decide, reaches_of_tReach (by decide), ?_⟩
  decide

/-- A register that a strand with PRIV writes and one without does not; LCARVE with parts that do not make 32, and with the
reset value. -/
theorem witness_SystemRegistersReadAndWrite :
    let p := tPriv (tRegs [])
    Issues p ∧ Unlogged p ∧ Unlogged (tRegs []) ∧ muted p = false ∧ execLanes p = [0] ∧ stPriv (curLane p 0).status = true
    ∧ coreKind (curCore p 0) = .dcore ∧ (∀ l ∈ execLanes (tRegs []), stPriv (curLane (tRegs []) l).status = false)
    ∧ curPriv (tRegs []) = false ∧ lcarveReason p 0 0 = some 1 ∧ lcarveReason p 0 0x04108208 = none := by
  refine ⟨by unfold Issues; decide, unlogged_nil rfl, unlogged_nil rfl, ?_⟩
  decide

/-- A keeper, and another strand. -/
theorem witness_CacheInstructionsDropLines :
    Issues (tRegs []) ∧ curPriv (tPriv (tRegs [])) = true ∧ curPriv (tRegs []) = false
    ∧ cinvLine (tRegs [(4, 0x5000)]) (.cinvData { form := .k, reg := true, z := 4 }) 0 .read = some 0x5000
    ∧ cinvCaches (tRegs []) 0 = [.core 0] := by
  unfold Issues; decide
/-! ### Messages -/

/-- The operands of a message instruction: x in g2, s1 in g3, s2 in g4. -/
def tMo : Opnds := { form := .k, reg := true, x := 2, y := 3, z := 4 }
/-- A message from core 1 to core 0, of class 2. -/
def tMsg : Msg := { dst := 0, cls := 2, rel := false, fsens := false, txr := false, src := 1, flow := 0, task := 0, stamp := 0, payload := [] }
/-- Class 2 of core 0 with a register; bound to slot 1 it is the strand's own. -/
def tCls (v : DWord) (rs : Tab Word := []) : State := tSys 0x112 v (tRegs rs)

/-- MSEND at a misaligned and at an aligned offset, to an engine, with and without room; MBIND of class 2 with a
configuration that is allowed, one whose size is not, and class 0 without PRIV; MWAIT of a class that is not owned, of more
messages than it holds, of more than there are and of those there are; MACK of too many and of all. -/
theorem witness_MessagesAreSentAndTaken :
    let o := tMo
    let own (n : DWord) : DWord := 0xC0010000 + n * 0x100000000
    let i := Instr.mwaitAll 2 o
    OneLane (tCls 0) 0 ∧ coreKind (curCtx (tCls 0)).core = .dcore ∧ Unlogged (tCls 0)
    ∧ (b32 (.msend 2 false o) (curLane (tRegs [(4, 8)]) 0)).toNat % 16 ≠ 0 ∧ validNode 0 = true
    ∧ (0 : Nat) + 48 ≤ locLimit (tRegs []) (curCtx (tRegs [])) 0 ∧ spaceBad (tRegs []) (.scratch 0) 0 48 = false
    ∧ accessesOut (tRegs []) 1 [0] .none = false ∧ sendRoom (tRegs []) 0 2 = true
    ∧ sendRoom (tCore { sendQ := List.replicate 14 { msg := tMsg } } (tRegs [])) 0 2 = false
    ∧ queueGate o (tCls 0) = .go ∧ heldByOther (tCls 0) 0 2 = false
    ∧ classReason (tCls 0) 0 0 (mcApply 0 0x8000A000) none = 5 ∧ classReason (tCls 0) 0 0 (mcApply 0 0x80003000) none = 0
    ∧ curPriv (tCls 0) = false
    ∧ mcOwns (mcls (tCls 0) 0 2) (curCtx (tCls 0)) = false ∧ mcOwns (mcls (tCls (own 1)) 0 2) (curCtx (tCls (own 1))) = true
    ∧ 2 ^ mcLog (own 1) < (valsOf i (curLane (tRegs [(4, 2)]) 0)).s2.toNat % 0x100000000
    ∧ mcCount (own 0) < (valsOf i (curLane (tRegs [(4, 1)]) 0)).s2.toNat % 0x100000000
    ∧ (valsOf i (curLane (tRegs [(4, 1)]) 0)).s2.toNat % 0x100000000 ≤ 2 ^ mcLog (own 0)
    ∧ (valsOf i (curLane (tRegs [(4, 1)]) 0)).s2.toNat % 0x100000000 ≤ mcCount (own 1)
    ∧ firstMismatch (tCls (own 1) [(4, 1)]) 0 2 1 = none ∧ mcLog (own 1) ≤ 10 := by
  (repeat' apply And.intro) <;> first | exact unlogged_strand (by decide) | decide

/-- A message to a class with room for its last entry, to a full one and to one that is disabled; a retry of an entry that
was refused and of one that was not; a window write of 64 bytes by a core, of fewer, and by no core. -/
theorem witness_MessagesArriveInTheirClass :
    let q (r : Bool) : State := { State.reset with cores := [(1, { sendQ := [{ msg := tMsg, refused := r }] })] }
    let v (n : DWord) : DWord := 0x80003000 + n * 0x100000000
    coreKind tMsg.dst = .dcore ∧ engineKind tMsg.dst = .core .dcore ∧ tMsg.cls ≠ 0 ∧ tMsg.cls < 8 ∧ tMsg.task = 0
    ∧ routeUp State.reset (pkgOf tMsg.src) (pkgOf tMsg.dst) = true ∧ (getCore (tCls 0) tMsg.dst).retired = false
    ∧ replayOn (tCls 0) tMsg.dst = false ∧ tMsg.who = .nobody ∧ tMsg.src ≠ tMsg.dst ∧ tMsg.notice = false
    ∧ mcEn (mcls (tCls (v 7)) 0 2) = true ∧ mcCount (mcls (tCls (v 7)) 0 2) < 2 ^ mcLog (v 7) ∧ mcLog (v 7) ≤ 10
    ∧ 2 ^ mcLog (v 8) ≤ mcCount (mcls (tCls (v 8)) 0 2) ∧ mcEn (mcls (tCls 0) 0 2) = false
    ∧ (getCore (q false) 1).sendQ[0]? = some { msg := tMsg } ∧ (getCore (q true) 1).sendQ[0]? = some { msg := tMsg, refused := true }
    ∧ 0xF0000000000 % 64 = 0 ∧ leNat ((List.replicate 64 (0 : Byte)).take 4) / 256 = windowEngine 0xF0000000000 % 0x1000000
    ∧ (List.replicate 63 (0 : Byte)).length ≠ 64 ∧ fld (coreReg State.reset (windowEngine 0xF0000000000) 0x118) 0 31 < 0x7FFFFFFF := by
  (repeat' apply And.intro) <;> decide

/-! ### Engines -/

/-- A strand whose slot has a format context with a word and tables, and a lane at g values. -/
def tFmt (f : FmtCtx) (rs : Tab Word := []) : State := tCore { fmts := [(1, f)] } (tRegs rs)
/-- The format of FP16 operands and FP32 accumulators, and of the preset tables. -/
def tF16 : State := tFmt { set := true, word := 0x1B }
/-- Matrix operands: C at x = g2, A at g4 and g5, B at g6 and g7. -/
def tEo : Opnds := { form := .k, nImm := 1, reg := true, x := 2, y := 4, z := 6 }
/-- A queue with n entries of a strand on core 0. -/
def tEnt (id : Nat) (i : Instr) (started : Bool := false) : QEnt :=
  { id, instr := i, ctx := 1, lane := 0, core := 0, x := 0, s1 := 0, s2 := 0, task := 0, ttb := 0x1000, priv := false, txr := false,
    rm := 0, slot := 1, started }
def tSlice (l : List QEnt) (s : State := tRegs []) : State := tCore { slice := l } s

/-- The least shape: C at the start of the accumulators and at its last place, A and B in scratch, and B in memory; row
tables of MMAG; rows of MLDC and MSTC in scratch and at homes; no format context; a gather; queues with and without room;
a format context that is free, and one that an entry names; table words. -/
theorem witness_MatrixInstructionsEnqueue :
    let sh : Shape := { m := 0, n := 0, k := 0 }
    let o := tEo
    let f : State := tF16
    let lim := issueLimit f
    let top := spaceSize f (.accCore 0) - 1024
    let full := tSlice (List.replicate 4 (tEnt 1 (.mzro sh o))) f
    OneLane f 0 ∧ coreKind (curCtx f).core = .dcore ∧ Unlogged f ∧ queueGate o f = .go ∧ issueWord f = some 0x1B
    ∧ (shapeM sh * shapeN sh * accBytes 0x1B = 1024 ∧ top % 64 = 0 ∧ 0 % 64 = 0 ∧ 1024 ≤ spaceSize f (.accCore 0))
    ∧ aBytes 0x1B 16 32 ≤ lim ∧ bBytes 0x1B 16 32 ≤ lim ∧ tableFailsOf f 0x1B = [] ∧ o.zq = false
    ∧ failsOf (checkPages f 0 0x5000 (bBytes 0x1B 16 32) .read) = [] ∧ 2 * 16 ≤ lim
    ∧ (memSize 0 = 4 ∧ 15 * 64 + 16 * 4 ≤ lim) ∧ mstcTable f 0 = [] ∧ mstcTable f 6 = []
    ∧ (∀ r, r < 16 → failsOf (checkPages f 0 ((0x5000 + r * 64) % 0x10000000000000000) (4 * 16) .write) = [])
    ∧ issueWord (tRegs []) = none ∧ (1024 * 8 ≤ lim ∧ 1024 * 4 ≤ lim)
    ∧ queueRoom f (.slice 0) = true ∧ queueRoom full (.slice 0) = false ∧ queueRoom f (.matrix 0) = true
    ∧ fmtBusy f = false ∧ fmtBusy (tCore { slice := [tEnt 1 (.mma sh o)], fmts := [(1, { set := true, word := 0x1B })] } (tRegs [])) = true
    ∧ fwOk 0x1B = true ∧ fwOk 0x09 = true ∧ fwOk 0x0B = false
    ∧ (4 * 256 ≤ lim ∧ ∀ j, j < 16 → spaceNat f (.scratch 0) (4 * j) 4 < 0x80000 ∧ spaceBad f (.scratch 0) (4 * j) 4 = false)
    ∧ fourOk false ((List.range 16).map fun j => BitVec.ofNat 19 (spaceNat f (.scratch 0) (4 * j) 4)) = true := by
  (repeat' apply And.intro) <;> first | exact unlogged_strand (by decide) | decide

/-- A queue with an entry that can start and one that runs; an empty queue; a running MZRO; a partial of a running entry. -/
theorem witness_EngineEntriesStartAndComplete :
    let sh : Shape := { m := 0, n := 0, k := 0 }
    let e (r : Bool) := tEnt 1 (.mzro sh tEo) r
    let s (r : Bool) := tSlice [e r]
    nextEntry (tRegs []) (.slice 0) = none ∧ nextEntry (s false) (.slice 0) = some (e false) ∧ isJoin (e false) = false
    ∧ runningEntry (s false) (.slice 0) = none ∧ runningEntry (s true) (.slice 0) = some (e true) ∧ (e true).killed = false
    ∧ (e true).out = 0 ∧ (e true).course = false
    ∧ (queueOf (s true) (.slice 0)).find? (fun k => k.id == 1) = some (e true) ∧ paPkg 0x5000 = pkgOf (e true).core
    ∧ memBad (s true) 0x5000 4 = false ∧ targetOf 0x5000 ≠ .window := by decide

/-- An Eave core's strand: core 12288 stands at the first memory stack. -/
def tEave (rs : Tab Word) : State := modCtx (tRegs rs) 1 fun x => { x with core := 12288 }

/-- CPY and FGET at aligned operands, and CPY at one that is not; a descriptor of zeros; join queues with and without room;
an FPUT of 16 bytes with and without room; TSEND of 32 bytes and of 65,536 to a Truss. -/
theorem witness_CopyInstructionsEnqueue :
    let s := tRegs [(2, 0x5000)]
    let o := tEo
    let full : State := { s with trusses := [(0, { copy := List.replicate 32 (tEnt 1 (.cpy o)) })] }
    OneLane s 0 ∧ Unlogged s ∧ o.zq = false ∧ coreKind (curCtx s).core = .dcore
    ∧ (valsOf (.cpy o) (curLane s 0)).x.toNat % 32 = 0 ∧ (valsOf (.cpy o) (curLane s 0)).s2.toNat = 0
    ∧ (valsOf (.cpy o) (curLane (tRegs [(2, 0x5010)]) 0)).x.toNat % 32 ≠ 0
    ∧ 32 ≤ locLimit s (curCtx s) 0 ∧ spaceBad s (.scratch 0) 0 32 = false ∧ at_ (spaceBytes s (.scratch 0) 0 32) 0 8 % 32 = 0
    ∧ 0x1000 ≤ issueLimit s ∧ queueRoom s (.copyT 0) = true ∧ queueRoom full (.copyT 0) = false
    ∧ (match fputChecks s 0 0x5000 16 with
        | [.ok p] => decide (p.acc.va.toNat / 4096 = 5 ∧ paPkg (p.acc.pa / 4096 * 4096) = pkgOf (curCore s 0)) | _ => false) = true
    ∧ relaxedCount s 1 0 < 8 ∧ 8 ≤ relaxedCount { s with flight := tPosted 8 } 1 0
    ∧ OneLane (tEave []) 0 ∧ Unlogged (tEave []) ∧ coreKind (curCtx (tEave [])).core = .eave ∧ (trussNode (tEave []) 0 0).isSome = true
    ∧ (valsOf (.tsend o) (curLane (tEave [(7, 0x10000)]) 0)).s2.toNat / 0x100000000 = 65536 := by
  (repeat' apply And.intro) <;> first | exact unlogged_strand (by decide) | decide

/-- A running CPY of one sector whose pages are mapped, one whose source is not, and one that sends a message; a TSEND that
its Truss did not accept. -/
theorem witness_CopyEntriesComplete :
    let e : QEnt := { tEnt 1 (.cpy tEo) true with x := 0x6000, s1 := 0x5000, s2 := 32 }
    let m : QEnt := tEnt 1 (.cpy { tEo with imm := 0x80 }) true
    let q (e : QEnt) : State := { tRegs [] with trusses := [(0, { copy := [e] })] }
    runningEntry (q e) (.copyT 0) = some e ∧ e.killed = false ∧ e.s2.toNat % 0x100000000 = 32
    ∧ e.instr.opnds.imm.getLsbD 7 = false ∧ (readSector (q e) e 0x5000).map (·.2) = some false
    ∧ sectorPa (q e) e 0x6000 = some 0x6000 ∧ targetOf 0x6000 ≠ .window ∧ (readSector (q e) e 0x80000000).isNone = true
    ∧ m.instr.opnds.imm.getLsbD 7 = true ∧ (tEnt 1 (.tsend tEo) true).sent = false := by decide
/-! ### The die mesh, work lists, leases and migration -/

/-- A span of D-cores 0 and 1 of the first Truss, slot 1, and one with an empty core mask. -/
def tSpan : DWord := 0x300010000
/-- A strand with a span descriptor in g2 and g3, and offsets of zero; the immediate gives 16 bytes. -/
def tSpanStrand (d : DWord := tSpan) : State := tRegs [(2, d.setWidth 32), (3, d.extractLsb' 32 32)]
def tSo : Opnds := { form := .k, reg := true, x := 2, y := 4, z := 6 }
/-- A work list of 8 entries, with n of them taken and a batch size. -/
def tList (n : Nat) (batch : DWord := 0) (rs : Tab Word := []) : State :=
  tCore { sys := [(0x1A0, 0x8000000000003000 + batch * 0x10000000000), (0x1A1, BitVec.ofNat 64 (n * 65536))] } (tRegs rs)

/-- A reduction that holds a buffer of the first router. -/
def tRed : Reduction :=
  { id := 1, desc := tSpan, tag := 5, task := 0, joined := [],
    parts := [{ j := 0, bytes := [], spec := { all := true, off := 0, cc := 0, src := 0 } }] }

/-- A span that is allowed, one that is not, and an issuer outside it; a router with room and one whose eight buffers are
taken; a work list that is off, empty, partly filled and full, and the entry that marks an empty list; a strand and a course. -/
theorem witness_CollectivesWorkListsAndLeases :
    let o := tSo
    let s := tSpanStrand
    let full : State := { s with dies := [(0, { reds := List.replicate 8 tRed })] }
    Issues s ∧ Unlogged s ∧ muted s = false ∧ isStrand (curCtx s) = true ∧ queueGate o s = .go
    ∧ (valsOf (.mcast o) (curLane s 0)).x = tSpan ∧ (valsOf (.mcast o) (curLane s 0)).s1.toNat % 16 = 0
    ∧ (valsOf (.mcast o) (curLane s 0)).s1.toNat + spanBytes o ≤ issueLimit s ∧ spanOk tSpan = true ∧ spanOk 0x10000 = false
    ∧ spanIndex s tSpan = some 0 ∧ spanIndex s 0x200010000 = none ∧ participants 0 tSpan = [0, 1]
    ∧ routerRoom s 0 0 (redFor s 0 tSpan 0 0 0) = true ∧ routerRoom full 0 0 (redFor full 0 tSpan 0 0 0) = false
    ∧ isStrand (curCtx tCourse) = false ∧ wlEn (wlCtl (tRegs []) 0) = false ∧ wlEn (wlCtl (tList 0) 0) = true
    ∧ ((valsOf (.wpush o) (curLane (tRegs [(7, 0xFFFFFFFF)]) 0)).s2).extractLsb' 32 32 = 0xFFFFFFFF
    ∧ wlCountOf (tList 8) 0 = wlSize (tList 8) 0 ∧ wlCountOf (tList 7) 0 < wlSize (tList 7) 0 ∧ wlBatch (wlCtl (tList 7) 0) = 0
    ∧ wlBatch (wlCtl (tList 8 1) 0) ≠ 0 ∧ wlLog (wlCtl (tList 7) 0) ≤ 11 ∧ accessesOut (tList 7) 1 [0] .bay = false
    ∧ wlCountOf (tList 0) 0 = 0 ∧ wlCountOf (tList 1) 0 ≠ 0 ∧ Issues tCourse := by
  (repeat' apply And.intro) <;> first | exact unlogged_strand (by decide) | (unfold Issues; decide) | decide

/-- A delivery of 16 bytes to slot 1 of core 0, up to the last byte of its scratch and beyond it, to a slot that holds a
context of its task or of another and to one that is empty; a dead task; a reduction of two contributions that is ready. -/
theorem witness_DeliveriesAndReductions :
    let d (slot : Nat) : Delivery := { core := 0, slot, off := 0, bytes := List.replicate 16 0, task := 0, cc := 3, src := 0, id := 1, flags := 0 }
    let s := tRegs []
    let top := slotScratch s 0
    let spec : RedSpec := { all := true, off := 0, cc := 3, src := 0 }
    let r : Reduction := { id := 1, desc := tSpan, tag := 0, task := 0, joined := [0, 1],
                           parts := [{ j := 0, bytes := leBytes 4 0x3F800000, spec }, { j := 1, bytes := leBytes 4 0x40000000, spec }] }
    let z : State := { s with dies := [(0, { reds := [r] })] }
    tagDead s 0 0 = false ∧ tagDead { s with pkgs := [(0, { deadTags := [5] })], dies := [(0, { deadTags := [5] })] } 0 5 = true
    ∧ (∀ e ∈ s.flight, sameGroup (d 1) e = false) ∧ boundAt s 0 1 = some 1 ∧ (getCtx s 1).task = 0 ∧ (getCtx s 1).task ≠ 6
    ∧ (16 ≤ top ∧ (top - 16) + 16 ≤ top ∧ top < (top - 15) + 16) ∧ boundAt s 0 2 = none ∧ leftAt s 0 2 0 = none
    ∧ ((getDie s 0).reds.find? fun r => r.id == 1 && redReady 0 r) = none
    ∧ ((getDie z 0).reds.find? fun r => r.id == 1 && redReady 0 r) = some r ∧ (participants 0 r.desc).length = 2
    ∧ r.head = none ∧ r.step = 0 ∧ r.bad = false ∧ r.flags = 0 ∧ (partOf r 0).map (·.bytes.length) = some 4
    ∧ (partOf r 1).map (·.bytes.length) = some 4 ∧ (partOf r 0).map (·.spec) = some spec ∧ (partOf r 1).map (·.spec) = some spec := by
  decide

/-- The course at the point whose record stands at 0x6000 (zeros: address 0 in both forms, no live value). -/
def tPoint (f : Ctx → Ctx := id) : State :=
  modCtx tCourse 1 fun x => f { x with kernel := { neq := 1, eqrec := 0x6000, kent := 2, went := 4, kneed := 32, wneed := 32 } }
/-- Every lane of it waits for a migration of a kind. -/
def tMigr (k : Nat) (f : Ctx → Ctx := id) : State :=
  tPoint fun x => f { x with lanes := x.lanes.map fun a => { a with wait := .migr k 3 2 } }

/-- A point without a record, one with it, and one that cannot be read; a strand, a split course, a handler, a course of
the target's class, and a course that migrates. -/
theorem witness_MigrationInstructions :
    let lost := tPoint fun x => { x with kernel := { x.kernel with eqrec := 0x80000000 } }
    let here (s : State) := (recordAt s (curCtx s) (curPc s)).join.isSome
    let inH := tPoint fun x => { x with lanes := x.lanes.map fun a => { a with inHandler := true } }
    Issues tPoint ∧ recordAt lost (curCtx lost) (curPc lost) = none ∧ recordAt tCourse (curCtx tCourse) (curPc tCourse) = some none
    ∧ here tPoint = true ∧ isStrand (curCtx tPoint) = false ∧ (curCtx tPoint).split = false ∧ isL (curCtx tPoint) = false
    ∧ (tPoint.cur.lanes.any fun l => (getLane (curCtx tPoint) l).inHandler) = false ∧ traceOn tPoint 0 = false
    ∧ (inH.cur.lanes.any fun l => (getLane (curCtx inH) l).inHandler) = true
    ∧ (curCtx (tPoint fun x => { x with split := true })).split = true ∧ here (tPoint fun x => { x with split := true }) = true
    ∧ isStrand (curCtx (tRegs [])) = true := by
  (repeat' apply And.intro) <;> first | (unfold Issues; decide) | decide

/-- A course that waits for no migration; one that does and can be moved, with DHA; a Gable's course in a handler; MIGREQ
that names no course and one, with the greatest target; an answer with and without a pending decision. -/
theorem witness_MigrationsAreDecided :
    let s := tMigr 0
    let dha : State := { s with bays := [(0, { sys := [(0x1E0, 0x40000000)] })] }
    let asked : State := { tMigr 2 with bays := [(0, { pend := [{ ctx := 1, target := 0, host := true }] })] }
    let gable := tMigr 0 fun x => { x with kind := .gable, core := 512, lanes := x.lanes.map fun a => { a with inHandler := true } }
    let ok (e : Except Nat Spot) := match e with | .ok _ => true | .error _ => false
    migrOf (curCtx tPoint) = none ∧ migrOf (curCtx s) = some (0, 3, 2) ∧ (migctl dha (curCtx dha)).getLsbD 30 = true
    ∧ ok (decide_ (offSlot dha 1) 1 true) = true ∧ (curCtx gable).kind = .gable ∧ (curCtx gable).lanes.any (·.inHandler) = true
    ∧ migrOf (curCtx gable) = some (0, 3, 2)
    ∧ migNamed s 0 0x10000 = none ∧ migNamed s 0 2 = some 1 ∧ fld (2 : DWord) 0 2 < 3
    ∧ migPending s 1 = false ∧ migPending asked 1 = true ∧ migrOf (getCtx asked 1) = some (2, 3, 2)
    ∧ (0x20000000 : DWord).getLsbD 29 = true ∧ asked.flight = [] ∧ traceOn asked 0 = false ∧ ok (decide_ asked 1 true) = true
    ∧ (recordAt asked (getCtx asked 1) 0).join.isSome = true := by decide
/-! ### Launches, graphs and the scheduler -/

/-- An image at 0x8000 with one kernel at 0x8040, whose K-form entry is 0x9000 in a code section of 4 KiB (R493 to R495). -/
def tImage (m : List Host.Cell) : List Host.Cell :=
  putBytes (putBytes (putBytes m
    0x8000 (leBytes 4 0x574B5253 ++ leBytes 2 1 ++ leBytes 2 1 ++ leBytes 4 1 ++ leBytes 12 0 ++ leBytes 8 0x100))
    0x8040 (leBytes 8 0x9000 ++ leBytes 34 0 ++ leBytes 1 32))
    0x8100 (leBytes 8 0xC0001 ++ leBytes 8 0x1000 ++ leBytes 8 0x1000)
/-- The payload of a launch of that kernel: one course in the first bay, for task 5, with a completion message to a node. -/
def tPay (done : Nat := 0) : List Byte :=
  leBytes 8 0x8040 ++ leBytes 8 0x7000 ++ leBytes 4 1 ++ leBytes 2 1 ++ leBytes 2 0 ++ leBytes 8 5 ++ leBytes 4 done ++ leBytes 8 0 ++ leBytes 4 1
def tLaunch : Msg := { tMsg with cls := 0, payload := tPay, who := .lane 1 0 }
/-- A keeper of core 0 with the image in memory. -/
def tAdmit : State := { tKeeper with mem := tImage (loadTables []) }
/-- The same with no workspace region on the first core of each Truss of the bay. -/
def tNoRoom : State :=
  { tAdmit with cores := (List.range 8).map fun t => (64 * t, { sys := [(0x102, 0x04108200)] }) }
/-- A launch that is not placed. -/
def tOpen : Launch :=
  { id := 9, msg := tLaunch, engine := 0, ttb := 0, kern := {}, b := [], prio := 0, cor := false, form := 1, nbund := 1, cpb := 1,
    bays := 1, left := 1 }

/-- LNCH and GSUB with their answers; LNCH at a misaligned and at an aligned offset, to a D-core's node and to an L-core's;
without PRIV; GDONE to a node and to none, with and without room. -/
theorem witness_LaunchAndGraphInstructions :
    let o := tMo
    let s := tRegs []
    tStrand s ∧ tStrand (tW (.answer 0 [(0, 5)] [])) ∧ coreKind (curCtx s).core = .dcore ∧ Unlogged s
    ∧ (curLane s 0).wait = .none ∧ (curLane (tW (.answer 0 [(0, 5)] [])) 0).wait = .answer 0 [(0, 5)] []
    ∧ (b32 (.lnch o) (curLane (tRegs [(4, 8)]) 0)).toNat % 16 ≠ 0 ∧ validNode 0 = true ∧ validNode (512 * 256 + 32) = true
    ∧ 0 + 48 ≤ locLimit s (curCtx s) 0 ∧ spaceBad s (locSpace (curCtx s) 0) 0 48 = false
    ∧ accessesOut s 1 [0] (relScope s [0]) = false ∧ nodeKindOf 0 = 0 ∧ nodeKindOf (512 * 256 + 32) = 1
    ∧ sendRoom s 0 0 = true ∧ curPriv (tPriv s) = true ∧ curPriv s = false ∧ accessesOut s 1 [0] .pkg = false
    ∧ queueGate o s = .go ∧ validNode 1 = false ∧ sendRoom s 0 1 = true
    ∧ sendRoom (tCore { sendQ := List.replicate 14 { msg := tMsg } } s) 0 1 = false := by
  (repeat' apply And.intro) <;> first | exact unlogged_strand (by decide) | decide

/-- A payload that is not well-formed, a launch that never fits, one that the queue has no room for and one that it has; a
bundle that waits; answers to nobody and to a lane; graphs that are misaligned, unreadable and good, with a free slot; the
completion of a node of a graph in use, of one that is not, and of one that was not dispatched. -/
theorem witness_LaunchesAndGraphsProceed :
    let full : State := { tAdmit with dies := [(0, { launches := List.replicate 256 tOpen })] }
    let pend : State := modCtx tCourse 1 fun x => { x with slot := none, pending := true, launch := some (0, 9) }
    let w := tW (.answer 1 [] [])
    let r : Reader := { core := 0, ttb := 0x1000, priv := false, task := 0, cached := false }
    let h := leBytes 4 1 ++ leBytes 4 0 ++ leBytes 8 0x7100 ++ leBytes 8 0x7200 ++ leBytes 4 5 ++ leBytes 4 0xFFFFFFFF
    let g : State := { tRegs [] with mem := putBytes (loadTables []) 0x7000 h }
    let n (k : Nat) : GNode := { need := 0, state := k, long := 0, succ := [], bytes := List.replicate 64 0 }
    let gs : Tab GSlot := [(0, { used := true, nodes := [n 2, n 0, n 2] })]
    let good (s : State) := match readGraph s r 0x7000 with | .ok (_, l) => l.length == 1 | .error _ => false
    payloadOk [] = false ∧ payloadOk tPay = true ∧ (readLaunch tAdmit tLaunch).map (fun q => neverFits tAdmit q 0) = some false
    ∧ (readLaunch tNoRoom tLaunch).map (fun q => neverFits tNoRoom q 0) = some true
    ∧ ((getDie full 0).launches.filter fun e => e.next < e.nbund).length = 256
    ∧ (readLaunch full tLaunch).map (fun q => neverFits full q 0) = some false ∧ at_ tPay 32 4 ≠ 0xFFFFFFFF
    ∧ pendingOf pend 0 9 0 = [1] ∧ (curCtx w).alive = true ∧ reachable (curCtx w) = true ∧ isStrand (curCtx w) = true
    ∧ (curLane w 0).wait = .answer 1 [] [] ∧ (getCtx w 5).alive = false ∧ (0x7001 : DWord).toNat % 64 ≠ 0
    ∧ readGraph g r 0x80000000 = .error 5 ∧ good g = true
    ∧ ((List.range 64).find? fun k => !(tget {} (getDie g 0).graphs k).used) = some 0
    ∧ rising gs = true ∧ (tget {} gs 0).used = true ∧ (tget {} gs 1).used = false ∧ (tget {} gs 0).nodes[0]? = some (n 2)
    ∧ (n 0).state ≠ 2 ∧ (tget {} gs 0).nodes[2]? = some (n 2) := by
  (repeat' apply And.intro) <;> decide

/-- A Truss without courses; one with a ready course where a slot is free, where its lease does not fit, and where none is
free; a course that is due; a course that its fairness displaces, with and without a load on its way. -/
theorem witness_CoursesAreScheduled :
    let idle (f : Ctx → Ctx) : State := modCtx tCourse 1 fun x => f { x with slot := none }
    let s := idle id
    let big := idle fun x => { x with lease := { lines := 0x10000 } }
    let more : List (Nat × Ctx) := (List.range 15).map fun k => (k + 2, { alive := true, slot := some (k + 1), lanes := [tLane []] })
    let busy : State := { s with ctxs := s.ctxs ++ more }
    let due := idle fun x => { x with due := true }
    let gone (n : Nat) : State := modCtx tCourse 1 fun x =>
      { x with displace := 2, lanes := x.lanes.map fun a => { a with queues := if n = 0 then [] else [(0, { inflight := n })] } }
    let fits (s : State) := decide (trussSum s 0 + unitLines s 1 ≤ admitLimit s 0)
    unitsOf (tRegs []) 0 = [] ∧ unitsOf s 0 = [1] ∧ (getCtx s 1).mate = none ∧ (getCtx s 1).slot = none ∧ trussOf (getCtx s 1).core = 0
    ∧ unitReady s 1 = true ∧ freeSlotFor s 1 = some 1 ∧ unitDue s 1 = false ∧ fits s = true
    ∧ unitReady big 1 = true ∧ freeSlotFor big 1 = some 1 ∧ unitDue big 1 = false ∧ fits big = false
    ∧ unitReady busy 1 = true ∧ freeSlotFor busy 1 = none ∧ unitDue busy 1 = false ∧ unitsOf busy 0 = [1]
    ∧ freeSlotFor due 1 = some 1 ∧ unitDue due 1 = true
    ∧ (curCtx (gone 0)).kind = .course ∧ (curCtx (gone 0)).split = false ∧ (curCtx (gone 0)).displace = 2
    ∧ queuesBusy (curCtx (gone 1)) = true ∧ queuesBusy (curCtx (gone 0)) = false := by
  (repeat' apply And.intro) <;> decide

/-! ### Traps -/

/-- The same lanes in a handler. -/
def tIn (s : State) : State := modCtx s 1 fun x => { x with lanes := x.lanes.map fun a => { a with inHandler := true } }

/-- A strand that is named and a course whose executing lanes all are; no host assist; a double fault of a task, of tag 0
and of a keeper. -/
theorem witness_TrapsEnterTheirHandlers :
    let f : TrapInfo := { vector := 31, reason := 255, mask := 0xFF }
    let s := tRegs []
    f.vector < 32 ∧ f.reason < 256 ∧ s.cur.lanes ≠ [] ∧ isStrand (curCtx s) = true ∧ s.cur.lanes = [0] ∧ inMask f.mask 0 = true
    ∧ (curLane s 0).inHandler = false ∧ parks s (curCtx s).core (curLane s 0).status f = false
    ∧ isStrand (curCtx tCourse) = false ∧ (curCtx tCourse).split = false ∧ (∀ l ∈ tCourse.cur.lanes, (curLane tCourse l).inHandler = false)
    ∧ execLanes tCourse ≠ [] ∧ (∀ l ∈ execLanes tCourse, inMask f.mask l = true)
    ∧ (∀ l ∈ tCourse.cur.lanes, parks tCourse (curCore tCourse l) (curLane tCourse l).status f = false)
    ∧ (∀ l ∈ (tIn s).cur.lanes, (curLane (tIn s) l).inHandler = true) ∧ isKeeper (curCtx (tIn s)) = false ∧ (curCtx (tIn s)).task = 0
    ∧ (curCtx (modCtx (tIn s) 1 fun x => { x with task := 7 })).task ≠ 0
    ∧ isKeeper (curCtx (tIn tKeeper)) = true ∧ (∀ l ∈ (tIn tKeeper).cur.lanes, (curLane (tIn tKeeper) l).inHandler = true) := by
  decide

/-- A strand outside a handler with and without breakpoint stops, and a handler with PRIV whose EPC keeps R10. -/
theorem witness_SystemInstructions :
    let s := tRegs []
    let h := tIn (tPriv s)
    tStrand s ∧ tStrand h ∧ brkStops s = false ∧ (curLane s 0).inHandler = false
    ∧ brkStops (tSys 0x156 0x80000000) = true ∧ lanesBusy (curCtx s) [0] = false
    ∧ curPriv h = true ∧ (curLane h 0).inHandler = true ∧ breaksR10 (ctxForm (curCtx h)) (curLane h 0).epc = false
    ∧ (curLane h 0).live = true ∧ (curLane h 0).actv = true ∧ curPriv s = false ∧ traceOn s (curCtx s).core = false := by
  unfold tStrand; decide
/-! ### Accesses on their way, strands and courses -/

/-- An access of lane 0 to 0x5000, and one of it to the first word of package 1. -/
def tAcc (op : MemOp) (pa : Nat := 0x5000) : Access :=
  { ctx := 1, op, x := 4, lanes := [{ lane := 0, va := 0x5000, pa, attr := 0, data := 0 }], ticket := 0, pc := 0 }
def tPost (op : MemOp) (bytes : List Byte := []) : PostedOp := { ctx := 1, acc := { lane := 0, va := 0x5000, pa := 0x5000, attr := 0, data := 0 }, op, bytes }
def tQop (q : Nat) (pa : Nat := 0x5000) (bad : Bool := false) : QueueOp :=
  { ctx := 1, lane := 0, queue := q, entry := 0, sz := .w32, va := 0x5000, pa, attr := 0, data := 0, pc := 0, bad }
/-- A state whose step takes an event, and what an event's data gives in it. -/
def tEv (e : Ev) (s : State := tRegs []) : State := { s with ev := some e }
/-- A strand with page tables in package 1 open to it: a good route and an import row that covers all and grants all. -/
def tOpened (s : State) : State :=
  { s with pkgs := [(0, { regs := [(0x100, 0x8000)] }), (1, { regs := [(0x1000, 0x1F), (0x1008, 44)] })] }

/-- A relaxed load of an L-core and of a D-core, refused and not; stores and reductions that are performed, of poisoned and
of good sectors, and the bytes of an FPUT; loads of a queue from a refused, a failed, a poisoned and a good place; the entries
of a journal, refused or not, of a context that lives or not; walks that end and that do not. -/
theorem witness_AccessesOnTheirWayPerform :
    let s := tEv (.relaxedLoadReturn (tAcc (.load .w32)))
    let l : State := modCtx s 1 fun x => { x with core := 512, kind := .gable }
    let home (s : State) := cacheAt s (coresOf s 1 0) 0 0x5000 = .nowhere ∧ targetOf 0x5000 ≠ .window ∧ replayOn s (coresOf s 1 0) = false
    let bad (s : State) : State := { s with bad := [0x5000 / 32] }
    let far := 0x100000005000
    let journal (s : State) : State := tJournal (tEv (.journalEntryPerform 0 0) s)
    let e : JEntry := { id := 0, ctx := 1, lane := 0, idx := 0, op := .store .w32, va := 0x40000000, pa := 0x100000000000, data := 0,
                        bytes := [], task := 0, parent := 0 }
    let refuse (s : State) (e : JEntry) := entryReason s 0 e.task e.pa (jBytes e) (opKind e.op)
    let pend := modCtx (tEv (.journalRefusalTrap 1 0)) 1 fun x =>
      { x with lanes := x.lanes.map fun a => { a with refpend := [{ idx := 0, reason := 2, va := 0x5000, logSize := 2, lane := 0 }] } }
    let walks (va : DWord) := match findIn s (getBay s 0).tlb 0 0x1000 va with | .ok _ => true | .error _ => false
    home s ∧ home l ∧ (getCtx s 1).lanes.length = 1 ∧ coreKind (getCtx l 1).core = .lcore ∧ coreKind (getCtx s 1).core ≠ .lcore
    ∧ homeFail s 0 (.load .w32) { lane := 0, va := 0x5000, pa := 0x5000, attr := 0, data := 0 } = none
    ∧ (homeFail (bad s) 0 (.load .w32) { lane := 0, va := 0x5000, pa := 0x5000, attr := 0, data := 0 }).isSome = true ∧ home (bad s)
    ∧ (tPost (.store .w32)).bytes = [] ∧ (tPost (.store .w32) [1]).bytes ≠ []
    ∧ memBad s 0x5000 4 = false ∧ memBad (bad s) 0x5000 4 = true
    ∧ (getCtx s 1).leaving = 0 ∧ (getCtx s 1).stopping = []
    ∧ (farFrom 0 far = true ∧ entryReason s 0 0 far 4 .read ≠ 0) ∧ farFrom 0 0x5000 = false ∧ (tQop 0 0x5000 true).bad = true
    ∧ readBad s 0 0 0x5000 4 = false ∧ readBad (bad s) 0 0 0x5000 4 = true
    ∧ (getCore (journal (tRegs [])) 0).journal.find? (fun e => e.id == 0) = some e ∧ refuse (journal (tRegs [])) e ≠ 0
    ∧ refuse (journal (tOpened (tRegs []))) e = 0 ∧ e.bytes = [] ∧ e.op = .store .w32 ∧ targetOf e.pa ≠ .window ∧ paPkg e.pa ≠ pkgOf 0
    ∧ (getCtx (journal (tRegs [])) e.ctx).alive = true ∧ e.lane < (getCtx (journal (tRegs [])) e.ctx).lanes.length
    ∧ (getCtx (tJournal State.reset) e.ctx).alive = false
    ∧ (getLane (getCtx s 1) 0).refpend = [] ∧ (getLane (getCtx pend 1) 0).refpend ≠ [] ∧ isStrand (getCtx pend 1) = true
    ∧ replayOn pend 0 = false ∧ walks 0x5000 = true ∧ walks 0x80000000 = false ∧ (getBay s 0).tlb.length < 4096 := by
  (repeat' apply And.intro) <;> decide

/-- A record of a strand for D-core 0, or of a course for its Truss. -/
def tRec (course : Bool := false) : SpawnRec :=
  { target := 0, course, pc := 0x100, lanes := [(0, [])], b := [], slim := 0, task := 0, ttb := 0x1000, rm := 0, txr := false,
    kernel := { kneed := 32, wneed := 32, wcode := 1 }, ctx := 1, lane := some 0, src := 0, parent := 1, stamp := 0 }

/-- Records that a D-core or a Truss takes, that wait and that find the queue full; of a dead task; an answer; a queue whose
head starts and one that is empty; exits that wait, with room and without; a wake of nobody, of a strand that sleeps and of
one that does not; ends of a sleep, of a SPIN and of a YLD with a condition. -/
theorem witness_StrandEventsProceed :
    let s := tEv (.spawnRecordArrival (tRec))
    let queue (n : Nat) := tCore { spawnQ := List.replicate n (tRec) } s
    let dead : State := { s with pkgs := [(0, { deadTags := [0] })], dies := [(0, { deadTags := [0] })] }
    let w := tW (.answer 1 [] [])
    let exit (n : Nat) := tCore { exitWait := [(1, 5)], exitQ := List.replicate n tExit } s
    let zz := tW (.sleep 0 5)
    let late : State := { zz with now := 8 * 100 }
    tagDead s 0 0 = false ∧ tagDead dead 0 0 = true ∧ routeUp s 0 0 = true ∧ (getCore s 0).retired = false
    ∧ (getCore s (spawnHome (tRec))).spawnQ = [] ∧ coreKind 0 = .dcore ∧ (slotTakes s 0 (kernelNeed (tRec).kernel .k)).isSome = true
    ∧ trussOf 0 % 16 ≠ 8 ∧ (trussTakes s 0 (kernWidth (tRec true).kernel) (kernelNeed (tRec true).kernel .k)).isSome = true
    ∧ (freeNum s 0).isSome = true ∧ (getCore (queue 31) 0).spawnQ.length < 32 ∧ (getCore (queue 31) 0).spawnQ ≠ []
    ∧ 32 ≤ (getCore (queue 32) 0).spawnQ.length
    ∧ (getCtx w 1).alive = true ∧ reachable (getCtx w 1) = true ∧ isStrand (getCtx w 1) = true
    ∧ (getLane (getCtx w 1) 0).wait = .answer (0 + 1) [] []
    ∧ (spawnReady s 0).isNone = true ∧ (getCore (queue 1) 0).spawnQ = tRec :: [] ∧ (startRecord (queue 1) (tRec)).isSome = true
    ∧ (getCore s 0).exitWait = [] ∧ (getCore (exit 31) 0).exitWait = [(1, 5)] ∧ (getCore (exit 31) 0).exitQ.length < 32
    ∧ 32 ≤ (getCore (exit 32) 0).exitQ.length ∧ exitCore (getCtx (exit 31) 1) = 0 ∧ NoLaunch (exit 31) ∧ isStrand (getCtx (exit 31) 1) = true
    ∧ engineKind 0 = .core .dcore ∧ wakeTarget s 0 2 = none ∧ wakeTarget zz 0 1 = some (1, [0])
    ∧ sleeps (getLane (getCtx zz 1) 0) = true ∧ switchedOut (getCtx zz 1) = false ∧ sleeps (getLane (getCtx s 1) 0) = false
    ∧ sleepOver s (getCtx s 1) 0 = false ∧ sleepOver late (getCtx late 1) 0 = true
    ∧ (getLane (getCtx (tW (.spin [1])) 1) 0).wait = .spin [1]
    ∧ (getLane (getCtx (tW (.yldCc 0 0 8 4)) 1) 0).wait = .yldCc 0 0 8 4 ∧ (getLane (getCtx (tW (.yldCc 0 0 8 4)) 1) 0).annul = 0 := by
  (repeat' apply And.intro) <;> first | exact noLaunch_nil rfl | decide

/-- Eight strands that wait in CLASP and fuse, where a workspace is free and where no course number is; fewer than eight;
lanes that wait at their rejoin; a bundle of one course. -/
theorem witness_CourseEventsProceed :
    let p (s : State) : State := (List.range 8).foldl (fun z k => tWaitsAt z (k + 1) (.clasp 0 8)) s
    let s := p tEight
    let ps := (List.range 8).map (· + 1)
    let a (c : Nat) := getLane (getCtx s c) 0
    let z := modCtx (tWaits .rejoin tSplit) 1 fun x => { x with rjv := true }
    let x := getCtx z 1
    claspParts tEight 0 1 0 8 = none ∧ claspParts s 0 1 0 8 = some ps ∧ (∀ c ∈ ps, c ≠ s.nextCtx)
    ∧ (∀ c ∈ ps, (a c).wait = .clasp 0 8 ∧ (a c).pc = (a 1).pc ∧ (getCtx s c).kernel = (getCtx s 1).kernel
        ∧ (getCtx s c).task = (getCtx s 1).task ∧ stRM (a c).status = stRM (a 1).status ∧ stTxr (a c).status = stTxr (a 1).status)
    ∧ (freeNum s 0).isSome = true ∧ (wsFit s ps (setCores 0 8) (wsBytes (getCtx s 1).need)).isSome = true
    ∧ (heldCourses s 0).length < 1024
    ∧ wsFit { s with cores := [(0, { sys := [(0x102, 0x04108200)] })] } ps (setCores 0 8) (wsBytes (getCtx s 1).need) = none
    ∧ pairBroken z x = false ∧ (getLane x ((liveLanes x).headD 0)).wait = .rejoin
    ∧ (∀ l ∈ liveLanes x, (getLane x l).wait = .rejoin ∧ (getLane x l).pc = (getLane x ((liveLanes x).headD 0)).pc
        ∧ stRM (getLane x l).status = stRM (getLane x ((liveLanes x).headD 0)).status
        ∧ stTxr (getLane x l).status = stTxr (getLane x ((liveLanes x).headD 0)).status)
    ∧ bundleOf tCourse 1 = [1] := by
  (repeat' apply And.intro) <;> decide

/-! ### Register writes, interrupts, kills -/

/-- A core whose slot is selected for detail, with and without a context in it; a loss record that is frozen, that a write
freezes or clears, and that counts; a context under a replay log. -/
theorem witness_RegisterWritesTakeEffect :
    let s := tEv (.rotationBoundary 0)
    let sel (k : Nat) := tCore { bezel := { selected := some k } } (tEv (.bezelWrite 0 0 0))
    let rot (f : Option Bool) (c : Bool) (v : DWord) (seen : Nat) : State :=
      { tCore { sys := [(0x164, v)], bezel := { pendFrz := f, pendClr := c, seen } } s with now := 128 }
    let z (s : State) := (getCore s 0).bezel
    (getCore s 0).bezel.selected = none ∧ (getCore (sel 1) 0).bezel.selected = some 1 ∧ boundAt (sel 2) 0 2 = none
    ∧ boundAt (sel 1) 0 1 = some 1
    ∧ (z (rot (some true) true 0 0)).pendFrz = some true ∧ (z (rot none true 0 0)).pendClr = true
    ∧ (coreReg (rot none false 1 0) 0 0x164).getLsbD 0 = true ∧ (z (rot none false 1 0)).pendFrz = none
    ∧ (coreReg (rot none false 0 0) 0 0x164).getLsbD 0 = false ∧ coreKind 0 = .dcore
    ∧ rotsOver (rot none false 0 0) 0 = (z (rot none false 0 0)).seen + 1
    ∧ (getCtx s 1).alive = true ∧ onCore (getCtx s 1) 0 = true
    ∧ unitRegion (lcarve s 0) 0 = unitRegion (0x04108205 : DWord) 0 ∧ unitRegion (lcarve s 0) 6 ≠ unitRegion (0x04108205 : DWord) 6 := by
  (repeat' apply And.intro) <;> decide

/-- A core with and without a context in slot 0; PRECTL that names nobody and a context that is in its slot, held, and a
course; a strand whose queues are empty and are not; a resume with nothing caught, of a sleeper that was woken. -/
theorem witness_InterruptsAndPreemption :
    let s := tEv (.interruptEntry 0) tKeeper
    let g := tRegs []
    let held := modCtx g 1 fun x => { x with held := true }
    let busy := modCtx g 1 fun x => { x with lanes := x.lanes.map fun a => { a with queues := [(0, { inflight := 1 })] } }
    let zz := modCtx (tW (.sleep 0 5)) 1 fun x => { x with lanes := x.lanes.map fun a => { a with pendWake := true } }
    let num : DWord := 0x8000000
    boundAt s 0 0 = some 1 ∧ isStrand (getCtx s 1) = true ∧ 0 < (getCtx s 1).lanes.length ∧ boundAt g 0 0 = none
    ∧ preTarget g 0 2 = none ∧ preTarget g 0 1 = some 1 ∧ (getCtx g 1).mate = none ∧ (getCtx g 1).preempt = false
    ∧ (getCtx g 1).slot.isSome = true ∧ (getCtx g 1).held = false ∧ preTarget held 0 1 = some 1 ∧ (getCtx held 1).held = true
    ∧ preTarget tCourse 0 (setFld num 27 1 0 ||| 0x4000000) = some 1 ∧ isStrand (getCtx tCourse 1) = false
    ∧ queuesBusy (getCtx g 1) = false ∧ queuesBusy (getCtx busy 1) = true
    ∧ sleeps (getLane (applyEdits (getCtx zz 1)) 0) = true ∧ (getLane (applyEdits (getCtx zz 1)) 0).pendWake = true := by
  (repeat' apply And.intro) <;> decide

/-- Tag 0 and another; the three requests; a request that a package has met and one that it has not, with its core and its
notice, to kill or to clear; notices to nobody and to a node; an answer for nobody, with each ACTION, and for a parked strand. -/
theorem witness_KillsNoticesAndParkedFaults :
    let s := modCtx (tRegs []) 1 fun x => { x with task := 7 }
    let note : Notice := { core := 0, dst := 0x100, task := 7, vector := 30, reason := 0 }
    let k : KillReq := { pkg := 0, origin := 0, seq := 3, tag := 7, clear := false, core := some 0, note := some note }
    let f : TrapInfo := { vector := 4, reason := 1, addr := 0x5000 }
    let p := tW (.parked f)
    let m (act : Byte) : Msg := { tMsg with payload := leBytes 4 0 ++ leBytes 4 1 ++ [act] }
    (getCtx (tRegs []) 1).task = 0 ∧ (getCtx s 1).task = 7 ∧ (7 : BitVec 24) ≠ 0
    ∧ (0, 3) ∈ (getPkg { s with pkgs := [(0, { met := [(0, 3)] })] } 0).met ∧ (k.origin, k.seq) ∉ (getPkg s 0).met ∧ NoLaunch s
    ∧ k.note = some note ∧ k.core = some 0 ∧ k.clear = false ∧ ({ k with clear := true } : KillReq).clear = true
    ∧ (getCtx s 1).alive = true ∧ pkgOf (getCtx s 1).core = k.pkg ∧ note.dst ≠ 0xFFFFFFFF ∧ note.vector < 256
    ∧ parkedAt (tRegs []) 0 1 = none ∧ at_ (m 0).payload 4 4 = 1 ∧ parkedAt p 0 1 = some (1, 0, f) ∧ isStrand (getCtx p 1) = true
    ∧ at_ (m 0).payload 8 1 = 0 ∧ at_ (m 1).payload 8 1 = 1 ∧ 1 < at_ (m 2).payload 8 1 := by
  (repeat' apply And.intro) <;> first | exact noLaunch_nil rfl | decide
/-! ### Debug, the package, the fabric and the machine -/

/-- An event form whose event comes, of 94. -/
theorem witness_EveryEventCompletes : (tEv (.timerCompare 0)).ev = some (.timerCompare 0) := by decide

/-- DBGCTL that names nobody, a strand, a split course's lanes and a keeper; lanes that have stopped, that have not, and
whose queues have entries on their way; a core that selects nobody, an empty slot and a strand; a summary of a context in a
slot and of one in none; a trace buffer with 64 KiB to drain, with less, and without a host buffer. -/
theorem witness_DebugAndTraceEvents :
    let s := tRegs []
    let stop (f : Lane → Lane) := modCtx s 1 fun x => { x with lanes := x.lanes.map fun a => f { a with stopped := true } }
    let busy := modCtx (stop fun a => { a with queues := [(0, { inflight := 1 })] }) 1 fun x => { x with stopping := [([0], 7, 1)] }
    let out := modCtx s 1 fun x => { x with slot := none }
    let sel (v : DWord) (s : State) := tSys 0x150 v s
    let ring (drain : Option Nat) (head : DWord) : State := { s with dies := [(0, { drain, sys := [(0x1F2, 17), (0x1F3, head)] })] }
    dbgTarget s 0 2 = none ∧ dbgTarget s 0 1 = some 1 ∧ isKeeper (getCtx s 1) = false ∧ (Machine.halves s 1).Nodup
    ∧ isKeeper (getCtx tKeeper 1) = true
    ∧ settledLanes (getCtx s 1) = [] ∧ settledLanes (getCtx (stop id) 1) = [0] ∧ settledLanes (getCtx busy 1) = []
    ∧ (getCtx s 1).slot = some 1 ∧ (getCtx out 1).slot = none ∧ (getLane (getCtx s 1) 0).stopped = false
    ∧ lanesBusy (getCtx s 1) [0] = false ∧ lanesBusy (getCtx busy 1) [0] = true ∧ traceOn s (getCtx s 1).core = false
    ∧ bezelPick s 0 = none ∧ bezelPick (sel 0xC0010000 s) 0 = some 1 ∧ boundAt (sel 0xC0010000 s) 0 1 = some 1
    ∧ bezelPick (sel 0xC0020000 s) 0 = some 2 ∧ boundAt (sel 0xC0020000 s) 0 2 = none
    ∧ (getDie s 0).drain = none ∧ drainDue (ring (some 0) 65535) 0 = false ∧ drainDue (ring (some 0) 65536) 0 = true
    ∧ (getDie (ring (some 0) 65536) 0).drain = some 0 := by
  (repeat' apply And.intro) <;> decide

/-- A package at each stage, with images that were checked and that were not; an Eave core that nothing is bound to; a keeper
image; fuses that are left and that are not; a grant that fits and one that does not; units that a RASCTL value names, with the
spare core free and taken, and reports to the host. -/
theorem witness_PackageEventsProceed :
    let s (n : Nat) : State := { State.reset with pkgs := [(0, { regs := [(0, BitVec.ofNat 64 n)], checked := true, budget := 4200 })] }
    let fuses (n : Nat) : State := { State.reset with pkgs := [(0, { fuses := n })] }
    let im : KeeperImage := { core := 5, entry := 0x100, tvec := 0x4000, ttb := 0x1000, need := 32, priv := 0, base := 0, log2n := 0 }
    let spare : State := { State.reset with trusses := [(0, { spare := true })] }
    let report : State := { State.reset with dies := [(0, { sys := [(0x1F1, 0x80000000)] })] }
    stage State.reset 0 = 1 ∧ stage (s 2) 0 = 2 ∧ stage (s 3) 0 = 3 ∧ stage (s 4) 0 = 4 ∧ stage (s 5) 0 = 5 ∧ stage (s 6) 0 = 6
    ∧ (getPkg (s 3) 0).checked = true ∧ (getPkg State.reset 0).checked = false ∧ (4 : BitVec 3).toNat ≤ 4
    ∧ boundOn (s 4) (eaveOf 0 0) = [] ∧ pkgOf im.core = 0 ∧ engineKind im.core = .core .dcore ∧ (getCore (s 6) im.core).retired = false
    ∧ (getPkg { s 6 with pkgs := [(0, { regs := [(0, 6)], images := [im] })] } 0).images = [im]
    ∧ 256 ≤ (getPkg (fuses 256) 0).fuses ∧ (getPkg (fuses 255) 0).fuses < 256
    ∧ (granted_ State.reset 0 0 + 0 ≤ (getPkg State.reset 0).budget ∧ 0 ≤ Config.bayWatts 0 ∧ 0 < 65536) ∧ ¬ (70000 < 65536)
    ∧ (dieReg State.reset (unitDie (.core 5)) 0x1F1).getLsbD 31 = false ∧ (dieReg report (unitDie (.core 5)) 0x1F1).getLsbD 31 = true
    ∧ (unitBytes_ State.reset (.core 5)).isSome = true
    ∧ rasUnit State.reset 0 (0x50000000000 : DWord) = some (.core 5) ∧ rasUnit State.reset 1 (0x50000000000 : DWord) = none
    ∧ rasUnit State.reset 0 0x30004000000000 = some (.eave 12288) ∧ boundOn State.reset 12288 = []
    ∧ (getTruss spare (trussOf 5)).spare = true ∧ (getTruss State.reset (trussOf 5)).spare = false ∧ State.reset.flight = [] := by
  (repeat' apply And.intro) <;> first | exact Nat.zero_le _ | decide

/-- A slice whose node id is no engine's: RASCTL names one of its ways. -/
theorem witness_rasctl_way (h : validNode (Config.sliceNode 0 0).toNat = false) :
    ∃ v k w, rasUnit State.reset 0 v = some (.way 0 k w) := by
  have hn (w : Word) : fld (w.setWidth 64 <<< 32) 32 32 = w.toNat := by
    have e : (w.setWidth 64 <<< 32).extractLsb' 32 32 = w := by
      ext i hi
      have h3 : 32 + i < 64 := by omega
      simp [BitVec.getElem_extractLsb', hi, h3]
    unfold fld
    rw [e]
  have hs : (sliceOf 0 (Config.sliceNode 0 0).toNat).isSome = true := by
    unfold sliceOf
    rw [List.find?_isSome]
    exact ⟨0, by simp, by simp⟩
  obtain ⟨k, hk⟩ := Option.isSome_iff_exists.mp hs
  refine ⟨(Config.sliceNode 0 0).setWidth 64 <<< 32, k, fld ((Config.sliceNode 0 0).setWidth 64 <<< 32) 8 4, ?_⟩
  simp only [rasUnit, hn, h, hk]
  rfl

/-- Requests of a context that has ended, that the home refuses and that it performs; a package without links and with a route; rings of the host that are full, that have room and that are off. -/
theorem witness_FabricAndHostEventsProceed :
    let r : FabricReq := { src := 0, dst := 1, acc := tAcc (.load .w32) 0x100000005000 }
    let s := tEv (.fabricRequestArrival r)
    let z := tOpened s
    let ring (head : DWord) : State := { s with pkgs := [(0, { regs := [(0x48, 0x80000000), (0x50, head)] })] }
    let m : Msg := { tMsg with dst := hostProxyKey 0, src := 0 }
    let held : State := tCore { sendQ := [{ msg := m }] } (ring 63)
    (getCtx State.reset 1).alive = false ∧ (getCtx s 1).alive = true ∧ refusals s r ≠ [] ∧ refusals z r = []
    ∧ cacheAt z (laneCore (getCtx z 1) 0) 0 0x100000005000 = .nowhere ∧ targetOf 0x100000005000 ≠ .window
    ∧ s.flight = [] ∧ (tget {} (getPkg s 0).links 0 : Link).frames = [] ∧ linkTo z 0 1 = some 0 ∧ m.who = .nobody ∧ pkgOf m.dst = 0
    ∧ (pkgReg (ring 63) 0 0x48).getLsbD 31 = true ∧ (fld (pkgReg (ring 63) 0 0x50) 0 32 + 1) % 64 = fld (pkgReg (ring 63) 0 0x54) 0 32 % 64
    ∧ (fld (pkgReg (ring 62) 0 0x50) 0 32 + 1) % 64 ≠ fld (pkgReg (ring 62) 0 0x54) 0 32 % 64
    ∧ (∃ e ∈ (getCore held m.src).sendQ, e.msg = m) ∧ (pkgReg s 0 0x48).getLsbD 31 = false ∧ m.notice = false
    ∧ targetOf 0x5000 = .hbm ∧ targetOf (0x5000 + [1, 2].length - 1) = .hbm ∧ targetOf 0xC000000000 ≠ .hbm := by
  (repeat' apply And.intro) <;> decide

/-- A queue with two words, asked for more than it will have, for more than it has, and with a faulty head; a full one. -/
theorem witness_QueueOperandsGateTheirInstruction :
    let o (k : BitVec 3) : Opnds := { form := .k, reg := true, x := 4, y := 3, zq := true, wait := k }
    let xo : Opnds := { form := .k, reg := true, x := 0, y := 3, xq := true }
    let q (s : State) (n : Nat) := laneQ (curLane s 0) n
    OneLane (tFill 0 2 1) 0 ∧ execLanes (tFill 0 2 1) = [0] ∧ queueGate (o 1) (tFill 0 2 1) = .go
    ∧ (¬ (q (tFill 0 2 1) 0).fill + (q (tFill 0 2 1) 0).inflight < 3 ∧ (q (tFill 0 2 1) 0).fill < 3)
    ∧ (q (tFill 0 2 1) 0).fill + (q (tFill 0 2 1) 0).inflight < 4 ∧ OneLane (tFill 2 8 0) 0
    ∧ 8 - (q (tFill 2 8 0) 2).fill - (q (tFill 2 8 0) 2).inflight < 1 ∧ xo.xq = true
    ∧ OneLane (tQueue 1) 0 ∧ (qHead (q (tQueue 1) 0)).cause ≠ 0 ∧ ¬ (q (tQueue 1) 0).fill < 1 := by
  unfold OneLane; decide

/-- Destinations of each kind, and instructions that are well-formed. -/
theorem witness_ResultsWriteTheirDestinationAlone :
    (Instr.add { form := .k, x := 3, y := 7 }).sig.x = .r ∧ (Instr.adc { form := .k, x := 4, y := 2 }).sig.x = .p
    ∧ (Instr.movbToB { form := .k, x := 4, y := 4 }).sig.x = .b
    ∧ (Instr.add { form := .k, reg := true, x := 0, y := 4, zq := true, xq := true }).opnds.xq = true := by decide

theorem witness_EncodeThenDecode :
    (Instr.add { form := .k, x := 3, y := 7 }).wf .dcore = true
    ∧ (Instr.ld .w32 { form := .w, x := 4, y := 5, imm := 16, desc := { base := 2, scale := 2 } }).wf .lcore = true
    ∧ decode .eave [0x67, 0x0C] = .ok (.add { form := .k, x := 3, y := 7 }) := by decide

theorem witness_StepKeepsMemoryCanonical : State.reset.memOk ∧ (tNext (step State.reset)).isSome = true := by
  unfold State.memOk; decide

/-- A strand of D-core 0 that stands before ADD, in the rotation of its slot; an event that is due; a lane that goes on with
its instruction; a course of an L-core. -/
theorem witness_StepRunsTheDecodedInstruction :
    let s : State := { tRegs [] with mem := putBytes (loadTables []) 0 [0x67, 0x0C], now := 8 }
    let z : State := { s with free := 1 }
    let x := getCtx z 1
    let l : State := { modCtx s 1 fun x => { x with core := 512, kind := .gable } with now := 5, free := 1 }
    let goes : State := modCtx s 1 fun x => { x with lanes := x.lanes.map fun a => { a with wait := .woken 0, inst := some (.bar { form := .k }) } }
    let reads (s : State) (c : Nat) := match (fetchCur (asIssuer s c [0])).2 with | .ok i => some i | .error _ => none
    ({ s with due := [.timerCompare 0] } : State).due ≠ []
    ∧ TurnOf z 0 ∧ (match turn z 0 with | .run i _ => some i | _ => none) = some (.add { form := .k, x := 3, y := 7 })
    ∧ AtInstruction z 1 [0] ∧ reads z 1 = some (.add { form := .k, x := 3, y := 7 })
    ∧ reads { z with mem := loadTables [] } 1 = none
    ∧ before (getLane (getCtx goes 1) 0) = false ∧ (getLane (getCtx goes 1) 0).inst = some (.bar { form := .k })
    ∧ coreKind 0 ≠ .lcore ∧ boundAt z 0 (turnSlot z 0) = some 1 ∧ x.tables = none ∧ unitState z x (unitOf z x 0) = 1
    ∧ coreKind 512 = .lcore ∧ (lOrder l 512).filter (fun d => lState l d == 1) = [1]
    ∧ (match translate z 0 0x1000 (wordAt 0 0) .fetch false with
        | .ok (p, _, pa) => decide (fetchFail p pa = none ∧ heldWords z 0 pa = [] ∧ memBad z pa 2 = false)
        | .error _ => false) = true := by
  unfold TurnOf AtInstruction
  (repeat' apply And.intro) <;> first | decide | (intro l; match l with | 0 => rfl | n + 1 => rfl)

/-! ## Witnesses of the clauses on divergence, queues, marks, waits and packages -/

/-- A course half of which annuls a transfer: without a mark, with a mark that holds no lanes, and with one that does. -/
theorem witness_TransfersDiverge :
    let o : Opnds := { form := .k, imm := 8 }
    let s (ms : List Mark) : State := modCtx tHalf 1 fun x => { x with marks := ms }
    let dest (l : Nat) : DWord := if l ∈ execLanes tHalf then jTarget (.br o) tHalf else nextPc (.br o) tHalf
    (∀ l ∈ execLanes tHalf, breaksR10 (ctxForm (curCtx tHalf)) (jTarget (.br o) tHalf) = false)
    ∧ ((curCtx tHalf).split || isStrand (curCtx tHalf)) = false
    ∧ tHalf.cur.lanes.filter (fun l => dest l != dest 0) = [4, 5, 6, 7] ∧ (∀ l ∈ [4, 5, 6, 7], ∀ k ∈ [4, 5, 6, 7], dest l = dest k)
    ∧ (curCtx (s [])).marks = [] ∧ (curCtx (s [{ rj := 8, mask := 0xFF }])).marks = [{ rj := 8, mask := 0xFF }]
    ∧ ((curCtx (s [{ rj := 8, mask := 0xFF, dmask := 1 }])).marks.headD { rj := 0, mask := 0 }).dmask ≠ 0 := by decide

/-- LDQ to a full queue; STQ from an empty one; QADV that can never have its entries, and one that waits for those that are
on their way. -/
theorem witness_QueueInstructionsFault :
    (execLanes (tFill 0 8 0)).filter (fun l => qFree (laneQ (curLane (tFill 0 8 0) l) 0) = 0) = [0]
    ∧ (execLanes (tFill 2 0 0)).filter (fun l => (laneQ (curLane (tFill 2 0 0) l) 2).fill = 0) = [0]
    ∧ (let w := laneQ (curLane (tFill 1 2 1) 0) 1
       w.fill + w.inflight < (3 : BitVec 3).toNat + 1 ∧ ¬ w.fill + w.inflight < (2 : BitVec 3).toNat + 1
         ∧ w.fill < (2 : BitVec 3).toNat + 1)
    ∧ (let w := laneQ (curLane (tFill 3 6 1) 0) 3
       qFree w + w.inflight < (2 : BitVec 3).toNat + 1 ∧ ¬ qFree w + w.inflight < (1 : BitVec 3).toNat + 1
         ∧ qFree w < (1 : BitVec 3).toNat + 1) := by decide

/-- A split lane at the full and at the least depth; a label that breaks R10; a course half of which annuls. -/
theorem witness_MarksThatTrapOrSplit :
    let o : Opnds := { form := .k, imm := 16 }
    let far : Opnds := { form := .k, imm := 0x00FFFFFFFFFFFFFF }
    (execLanes (tDepth 255)).filter (fun l => (curLane (tDepth 255) l).depth == 255) = [3]
    ∧ breaksR10 (ctxForm (curCtx (tDepth 255))) (jTarget (.mark o) (tDepth 255)) = false
    ∧ (execLanes (tDepth 0)).filter (fun l => (curLane (tDepth 0) l).depth == 0) = [3]
    ∧ breaksR10 (ctxForm (curCtx (tRegs []))) (jTarget (.mark far) (tRegs [])) = true
    ∧ isStrand (curCtx tHalf) = false ∧ (curCtx tHalf).split = false ∧ (execLanes tHalf).length ≠ tHalf.cur.lanes.length
    ∧ breaksR10 (ctxForm (curCtx tHalf)) (jTarget (.mark o) tHalf) = false := by decide

/-- A split course that names its own set and one that names another; a whole course that reaches BAR with all its lanes,
with accesses out, and without some; one that was released after a re-fusion; a strand, and a split lane under a mark. -/
theorem witness_CoursesReachBarAndClasp :
    let o : Opnds := { form := .k }
    let part : State := { tCourse with cur := { ctx := 1, lanes := [0, 1] } }
    isStrand (curCtx tSplit) = false ∧ (curCtx tSplit).split = true ∧ (curCtx tSplit).core = trussOf (curCore tSplit 3) * 64
    ∧ (curCtx tSplit).lanes.length = 8 ∧ (curCtx tSplit).core ≠ trussOf (curCore tSplit 3) * 64 + 8
    ∧ muted tCourse = false ∧ (curLane tCourse 0).wait = .none ∧ (curCtx tCourse).mate = none
    ∧ maskOf tCourse.cur.lanes = maskOf (liveLanes (curCtx tCourse)) ∧ maskOf part.cur.lanes ≠ maskOf (liveLanes (curCtx part))
    ∧ accessesOut tCourse 1 (liveLanes (curCtx tCourse)) .bay = false
    ∧ accessesOut (tLoading tCourse) 1 (liveLanes (curCtx tCourse)) .bay = true ∧ queuesBusy (curCtx tCourse) = false
    ∧ (curLane (tWaits (.woken 1) tCourse) 0).wait = .woken 1 ∧ isStrand (curCtx (tRegs [])) = true
    ∧ (execLanes (tDepth 2)).filter (fun k => (curLane (tDepth 2) k).depth != 0) = [3] ∧ o.form = .k := by decide

/-- SPAWN that names a descriptor, which an entry of the journal covers, or not, with nothing on its way. -/
theorem witness_SpawnReadsItsDescriptor :
    let s := tRegs []
    let held := tCore { journal := [{ id := 0, ctx := 1, lane := 0, idx := 0, op := .store .w32, va := 0x5000, pa := 0x5040, data := 0,
                                      bytes := [], task := 0, parent := 0 }] } s
    (0x5001 : DWord).getLsbD 0 = true ∧ (spawnTarget s (pkgOf 0) false 0).isSome = true ∧ descWaits s 0 0x5000 = false
    ∧ descWaits held 0 0x5000 = true ∧ s.flight = [] ∧ forceStores s 0 = s := by decide

/-- A message of a dead task and of a living one, and of no task; a write of the host to a window of BAR0. -/
theorem witness_MessagesOfTasks :
    let m : Msg := { tMsg with task := 5 }
    let dead : State := { tCls 0 with pkgs := [(0, { deadTags := [5] })] }
    m.task ≠ 0 ∧ tagDead dead m.src m.task = true ∧ tagDead (tCls 0) m.src m.task = false ∧ tagDead (tCls 0) m.dst m.task = false
    ∧ tMsg.task = 0 ∧ (Ev.bar0Write 0 0 (List.replicate 64 0)).kind = .windowWrite
    ∧ (0xF0000000000 : Nat) = 0 * 0x100000000000 + 0xF0000000000 + 0 := by decide

/-- A course that a unit has just moved to its point, and one that it has not; a course that its fairness displaces while it
is split. -/
theorem witness_CoursesThatStay :
    let gone : State := modCtx tSplit 1 fun x => { x with displace := 1 }
    (curCtx (tPoint fun x => { x with migHere := some 0 })).migHere = some (curPc tPoint) ∧ (curCtx tPoint).migHere ≠ some (curPc tPoint)
    ∧ (curCtx gone).kind = .course ∧ (curCtx gone).split = true ∧ (curCtx gone).displace = 1 ∧ queuesBusy (curCtx gone) = false := by
  decide

/-- A relaxed load whose value was taken earlier; a load of a queue that the fabric has lost; the words of an FPUT of which
some are left; a fill that the log of a re-executed strand holds. -/
theorem witness_AccessesWithValues :
    let a : Access := { tAcc (.load .w32) with vals := some [(0, 7)] }
    let s := tEv (.relaxedStorePerform (tPost (.store .w32) (List.replicate 16 1)))
    let p := tPost (.store .w32) (List.replicate 16 1)
    a.vals = some [(0, 7)] ∧ a.entry = none ∧ (tAcc (.load .w32)).vals = none ∧ ({ tQop 0 with lost := true } : QueueOp).lost = true
    ∧ wordsLeft p.bytes p.left = [0, 1] ∧ wordsLeft p.bytes (some [1]) = [1]
    ∧ (∀ k ∈ wordsLeft p.bytes p.left, 8 * k + 8 ≤ p.bytes.length) ∧ fillReplayed s (tQop 0) = false
    ∧ ({ id := 0, ctx := 1, lane := 0, idx := 0, op := .store .w32, va := 0, pa := 0, data := 0, bytes := [], task := 0, parent := 0,
         left := some [1] } : JEntry).left.isSome = true := by decide

/-- A SPIN whose line is written and one whose line is not; an exit without a rival; a whole and a split course that may
re-fuse at a CLASP and at a BAR; courses that have arrived at it, of each kind. -/
theorem witness_WaitsThatEnd :
    let o : Opnds := { form := .k, x := 4 }
    let at_ (w : Wait) : State := modCtx tSplit 1 fun x => { x with lanes := x.lanes.map fun a => { a with wait := w, inst := some (.clasp 0 o) } }
    let alike (s : State) := let x := getCtx s 1
      ∀ l ∈ liveLanes x, (getLane x l).wait = (getLane x 0).wait ∧ (getLane x l).pc = (getLane x 0).pc
        ∧ stRM (getLane x l).status = stRM (getLane x 0).status ∧ stTxr (getLane x l).status = stTxr (getLane x 0).status
    [1].contains 1 = true ∧ [1].contains 2 = false ∧ quitRival (tRegs []) 1 = false
    ∧ pairBroken (at_ (.clasp 0 8)) (getCtx (at_ (.clasp 0 8)) 1) = false ∧ alike (at_ (.clasp 0 8)) ∧ alike (at_ .bar)
    ∧ (liveLanes (getCtx (at_ .bar) 1)).headD 0 = 0 ∧ (getLane (getCtx (at_ .bar) 1) 0).wait = .bar
    ∧ (getLane (getCtx (at_ (.clasp 0 8)) 1) 0).inst = some (.clasp 0 o) ∧ o.xq = false
    ∧ (∀ l ∈ liveLanes (getCtx (at_ .bar) 1), (getLane (getCtx (at_ .bar) 1) l).depth = 0)
    ∧ (getLane (getCtx (tWaits (.arrived true) tCourse) 1) 0).wait = .arrived true := by decide

/-- Courses that reached step 3 of QUIT in one cycle, the exit queue nearly full: the higher-numbered waits. -/
theorem witness_quit_rival :
    let two (s : State) : State := { s with ctxs := s.ctxs.map (fun e => (e.1, { e.2 with num := 3 }))
      ++ [(2, { alive := true, kind := .course, core := 8, slot := some 1, num := 1, lanes := [tLane []] })] }
    let s := two (tCore { exitQ := List.replicate 29 tExit, exitWait := [(1, 0)] } tCourse)
    quitRival s 1 = true := by decide

/-- An L-core class that SETS enables; a strand that waits in SPIN and one that holds at QUIT; a course that sleeps, held. -/
theorem witness_WritesAndPreemptedWaits :
    let held := modCtx (tWaits (.sleep 0 5) tCourse) 1 fun x =>
      { x with held := true, lanes := x.lanes.map fun a => { a with pendWake := true } }
    coreKind 512 = .lcore ∧ setsRecords (mcls (tRegs []) 512 2) (mcApply (mcls (tRegs []) 512 2) 0x80001000) = true
    ∧ (getLane (getCtx (tW (.spin [1])) 1) 0).wait = .spin [1] ∧ (getLane (getCtx (tW (.quit 0)) 1) 0).wait = .quit 0
    ∧ (getCtx held 1).kind = .course ∧ (getCtx held 1).held = true ∧ (∀ l ∈ allLanes (getCtx held 1), sleeps (getLane (getCtx held 1) l) = true
        ∧ (getLane (getCtx held 1) l).pendWake = true) := by decide

/-- A package with a link to another that the kill did not start in; the wiring is open (log 64). -/
theorem witness_kill_forwarded (p j : Nat) (h : Config.wire 0 0 = some (p, j)) (hp : p ≠ 0) :
    let k : KillReq := { pkg := 0, origin := 0, seq := 3, tag := 7, clear := false, core := some 0, note := none }
    (0 : Nat) < 16 ∧ Config.wire k.pkg 0 = some (p, j) ∧ p ≠ k.origin
      ∧ (tget {} (getPkg (tRegs []) k.pkg).links 0 : Link).failed = false := by
  exact ⟨by decide, h, hp, by decide⟩

/-- A flit with its own CRC and one with another; in and out of order; a unit of it on its link, and one that is not. -/
theorem witness_flits :
    let f := mkFlit 0 4095 0 [{ vc := 0, unit := 5 }]
    crcOk f = true ∧ crcOk { f with crc := f.crc + 1 } = false ∧ f.seq = (tget {} (getPkg (tRegs []) 0).links 0 : Link).recv
      ∧ (mkFlit 1 4095 0 []).seq ≠ (tget {} (getPkg (tRegs []) 0).links 0 : Link).recv ∧ f.slots = [{ vc := 0, unit := 5 }] := by
  refine ⟨by simp [crcOk, mkFlit], ?_, rfl, by decide, rfl⟩
  have h : ∀ x : BitVec 64, (x + 1 == x) = false := by intro x; simp
  simp [crcOk, mkFlit]

/-- Requests of an FGET sector whose context has ended; a request that stands before a link; a route with a unit of it
waiting and with none; reads of the host in memory, of a window and of a register; writes of one byte. -/
theorem witness_FabricUnitsAndHostAccesses :
    let r : FabricReq := { src := 0, dst := 1, acc := tAcc (.load .w32) 0x100000005000 }
    let sector : Access := { tAcc .sector with entry := some (.copyE 0, 0) }
    let z : State := { tOpened (tRegs []) with flight := [.fabricRequestArrival r] }
    sector.entry.isSome = true ∧ sector.op = .sector ∧ r.acc.op ≠ .sector ∧ z.journeys = []
    ∧ legs z (.fabricRequestArrival r) = [(0, 1)] ∧ linkTo z 0 1 = some 0 ∧ r.acc.lanes.length = 1
    ∧ z.flight.any (queuedFor z 0 1) = true ∧ (tRegs []).flight.any (queuedFor (tRegs []) 0 1) = false
    ∧ targetOf 0x5000 = .hbm ∧ targetOf (0x5000 + 8 - 1) = .hbm ∧ regOf (8 * 8) = 8 * 8 ∧ regOf (8 * 8 + 4) = 8 * 8
    ∧ (0x3FFFFF < 0x400000 ∧ 0x400000 ≤ 0x400041) ∧ regOf (0x400041 - 0x400000) = 0x40 := by decide

/-- A package whose boot finds its stage; images that are none. -/
theorem witness_boot : stage State.reset 0 = 1 ∧ imagesSigned 0 [] = true := by decide

/-- A QUIT, a REAP by force and a SPAWN with queue operands, once their own checks are passed. -/
theorem witness_QueuesNext :
    let o : Opnds := { form := .k, reg := true, y := 1, z := 0, zq := true }
    let p := tPriv (tRegs [])
    (Instr.quit o).sig.zqOk = true ∧ QueuesNext (.quit o) (tRegs []) ∧ (Instr.reapForce o).sig.zqOk = true ∧ QueuesNext (.reapForce o) p
    ∧ (Instr.clasp 0 { form := .k, xq := true }).sig.xqOk = true ∧ QueuesNext (.mbind 2 o) (tRegs []) ∧ QueuesNext (.gdone o) (tRegs [])
    ∧ QueuesNext (.spawnCtx { form := .k, reg := true, xq := true, y := 1, z := 2 }) (tRegs [])
    ∧ QueuesNext (.yldCc { form := .k, imm := 8 }) (tRegs []) := by
  unfold QueuesNext
  (repeat' apply And.intro) <;> first
    | decide
    | exact Or.inl (by decide)
    | (intro l hl
       have h : execLanes (tRegs []) = [0] := by decide
       have e : l = 0 := by simpa [h] using hl
       subst e
       refine ⟨by decide, ?_⟩
       intro f
       cases f <;> decide)

/-- An event that is due and crosses packages, and one that does not; a fetch from another package that refuses it. -/
theorem witness_StepSendsAndFetches :
    let r : FabricReq := { src := 0, dst := 1, acc := tAcc (.load .w32) 0x100000005000 }
    let s := tRegs []
    legs s (.fabricRequestArrival r) ≠ [] ∧ legs s (.timerCompare 0) = [] ∧ accPasses s (pkgOf 0) 0 0x5000 2 .fetch = true
    ∧ accPasses s (pkgOf 0) 0 0x100000005000 2 .fetch = false := by decide
end Sys2Proof.Tests
end

section
/-! SUPPORT. The integer functions of the model as numbers and as bits (R96 to R105). -/

namespace Sys2Proof.Machine

open Sys2Proof

/-! ## Numbers and lists -/

/-- Two numbers that agree modulo 2^n have the same n bits. -/
theorem ofInt_emod_two_pow (n : Nat) (v : Int) : BitVec.ofInt n (v % 2 ^ n) = BitVec.ofInt n v := by
  apply BitVec.eq_of_toNat_eq
  simp

theorem toInt_eq_zero_iff (n : Nat) (b : BitVec n) : b.toInt = 0 ↔ b = 0 := by
  rw [← BitVec.toInt_inj]; simp

theorem toNat_eq_zero_iff (n : Nat) (b : BitVec n) : b.toNat = 0 ↔ b = 0 := by
  rw [← BitVec.toNat_inj]; simp

theorem allOnes_eq_ofNat (n : Nat) : BitVec.allOnes n = BitVec.ofNat n (2 ^ n - 1) := by
  apply BitVec.eq_of_toNat_eq
  simp

theorem ofNat_mod_word (t : Nat) : BitVec.ofNat 32 (t % 0x100000000) = BitVec.ofNat 32 t := by
  apply BitVec.eq_of_toNat_eq; simp

theorem toNat_low5 (n : Nat) (v : BitVec n) : (v.extractLsb' 0 5).toNat = v.toNat % 32 := by
  simp [BitVec.extractLsb'_toNat]

theorem mapIdx_eq_map {α β : Type} (ls : List α) (f : α → β) : ls.mapIdx (fun _ a => f a) = ls.map f :=
  List.ext_getElem (by simp) (by simp)

/-! ## Values of R96 to R98: sums and logic -/

/-- Clamping keeps a number between the least and the greatest of a width. -/
theorem clampSigned_eq_min_max (n : Nat) (v : Int) :
    clampSigned n v = min (max v (-2 ^ (n - 1))) (2 ^ (n - 1) - 1) := by
  have h : (0 : Int) < 2 ^ (n - 1) := by positivity
  unfold clampSigned
  split
  · omega
  · split <;> omega

/-- The smaller or the larger of two signed readings. -/
theorem pick_signed (larger : Bool) (n : Nat) (a b : BitVec n) :
    pick true larger n a b = BitVec.ofInt n (if larger then max a.toInt b.toInt else min a.toInt b.toInt) := by
  cases larger
  · simp [pick, BitVec.slt_eq_decide, min_def_lt, apply_ite (BitVec.ofInt n)]
  · simp [pick, BitVec.slt_eq_decide, max_comm a.toInt, max_def, apply_ite (BitVec.ofInt n)]

/-- The smaller or the larger of two natural readings. -/
theorem pick_natural (larger : Bool) (n : Nat) (a b : BitVec n) :
    pick false larger n a b = BitVec.ofNat n (if larger then max a.toNat b.toNat else min a.toNat b.toNat) := by
  cases larger
  · simp [pick, BitVec.ult_eq_decide, min_def_lt, apply_ite (BitVec.ofNat n)]
  · simp [pick, BitVec.ult_eq_decide, max_comm a.toNat, max_def, apply_ite (BitVec.ofNat n)]

theorem add_eq_ofNat (a b : Word) : a + b = BitVec.ofNat 32 ((a.toNat + b.toNat) % 0x100000000) := by
  apply BitVec.eq_of_toNat_eq
  simp

theorem negate_eq_ofInt (n : Nat) (b : BitVec n) : 0 - b = BitVec.ofInt n (0 - b.toInt) := by
  simp [BitVec.ofInt_neg]

/-- The negation where the sign bit is set is the absolute value; that of the least number is again that number. -/
theorem negateIfNegative_eq_abs (n : Nat) (b : BitVec n) : (if b.msb then 0 - b else b) = BitVec.ofInt n |b.toInt| := by
  by_cases h : b.toInt < 0
  · simp [BitVec.msb_eq_toInt, h, abs_of_neg h, BitVec.ofInt_neg]
  · simp [BitVec.msb_eq_toInt, h, abs_of_nonneg (not_lt.mp h)]

/-! ## Values of R99 and R100: products and quotients -/

theorem mul_eq_ofNat (n : Nat) (a b : BitVec n) : a * b = BitVec.ofNat n (a.toNat * b.toNat % 2 ^ n) := by
  apply BitVec.eq_of_toNat_eq
  simp

theorem mulHi_signed (n : Nat) (a b : BitVec n) :
    mulHi true n a b = BitVec.ofInt n (a.toInt * b.toInt / 2 ^ n % 2 ^ n) := (ofInt_emod_two_pow ..).symm

/-- The quotient that overflows wraps round to the least number. -/
theorem ofInt_tdiv_overflow {n : Nat} (hn : 0 < n) :
    BitVec.ofInt n ((-2 ^ (n - 1) : Int).tdiv (-1)) = BitVec.ofInt n (-2 ^ (n - 1)) := by
  obtain ⟨m, rfl⟩ : ∃ m, n = m + 1 := ⟨n - 1, by omega⟩
  rw [← ofInt_emod_two_pow, ← ofInt_emod_two_pow (v := -2 ^ (m + 1 - 1))]
  congr 1
  have e : (-2 ^ m : Int).tdiv (-1) = -2 ^ m + 2 ^ (m + 1) := by
    rw [Int.tdiv_neg, Int.tdiv_one]; ring
  simp only [Nat.add_sub_cancel, e, Int.add_emod_right]

/-- The signed quotient of R100, with its two corners. -/
theorem divQ_signed {n : Nat} (hn : 0 < n) (a b : BitVec n) :
    divQ true n a b = if b.toInt = 0 then BitVec.ofNat n (2 ^ n - 1)
      else if a.toInt = -2 ^ (n - 1) ∧ b.toInt = -1 then BitVec.ofInt n (-2 ^ (n - 1))
      else BitVec.ofInt n (a.toInt.tdiv b.toInt) := by
  simp only [divQ, toInt_eq_zero_iff, allOnes_eq_ofNat, if_true]
  split
  · rfl
  · split
    · next h => rw [h.1, h.2, ofInt_tdiv_overflow hn]
    · rfl

/-- The signed remainder of R100, with its two corners. -/
theorem divR_signed (n : Nat) (a b : BitVec n) :
    divR true n a b = if b.toInt = 0 then a
      else if a.toInt = -2 ^ (n - 1) ∧ b.toInt = -1 then 0
      else BitVec.ofInt n (a.toInt - a.toInt.tdiv b.toInt * b.toInt) := by
  simp only [divR, toInt_eq_zero_iff, if_true]
  split
  · rfl
  · split
    · next h => simp [h.2, Int.tmod_neg]
    · rw [Int.tmod_def, mul_comm]

theorem divQ_natural (n : Nat) (a b : BitVec n) :
    divQ false n a b = if b.toNat = 0 then BitVec.ofNat n (2 ^ n - 1) else BitVec.ofNat n (a.toNat / b.toNat) := by
  simp [divQ, toNat_eq_zero_iff, allOnes_eq_ofNat, BitVec.udiv_def]

theorem divR_natural (n : Nat) (a b : BitVec n) :
    divR false n a b
      = if b.toNat = 0 then a else BitVec.ofNat n (a.toNat - a.toNat / b.toNat * b.toNat) := by
  simp [divR, toNat_eq_zero_iff, BitVec.umod_def, ← Nat.mod_eq_sub_div_mul]

/-! ## Values of R101: shifts and rotates -/

theorem setWidth_shiftLeft (v : Word) (n : Nat) :
    (v <<< n).setWidth 64 = BitVec.ofNat 64 (v.toNat * 2 ^ n % 0x100000000) := by
  rw [← BitVec.ofNat_toNat, BitVec.toNat_shiftLeft, Nat.shiftLeft_eq]

theorem setWidth_ushiftRight (v : Word) (n : Nat) : (v >>> n).setWidth 64 = BitVec.ofNat 64 (v.toNat / 2 ^ n) := by
  rw [← BitVec.ofNat_toNat, BitVec.toNat_ushiftRight, Nat.shiftRight_eq_div_pow]

theorem setWidth_sshiftRight (v : Word) (n : Nat) :
    (v.sshiftRight n).setWidth 64 = (BitVec.ofInt 32 (v.toInt / 2 ^ n)).setWidth 64 := by
  rw [BitVec.sshiftRight, Int.shiftRight_eq_div_pow]; norm_cast

theorem setWidth_rotL (v : Word) (n : Nat) :
    (rotL v n).setWidth 64 = BitVec.ofNat 64 ((v.toNat * 2 ^ n % 0x100000000) ||| (v.toNat / 2 ^ (32 - n))) := by
  rw [← BitVec.ofNat_toNat, rotL, BitVec.toNat_or, BitVec.toNat_shiftLeft, BitVec.toNat_ushiftRight, Nat.shiftLeft_eq,
    Nat.shiftRight_eq_div_pow]

theorem setWidth_rotR (v : Word) (n : Nat) :
    (rotR v n).setWidth 64 = BitVec.ofNat 64 ((v.toNat / 2 ^ n) ||| (v.toNat * 2 ^ (32 - n) % 0x100000000)) := by
  rw [← BitVec.ofNat_toNat, rotR, BitVec.toNat_or, BitVec.toNat_shiftLeft, BitVec.toNat_ushiftRight, Nat.shiftLeft_eq,
    Nat.shiftRight_eq_div_pow]

/-! ## Values of R102: bit counts and reversals -/

theorem leadZeros_le (v : DWord) (n : Nat) : leadZeros v n ≤ n := by
  induction n with
  | zero => simp [leadZeros]
  | succ n ih => simp only [leadZeros]; split <;> omega

/-- Every bit above the highest 1 bit is 0. -/
theorem getLsbD_above_leadZeros (v : DWord) (n j : Nat) (h : j < leadZeros v n) : v.getLsbD (n - 1 - j) = false := by
  induction n generalizing j with
  | zero => simp [leadZeros] at h
  | succ n ih =>
    simp only [leadZeros] at h
    split at h
    · omega
    · next hv =>
      cases j with
      | zero => simpa using hv
      | succ j => simpa [Nat.sub_sub, Nat.add_comm] using ih j (by omega)

/-- The bit that ends the count of leading zeros is 1. -/
theorem getLsbD_at_leadZeros (v : DWord) (n : Nat) (h : leadZeros v n < n) :
    v.getLsbD (n - 1 - leadZeros v n) = true := by
  induction n with
  | zero => omega
  | succ n ih =>
    simp only [leadZeros] at h ⊢
    split
    · next hv => simpa using hv
    · next hv =>
      rw [if_neg hv] at h
      simpa [Nat.sub_sub, Nat.add_comm] using ih (by omega)

theorem trailZeros_le (v : DWord) (i n : Nat) : trailZeros v i n ≤ n := by
  induction n generalizing i with
  | zero => simp [trailZeros]
  | succ n ih =>
    simp only [trailZeros]
    have := ih (i + 1)
    split <;> omega

/-- Every bit below the lowest 1 bit is 0. -/
theorem getLsbD_below_trailZeros (v : DWord) (i n j : Nat) (h : j < trailZeros v i n) : v.getLsbD (i + j) = false := by
  induction n generalizing i j with
  | zero => simp [trailZeros] at h
  | succ n ih =>
    simp only [trailZeros] at h
    split at h
    · omega
    · next hv =>
      cases j with
      | zero => simpa using hv
      | succ j => rw [show i + (j + 1) = i + 1 + j by omega]; exact ih (i + 1) j (by omega)

/-- The bit that ends the count of trailing zeros is 1. -/
theorem getLsbD_at_trailZeros (v : DWord) (i n : Nat) (h : trailZeros v i n < n) :
    v.getLsbD (i + trailZeros v i n) = true := by
  induction n generalizing i with
  | zero => omega
  | succ n ih =>
    simp only [trailZeros] at h ⊢
    split
    · next hv => simpa using hv
    · next hv =>
      rw [if_neg hv] at h
      simpa [Nat.add_assoc, Nat.add_comm] using ih (i + 1) (by omega)

theorem popCount_eq_countP (v : DWord) (n : Nat) : popCount v n = (List.range n).countP fun j => v.getLsbD j := by
  induction n with
  | zero => rfl
  | succ n ih => simp [popCount, List.range_succ, ih, List.countP_singleton, Nat.add_comm]

/-- Bit j of the n bits reversed is bit n-1-j of them. -/
theorem getLsbD_revBits (v : DWord) (n j : Nat) (hn : n ≤ 64) :
    (revBits v n).getLsbD j = (decide (j < n) && v.getLsbD (n - 1 - j)) := by
  induction n generalizing j with
  | zero => simp [revBits]
  | succ n ih =>
    have hlow : (if v.getLsbD n then 1 else 0 : DWord).getLsbD j = (decide (j = 0) && v.getLsbD n) := by
      cases v.getLsbD n <;> simp [BitVec.getLsbD_one]
    rw [revBits, BitVec.getLsbD_or, hlow, BitVec.getLsbD_shiftLeft]
    cases j with
    | zero => simp
    | succ j =>
      have e : n + 1 - 1 - (j + 1) = n - 1 - j := by omega
      rw [Nat.add_sub_cancel, ih j (by omega), e]
      by_cases hj : j < n
      · have : j + 1 < 64 := by omega
        simp [hj, this]
      · simp [hj]

/-- Byte k of the n bytes reversed is byte n-1-k of them. -/
theorem getLsbD_revBytes (v : DWord) (n k j : Nat) (hn : n ≤ 8) (hj : j < 8) :
    (revBytes v n).getLsbD (8 * k + j) = (decide (k < n) && v.getLsbD (8 * (n - 1 - k) + j)) := by
  induction n generalizing k with
  | zero => simp [revBytes]
  | succ n ih =>
    have hlow : ((v >>> (8 * n)) &&& 0xFF).getLsbD (8 * k + j) = (decide (k = 0) && v.getLsbD (8 * n + j)) := by
      have hmask : (0xFF : DWord).getLsbD (8 * k + j) = decide (k = 0) := by
        rw [show (0xFF : DWord) = BitVec.ofNat 64 (2 ^ 8 - 1) from rfl, BitVec.getLsbD_ofNat, Nat.testBit_two_pow_sub_one]
        by_cases hk : k = 0
        · have : j < 64 := by omega
          simp [hk, hj, this]
        · have : ¬ 8 * k + j < 8 := by omega
          simp [hk, this]
      rw [BitVec.getLsbD_and, hmask, BitVec.getLsbD_ushiftRight]
      by_cases hk : k = 0 <;> simp [hk]
    rw [revBytes, BitVec.getLsbD_or, hlow, BitVec.getLsbD_shiftLeft]
    cases k with
    | zero => simp [hj]
    | succ k =>
      have e1 : 8 * (k + 1) + j - 8 = 8 * k + j := by omega
      have e2 : ¬ 8 * (k + 1) + j < 8 := by omega
      have e3 : n + 1 - 1 - (k + 1) = n - 1 - k := by omega
      rw [e1, ih k (by omega), e3]
      by_cases hk : k < n
      · have : 8 * (k + 1) + j < 64 := by omega
        simp [hk, e2, this]
      · simp [hk]

theorem widthBits_le (w : Width) : widthBits w ≤ 64 := by cases w <;> decide

theorem widthBits_bytes (w : Width) : widthBits w / 8 ≤ 8 := by cases w <;> decide

/-! ## Values of R103 and R105: bit fields and one bit -/

theorem getLsbD_lowMask {f : Nat} (hf : f ≤ 32) (k : Nat) : (lowMask f).getLsbD k = decide (k < f) := by
  rw [lowMask, BitVec.getLsbD_ofNat, Nat.testBit_two_pow_sub_one]
  by_cases h : k < f
  · have : k < 32 := by omega
    simp [h, this]
  · simp [h]

theorem fieldPos_eq (o : Opnds) : fieldPos o = o.imm.toNat % 32 := by
  simp [fieldPos, BitVec.extractLsb'_toNat]

theorem fieldLen_eq (o : Opnds) :
    fieldLen o = min (o.imm.toNat / 32 % 32 + 1) (32 - o.imm.toNat % 32) := by
  simp [fieldLen, fieldPos_eq, BitVec.extractLsb'_toNat, Nat.shiftRight_eq_div_pow]

/-- A field has at least one bit, and ends within the word. -/
theorem fieldLen_bounds (o : Opnds) : 1 ≤ fieldLen o ∧ fieldPos o + fieldLen o ≤ 32 := by
  rw [fieldLen_eq, fieldPos_eq]; omega

/-- The field itself: its bits from bit 0 on, and 0 above. -/
theorem getLsbD_field (o : Opnds) (v : Word) (k : Nat) :
    ((v >>> fieldPos o) &&& lowMask (fieldLen o)).getLsbD k = (decide (k < fieldLen o) && v.getLsbD (fieldPos o + k)) := by
  have hf : fieldLen o ≤ 32 := by have := fieldLen_bounds o; omega
  rw [BitVec.getLsbD_and, getLsbD_lowMask hf, BitVec.getLsbD_ushiftRight, Bool.and_comm]

theorem getLsbD_bitField_natural (o : Opnds) (v : Word) (k : Nat) :
    (bitField false o v).getLsbD k = (decide (k < fieldLen o) && v.getLsbD (fieldPos o + k)) := by
  rw [← getLsbD_field]; rfl

/-- The signed field repeats its highest bit above it. -/
theorem getLsbD_bitField_signed (o : Opnds) (v : Word) {k : Nat} (hk : k < 32) :
    (bitField true o v).getLsbD k = v.getLsbD (fieldPos o + min k (fieldLen o - 1)) := by
  obtain ⟨h1, h2⟩ := fieldLen_bounds o
  have htop : fieldLen o - 1 < fieldLen o := by omega
  have hmask := getLsbD_lowMask (show fieldLen o ≤ 32 by omega) k
  simp only [bitField, Bool.true_and, getLsbD_field, htop, decide_true]
  by_cases hin : k < fieldLen o
  · rw [min_eq_left (by omega)]
    split
    · rw [BitVec.getLsbD_or, BitVec.getLsbD_not, getLsbD_field, hmask]; simp [hin]
    · rw [getLsbD_field]; simp [hin]
  · rw [min_eq_right (by omega)]
    split
    · next h => rw [BitVec.getLsbD_or, BitVec.getLsbD_not, getLsbD_field, hmask]; simp [hin, hk, h]
    · next h => rw [getLsbD_field]; simp [hin, h]

/-- The insertion replaces the bits of the field alone. -/
theorem getLsbD_bitInsert (o : Opnds) (x v : Word) (k : Nat) :
    (bitInsert o x v).getLsbD k
      = if fieldPos o ≤ k ∧ k < fieldPos o + fieldLen o then v.getLsbD (k - fieldPos o) else x.getLsbD k := by
  obtain ⟨h1, h2⟩ := fieldLen_bounds o
  have hmask : (lowMask (fieldLen o) <<< fieldPos o).getLsbD k
      = decide (fieldPos o ≤ k ∧ k < fieldPos o + fieldLen o) := by
    rw [BitVec.getLsbD_shiftLeft, getLsbD_lowMask (by omega), Bool.eq_iff_iff]
    simp only [Bool.and_eq_true, decide_eq_true_eq, Bool.not_eq_true', decide_eq_false_iff_not]
    omega
  simp only [bitInsert, BitVec.getLsbD_or, BitVec.getLsbD_and, BitVec.getLsbD_not, hmask]
  by_cases hk : fieldPos o ≤ k ∧ k < fieldPos o + fieldLen o
  · have hk32 : k < 32 := by omega
    have hle : ¬ k < fieldPos o := by omega
    rw [BitVec.getLsbD_shiftLeft]; simp [hk, hk32, hle]
  · by_cases hk32 : k < 32
    · simp [hk, hk32]
    · simp [hk, hk32, BitVec.getLsbD_of_ge x k (by omega)]

/-- A word with its bit `p` set to `b` (R105). -/
def putBit (p : Nat) (x : Word) (b : Bool) : Word :=
  let m : Word := BitVec.ofNat 32 (1 <<< p)
  if b then x ||| m else x &&& ~~~ m

theorem getLsbD_putBit (p : Nat) (x : Word) (b : Bool) {k : Nat} (hk : k < 32) :
    (putBit p x b).getLsbD k = if k = p then b else x.getLsbD k := by
  have hone : (BitVec.ofNat 32 (1 <<< p)).getLsbD k = decide (k = p) := by
    rw [BitVec.getLsbD_ofNat, Nat.one_shiftLeft, Nat.testBit_two_pow]
    simp [hk, eq_comm]
  cases b
  · simp only [putBit, Bool.false_eq_true, if_false, BitVec.getLsbD_and, BitVec.getLsbD_not, hone]
    by_cases h : k = p <;> simp [h, hk]
  · simp only [putBit, if_true, BitVec.getLsbD_or, hone]
    by_cases h : k = p <;> simp [h]

end Sys2Proof.Machine
end

section
/-! SUPPORT. How the integer instructions run: their cells, operands and addresses, shifts, carries, skips and uniform
writes (R64 to R107). -/

namespace Sys2Proof.Machine

open Sys2Proof

/-! ## Cells -/

theorem widthCode_eq_fnW (w : Width) : widthCode w = fnW w := by cases w <;> rfl

/-- An instruction of two widths has its size bit as FN (R89). -/
theorem inCell_ofWidth {i : Instr} {cls : Cls} {page op : Nat} {w : Width} (hc : i.cls = cls)
    (h : i.cell? = some (page, op, widthCode w)) : InCell i cls page op (fnW w) :=
  ⟨hc, by rw [h, widthCode_eq_fnW]⟩

/-- The condition code of SKPI is its place among the ops from 22 on (R92, R106). -/
theorem skpi_inCell (c : Cond) (o : Opnds) : InCell (.skpi c o) .ix 0 (22 + condCode c) 0 := by
  cases c <;> exact ⟨rfl, rfl⟩

/-! ## Well-formed instructions -/

/-- What the checks of R75 leave of a well-formed instruction's register and queue fields. -/
theorem fields_of_wf {kind : CoreKind} {i : Instr} (h : i.wf kind = true) (hbr : ∀ o, i ≠ .br o) :
    i.needsReg = false ∧ (∀ u ∈ i.uses, u.1.bad5 u.2 = false) ∧ i.badQueue = false := by
  have herr : i.errs kind (maxNeed kind) = [] := by
    unfold Instr.wf at h
    split at h
    · exact absurd rfl (hbr _)
    · split at h
      · simp at h
      · split at h
        · simp at h
        · simpa using (Bool.and_eq_true_iff.mp h).2
  simp only [Instr.errs, Instr.errs1, List.append_eq_nil_iff, ite_eq_right_iff, reduceCtorEq, imp_false, Bool.not_eq_true,
    Bool.or_eq_false_iff] at herr
  obtain ⟨⟨⟨hreg, ⟨⟨huses, hqueue⟩, -⟩, -⟩, -⟩, -⟩ := herr
  exact ⟨hreg, fun u hu => by simpa using List.any_eq_false.mp huses u hu, hqueue⟩

/-- SEL reads x as a source, so its K-form names its registers with REG (R65, R104). -/
theorem sel_wf_reg {kind : CoreKind} {k : BitVec 4} {o : Opnds} (h : (Instr.sel k o).wf kind = true) (hf : o.form = .k) :
    o.reg = true := by
  obtain ⟨hreg, -, -⟩ := fields_of_wf h (by simp)
  have : o.two = false := hreg
  simpa [Opnds.two, hf] using this

/-- A well-formed NOP has every field 0 (R117). -/
theorem nop_wf_fields {kind : CoreKind} {o : Opnds} (h : (Instr.nop o).wf kind = true) :
    o.x = 0 ∧ o.y = 0 ∧ o.z = 0 ∧ o.zq = false ∧ o.xq = false ∧ o.wait = 0 := by
  obtain ⟨-, huses, hqueue⟩ := fields_of_wf h (by simp)
  have hopnds : (Instr.nop o).opnds = o := rfl
  have hsig : (Instr.nop o).sig = {} := rfl
  have hcls : (Instr.nop o).cls = .a := rfl
  obtain ⟨hzq, hwait, hxq⟩ : o.zq = false ∧ o.wait = 0 ∧ o.xq = false := by
    cases hz : o.zq
    · simpa [Instr.badQueue, hopnds, hsig, hz] using hqueue
    · simp [Instr.badQueue, hopnds, hsig, hz] at hqueue
  have hregs : o.x = 0 ∧ o.y = 0 ∧ o.z = 0 := by
    cases ht : o.two <;> simpa [Instr.uses, hcls, hopnds, hsig, hzq, hxq, ht, RegUse.bad5] using huses
  exact ⟨hregs.1, hregs.2.1, hregs.2.2, hzq, hxq, hwait⟩

/-! ## Operands -/

/-- The carry or borrow that an instruction on a pair x takes stands in bit 0 of g[x+1] (R98). -/
theorem toNat_carryIn {i : Instr} (hx : i.sig.x = .p) (a : Lane) :
    ((valsOf i a).x.getLsbD 32).toNat = (laneReg a (i.opnds.x.toNat + 1)).toNat % 2 := by
  simp only [valsOf, hx, readUse, lanePair, BitVec.getLsbD_append]
  simp [BitVec.getLsbD, Nat.toNat_testBit, -Nat.testBit_zero]

/-- Writing a pair writes its two registers. -/
theorem setLanePair_append (r : Nat) (hi lo : Word) (a : Lane) :
    setLanePair r (hi ++ lo) a = setLaneReg (r + 1) hi (setLaneReg r lo a) := by
  simp only [setLanePair, BitVec.extractLsb'_append_eq_left, BitVec.extractLsb'_append_eq_right]

/-- A 32-bit register operand is its low word. -/
theorem setWidth_a32 {i : Instr} (h : i.sig.s1 = .r) (a : Lane) : (a32 i a).setWidth 64 = (valsOf i a).s1 := by
  simp [a32, valsOf, h, readUse]

/-- A 32-bit register operand, or the head of a queue, is its low word. -/
theorem setWidth_b32 {i : Instr} (h : i.sig.s2 = .r) (a : Lane) : (b32 i a).setWidth 64 = (valsOf i a).s2 := by
  unfold b32 valsOf
  simp only [h, readUse]
  split <;> simp

/-- An operand that is no queue's head is read from its register. -/
theorem valsOf_s2 {i : Instr} (h : i.opnds.zq = false) (a : Lane) :
    (valsOf i a).s2 = readUse i.sig.s2 (s2Reg i.opnds) a := by simp [valsOf, h]

theorem getLsbD_x32 (i : Instr) (a : Lane) (k : BitVec 4) :
    (x32 i a).getLsbD k.toNat = (valsOf i a).x.getLsbD k.toNat := by
  have : k.toNat < 32 := by omega
  simp [x32, this]

/-! ## Addresses (R95) -/

theorem memAddr_mode0 {o : Opnds} (h : o.desc.mode = 0) (a : Lane) :
    memAddr o a = laneB a o.desc.base.toNat
      + (if o.desc.ext then (laneReg a o.y.toNat).signExtend 64 else (laneReg a o.y.toNat).setWidth 64)
        * BitVec.ofNat 64 (2 ^ o.desc.scale.toNat) + o.imm := by
  simp only [memAddr, h, ← Nat.one_shiftLeft]
  rfl

theorem memAddr_mode1 {o : Opnds} (h : o.desc.mode = 1) (a : Lane) :
    memAddr o a = laneB a o.desc.base.toNat + o.imm := by
  simp only [memAddr, h]; rfl

theorem memAddr_mode2 {o : Opnds} (h : o.desc.mode = 2) (a : Lane) :
    memAddr o a = (laneReg a (o.y.toNat + 1) ++ laneReg a o.y.toNat) + o.imm := by
  simp only [memAddr, h]; rfl

/-! ## Shifts by a register and by an immediate (R101) -/

/-- A shift or rotate by a register gives its function of the 32-bit s1 and of the low five bits of s2 (R101). -/
theorem gives_shiftReg {i : Instr} {s : State} {f : Word → Nat → Word} {g : Word → Nat → DWord}
    (he : exec i s = runVal i s (shiftReg f)) (h : Ready i.opnds s) (e : ∀ v n, (f v n).setWidth 64 = g v n) :
    Gives i s fun a => g (a32 i a) ((b32 i a).toNat % 32) := by
  refine gives_runVal he h fun a => ?_
  have hn : ((valsOf i a).s2.extractLsb' 0 5).toNat = (b32 i a).toNat % 32 := by
    rw [toNat_low5, b32, BitVec.toNat_setWidth]; omega
  rw [shiftReg, hn, e]; rfl

/-- A shift or rotate by an immediate gives its function of the 32-bit x and of the immediate's low five bits (R101). -/
theorem gives_shiftImm {i : Instr} {s : State} {f : Word → Nat → Word} {g : Word → Nat → DWord}
    (he : exec i s = shiftImm i s f) (h : Ready i.opnds s) (e : ∀ v n, (f v n).setWidth 64 = g v n) :
    Gives i s fun a => g (x32 i a) (i.opnds.imm.toNat % 32) := by
  refine gives_runImm he h fun a => ?_
  have hn : ((imm32 i.opnds).extractLsb' 0 5).toNat = i.opnds.imm.toNat % 32 := by
    rw [toNat_low5, imm32, BitVec.toNat_setWidth]; omega
  rw [hn, e]

/-! ## Sums with a carry (R98) -/

theorem adc_completes {o : Opnds} {s : State} (h : Ready o s) :
    Completes (.adc o) s fun l a =>
      let v := curLane s l
      let t := (a32 (.adc o) v).toNat + (b32 (.adc o) v).toNat + (laneReg v (o.x.toNat + 1)).toNat % 2
      setLaneReg (o.x.toNat + 1) (if 2 ^ 32 ≤ t then 1 else 0)
        (setLaneReg o.x.toNat (BitVec.ofNat 32 (t % 0x100000000)) (consume o a)) := by
  refine (completes_runLanes (exec_adc o s) h).congr fun l _ => ?_
  simp only [setLanePair_append, ofNat_mod_word, toNat_carryIn (i := .adc o) rfl]
  rfl

theorem sbc_completes {o : Opnds} {s : State} (h : Ready o s) :
    Completes (.sbc o) s fun l a =>
      let v := curLane s l
      let t : Int := (a32 (.sbc o) v).toNat - (b32 (.sbc o) v).toNat - ((laneReg v (o.x.toNat + 1)).toNat % 2 : Nat)
      setLaneReg (o.x.toNat + 1) (if t < 0 then 1 else 0)
        (setLaneReg o.x.toNat (BitVec.ofInt 32 (t % 0x100000000)) (consume o a)) := by
  refine (completes_runLanes (exec_sbc o s) h).congr fun l _ => ?_
  simp only [setLanePair_append, show (0x100000000 : Int) = 2 ^ 32 from rfl, ofInt_emod_two_pow,
    toNat_carryIn (i := .sbc o) rfl]
  rfl

/-! ## Skips (R106, R107) -/

/-- A skip sets the annul count of a lane where its condition holds, and elsewhere leaves it 0, for an executing lane annuls
nothing (R106, R107). -/
theorem completes_runSkip {i : Instr} {s : State} {holds p : Lane → Bool}
    (he : exec i s = runSkip i s fun a _ => holds a) (h : Ready i.opnds s)
    (hp : ∀ l a, holds (consume i.opnds (passLane i s l a)) = p a) :
    Completes i s fun l a =>
      if p (curLane s l) then { consume i.opnds a with annul := i.opnds.g.cnt.toNat + 1 }
      else { consume i.opnds a with annul := 0 } := by
  refine (completes_runLanes he h).congr fun l hl => ?_
  have h0 : (consume i.opnds (passLane i s l (curLane s l))).annul = 0 := by
    rw [consume_annul, passLane_annul_exec hl]
  simp only [hp]
  split
  · rfl
  · rw [← h0]

/-! ## Fields that are uniform in a course (R9, R94, R286) -/

/-- What writing a uniform field does to a lane of the issuing context (R9, R286). -/
def uniformLane {α : Type} (s : State) (val : Nat → α) (put : Lane → α → Lane) (l : Nat) (a : Lane) : Lane :=
  if execLanes s = [] then a
  else if (curCtx s).split || isStrand (curCtx s) then (if l ∈ execLanes s then put a (val l) else a)
  else put a (val (execHead s))

/-- A reading of a lane that no write of the field changes is as before. -/
theorem apply_uniformLane {α β : Type} {s : State} {put : Lane → α → Lane} {f : Lane → β}
    (hf : ∀ a v, f (put a v) = f a) (val : Nat → α) (l : Nat) (a : Lane) : f (uniformLane s val put l a) = f a := by
  simp only [uniformLane, apply_ite f, hf, ite_self]

/-- A write of a field that completing leaves alone may come before it or after it. -/
theorem passLane_uniformLane {α : Type} {i : Instr} {s : State} {put : Lane → α → Lane}
    (hpass : ∀ l a v, passLane i s l (put a v) = put (passLane i s l a) v) (val : Nat → α) (l : Nat) (a : Lane) :
    passLane i s l (uniformLane s val put l a) = uniformLane s val put l (passLane i s l a) := by
  simp only [uniformLane, apply_ite (passLane i s l), hpass]

/-- Writing a uniform field changes nothing but the contexts. -/
theorem putUniform_frame {α : Type} (s : State) (val : Nat → α) (put : Lane → α → Lane) :
    putUniform s val put = { s with ctxs := (putUniform s val put).ctxs } := by
  unfold putUniform
  cases execLanes s with
  | nil => rfl
  | cons h t => simp only; split <;> rfl

/-- Of the contexts, writing a uniform field changes lanes of the issuing one alone. -/
theorem getCtx_putUniform {α : Type} {s : State} (h : Issues s) (val : Nat → α) (put : Lane → α → Lane) (c : Nat) :
    getCtx (putUniform s val put) c
      = if c = s.cur.ctx then { curCtx s with lanes := (curCtx s).lanes.mapIdx (uniformLane s val put) }
        else getCtx s c := by
  have hnodup := nodup_execLanes h
  unfold putUniform uniformLane execHead
  cases hls : execLanes s with
  | nil =>
    simp only [if_true, mapIdx_eq_map, List.map_id']
    split
    · next hc => rw [hc]; rfl
    · rfl
  | cons l ls =>
    rw [hls] at hnodup
    by_cases hone : ((curCtx s).split || isStrand (curCtx s)) = true
    · simp [hone, modLanes_eq _ _ _ hnodup]
    · simp [hone, modAllLanes, mapIdx_eq_map]

/-- What completing does to a lane depends on the issuer, the lanes that share its pc, the next address and the core. -/
theorem passLane_congr {i : Instr} {s z : State} (hcur : z.cur = s.cur) (hlanes : pcLanes z = pcLanes s)
    (hnext : nextPc i z = nextPc i s) (hcore : (curCtx z).core = (curCtx s).core) : passLane i z = passLane i s := by
  unfold passLane
  rw [hcur, hlanes, hnext, hcore]

theorem passLane_setLaneB (i : Instr) (s : State) (l n : Nat) (v : DWord) (a : Lane) :
    passLane i s l (setLaneB n v a) = setLaneB n v (passLane i s l a) := by
  unfold passLane
  simp only
  split <;> split <;> split <;> rfl

/-- Completing after a write of a uniform field that is no part of the pc: each lane passes the instruction, and takes the
write. -/
theorem complete_putUniform {α : Type} {i : Instr} {s : State} (h : Issues s) (val : Nat → α) {put : Lane → α → Lane}
    (hpc : ∀ a v, (put a v).pc = a.pc) (hpass : ∀ l a v, passLane i s l (put a v) = put (passLane i s l a) v) :
    Becomes s (complete i (putUniform s val put))
      { curCtx s with lanes := (curCtx s).lanes.mapIdx fun l a => uniformLane s val put l (passLane i s l a) } := by
  have hframe := putUniform_frame s val put
  have hcur : (putUniform s val put).cur = s.cur := by rw [hframe]
  have hctx : curCtx (putUniform s val put)
      = { curCtx s with lanes := (curCtx s).lanes.mapIdx (uniformLane s val put) } := by
    rw [curCtx, hcur, getCtx_putUniform h, if_pos rfl]
  have hlanes : pcLanes (putUniform s val put) = pcLanes s := by
    simp [pcLanes, hctx, hcur, isStrand, allLanes]
  have hnext : nextPc i (putUniform s val put) = nextPc i s := by
    have hl (l : Nat) : (curLane (putUniform s val put) l).pc = (curLane s l).pc := by
      simp only [curLane, hctx, getLane_eq, List.getElem?_mapIdx]
      cases (curCtx s).lanes[l]? with
      | none => rfl
      | some a => exact apply_uniformLane (f := Lane.pc) hpc ..
    simp only [nextPc, curPc, hcur, hl]
  have hpasses := passLane_congr hcur hlanes hnext (by rw [hctx])
  obtain ⟨h1, h2⟩ := complete_becomes i (putUniform s val put) (by rw [Issues, hcur]; exact h)
  constructor
  · rw [h1, hframe]
  · intro c
    rw [h2, hcur, hctx, hpasses, getCtx_putUniform h]
    simp only [List.mapIdx_mapIdx, Function.comp_def, passLane_uniformLane hpass]
    split <;> rfl

/-- MOVB to a b register (R93, R94). -/
theorem movbToB_becomes {o : Opnds} {s : State} (h : Issues s) (hz : o.zq = false) :
    ∃ t, exec (.movbToB o) s = .next t ∧ Becomes s t
      { curCtx s with
        lanes := (curCtx s).lanes.mapIdx fun l a =>
          uniformLane s (fun k => lanePair (curLane s k) (s2Reg o).toNat) (fun b v => setLaneB o.x.toNat v b) l
            (passLane (.movbToB o) s l a) } := by
  have hval (l : Nat) : (valsOf (.movbToB o) (curLane s l)).s2 = lanePair (curLane s l) (s2Reg o).toNat :=
    valsOf_s2 (i := .movbToB o) hz _
  refine ⟨_, exec_movbToB o s, ?_⟩
  simp only [hval]
  exact complete_putUniform h _ (fun _ _ => rfl) fun l a v => passLane_setLaneB ..

end Sys2Proof.Machine
end

section
/-! PROOF. The obligations of the integer instructions and skips (R92 to R107, R117). -/

namespace Sys2Proof.Machine

open Sys2Proof

/-- Settles O1: each instruction runs its function of the operands, and the model's clamped sums, picks and negations are
the integer values of R96. -/
theorem sumsAndLogicResults : Obligations.SumsAndLogicResults := by
  unfold Obligations.SumsAndLogicResults
  exact ⟨fun o s h => ⟨
    gives_runVal (exec_add o s) h fun _ => rfl,
    gives_runVal (exec_sub o s) h fun _ => rfl,
    gives_runVal (exec_and o s) h fun _ => rfl,
    gives_runVal (exec_or o s) h fun _ => rfl,
    gives_runVal (exec_xor o s) h fun _ => rfl,
    gives_runVal (exec_not o s) h fun _ => rfl,
    givesW_runVal (exec_adds .w32 o s) (exec_adds .w64 o s) h h fun n _ _ _ => by rw [addSat, clampSigned_eq_min_max],
    givesW_runVal (exec_subs .w32 o s) (exec_subs .w64 o s) h h fun n _ _ _ => by rw [subSat, clampSigned_eq_min_max],
    givesW_runVal (exec_min .w32 o s) (exec_min .w64 o s) h h fun n a b _ => pick_signed false n a b,
    givesW_runVal (exec_max .w32 o s) (exec_max .w64 o s) h h fun n a b _ => pick_signed true n a b,
    givesW_runVal (exec_minn .w32 o s) (exec_minn .w64 o s) h h fun n a b _ => pick_natural false n a b,
    givesW_runVal (exec_maxn .w32 o s) (exec_maxn .w64 o s) h h fun n a b _ => pick_natural true n a b,
    givesW_runVal (exec_abs .w32 o s) (exec_abs .w64 o s) h h fun n _ b _ => negateIfNegative_eq_abs n b,
    givesW_runVal (exec_neg .w32 o s) (exec_neg .w64 o s) h h fun n _ b _ => negate_eq_ofInt n b,
    givesW_runVal (exec_andn .w32 o s) (exec_andn .w64 o s) h h fun _ _ _ _ => rfl,
    givesW_runVal (exec_orn .w32 o s) (exec_orn .w64 o s) h h fun _ _ _ _ => rfl,
    ⟨rfl, rfl⟩, ⟨rfl, rfl⟩, ⟨rfl, rfl⟩, ⟨rfl, rfl⟩, ⟨rfl, rfl⟩, ⟨rfl, rfl⟩,
    fun w => ⟨inCell_ofWidth rfl rfl, inCell_ofWidth rfl rfl, inCell_ofWidth rfl rfl, inCell_ofWidth rfl rfl,
      inCell_ofWidth rfl rfl, inCell_ofWidth rfl rfl, inCell_ofWidth rfl rfl, inCell_ofWidth rfl rfl,
      inCell_ofWidth rfl rfl, inCell_ofWidth rfl rfl⟩⟩,
    fun o s h => ⟨
    adc_completes h,
    sbc_completes h,
    gives_runImm (exec_addi o s) h fun a => by rw [add_eq_ofNat]; rfl,
    ⟨rfl, rfl⟩, ⟨rfl, rfl⟩, ⟨rfl, rfl⟩⟩⟩

/-- Settles O2: products and quotients by the model's functions, with the two corners of R100. -/
theorem productAndQuotientResults : Obligations.ProductAndQuotientResults := by
  unfold Obligations.ProductAndQuotientResults
  have hpos : ∀ {n : Nat}, n = 32 ∨ n = 64 → 0 < n := by omega
  exact ⟨fun o s h => ⟨
    givesW_runVal (exec_mul .w32 o s) (exec_mul .w64 o s) h h fun n a b _ => mul_eq_ofNat n a b,
    givesW_runVal (exec_mulh .w32 o s) (exec_mulh .w64 o s) h h fun n a b _ => mulHi_signed n a b,
    givesW_runVal (exec_mulhn .w32 o s) (exec_mulhn .w64 o s) h h fun _ _ _ _ => rfl,
    completes_runLanes (exec_mulw .w32 o s) h,
    completes_runLanes (exec_mulw .w64 o s) h,
    fun w => ⟨inCell_ofWidth rfl rfl, inCell_ofWidth rfl rfl, inCell_ofWidth rfl rfl, inCell_ofWidth rfl rfl⟩⟩,
    fun o s h => ⟨
    givesW_runVal (exec_div .w32 o s) (exec_div .w64 o s) h h fun _ a b hn => divQ_signed (hpos hn) a b,
    givesW_runVal (exec_rem .w32 o s) (exec_rem .w64 o s) h h fun n a b _ => divR_signed n a b,
    givesW_runVal (exec_divn .w32 o s) (exec_divn .w64 o s) h h fun n a b _ => divQ_natural n a b,
    givesW_runVal (exec_remn .w32 o s) (exec_remn .w64 o s) h h fun n a b _ => divR_natural n a b,
    fun w => ⟨inCell_ofWidth rfl rfl, inCell_ofWidth rfl rfl, inCell_ofWidth rfl rfl, inCell_ofWidth rfl rfl⟩⟩⟩

/-- Settles O3: shifts by their arithmetic values, counts and reversals bit by bit. -/
theorem shiftCountAndReversalResults : Obligations.ShiftCountAndReversalResults := by
  unfold Obligations.ShiftCountAndReversalResults
  refine ⟨?_, ?_⟩
  · intro shl shr sar rol ror o s h
    exact ⟨
      gives_shiftReg (g := shl) (exec_shlReg o s) h setWidth_shiftLeft,
      gives_shiftReg (g := shr) (exec_shrReg o s) h setWidth_ushiftRight,
      gives_shiftReg (g := sar) (exec_sarReg o s) h setWidth_sshiftRight,
      gives_shiftReg (g := rol) (exec_rolReg o s) h setWidth_rotL,
      gives_shiftReg (g := ror) (exec_rorReg o s) h setWidth_rotR,
      gives_shiftImm (g := shl) (exec_shlImm o s) h setWidth_shiftLeft,
      gives_shiftImm (g := shr) (exec_shrImm o s) h setWidth_ushiftRight,
      gives_shiftImm (g := sar) (exec_sarImm o s) h setWidth_sshiftRight,
      gives_shiftImm (g := rol) (exec_rolImm o s) h setWidth_rotL,
      gives_shiftImm (g := ror) (exec_rorImm o s) h setWidth_rotR,
      ⟨rfl, rfl⟩, ⟨rfl, rfl⟩, ⟨rfl, rfl⟩, ⟨rfl, rfl⟩, ⟨rfl, rfl⟩, ⟨rfl, rfl⟩, ⟨rfl, rfl⟩, ⟨rfl, rfl⟩, ⟨rfl, rfl⟩, ⟨rfl, rfl⟩⟩
  · intro w o s h n
    have hn : n = widthBits w := by cases w <;> rfl
    clear_value n
    subst hn
    exact ⟨
      ⟨_, gives_runVal (exec_clz w o s) h fun _ => rfl, fun v =>
        ⟨leadZeros_le v _, getLsbD_above_leadZeros v _, getLsbD_at_leadZeros v _⟩⟩,
      ⟨_, gives_runVal (exec_ctz w o s) h fun _ => rfl, fun v =>
        ⟨trailZeros_le v 0 _, fun j hj => by simpa using getLsbD_below_trailZeros v 0 _ j hj,
          fun ht => by simpa using getLsbD_at_trailZeros v 0 _ ht⟩⟩,
      gives_runVal (exec_popc w o s) h fun a => by rw [popCount_eq_countP],
      ⟨_, gives_runVal (exec_brev w o s) h fun _ => rfl, fun v j => getLsbD_revBits v _ j (widthBits_le w)⟩,
      ⟨_, gives_runVal (exec_bswp w o s) h fun _ => rfl, fun v k j => getLsbD_revBytes v _ k j (widthBits_bytes w)⟩,
      inCell_ofWidth rfl rfl, inCell_ofWidth rfl rfl, inCell_ofWidth rfl rfl, inCell_ofWidth rfl rfl, inCell_ofWidth rfl rfl,
      rfl, rfl, rfl⟩

/-- Settles O4: fields bit by bit, SEL and the predicates by the conditions, which compare as R92 says. -/
theorem bitFieldSelectAndPredicateResults : Obligations.BitFieldSelectAndPredicateResults := by
  unfold Obligations.BitFieldSelectAndPredicateResults
  refine ⟨?_, ?_, ?_⟩
  · intro o s h pos f
    have hpos : pos = fieldPos o := (fieldPos_eq o).symm
    have hf : f = fieldLen o := (fieldLen_eq o).symm
    clear_value f pos
    subst hpos hf
    exact ⟨
      ⟨bitField true o, gives_runVal (exec_bfx o s) h fun _ => rfl, fun v k => getLsbD_bitField_signed o v⟩,
      ⟨bitField false o, gives_runVal (exec_bfxn o s) h fun _ => rfl, getLsbD_bitField_natural o⟩,
      ⟨bitInsert o, gives_runVal (exec_bfi o s) h fun _ => rfl, getLsbD_bitInsert o⟩,
      fun k => gives_runVal (exec_sel k o s) h fun a => by
        rw [getLsbD_x32, apply_ite (BitVec.setWidth 64), setWidth_a32 rfl, setWidth_b32 rfl],
      fun c => gives_runVal (exec_setc c o s) h fun a => apply_ite (BitVec.setWidth 64) ..,
      fun c => ⟨putBit (o.imm.toNat % 32), gives_runVal (exec_setb c o s) h fun a => by rw [← toNat_low5]; rfl,
        fun x b k => getLsbD_putBit _ x b⟩⟩
  · exact fun o => ⟨fun k => ⟨rfl, rfl⟩, fun kind k => sel_wf_reg,
      fun c => ⟨⟨rfl, rfl⟩, ⟨rfl, rfl⟩, skpi_inCell c o⟩⟩
  · intro n a b
    exact ⟨beq_iff_eq, bne_iff_ne, BitVec.slt_iff_toInt_lt, BitVec.sle_iff_toInt_le, BitVec.slt_iff_toInt_lt,
      BitVec.sle_iff_toInt_le, BitVec.ult_iff_toNat_lt, BitVec.ule_iff_toNat_le, BitVec.ult_iff_toNat_lt,
      BitVec.ule_iff_toNat_le, rfl, rfl, rfl, rfl, rfl, rfl, rfl, rfl, rfl, rfl⟩

/-- Settles O5: moves and addresses by their operands, MOVB as the write of a uniform field, skips by their annul count. -/
theorem movesAddressesAndSkips : Obligations.MovesAddressesAndSkips := by
  unfold Obligations.MovesAddressesAndSkips
  refine ⟨fun o s h => ⟨
    gives_runVal (exec_mov o s) h fun a => (setWidth_b32 rfl a).symm,
    gives_runImm (exec_movi o s) h fun _ => rfl,
    fun hz => gives_runVal (exec_movbToG o s) h fun a => valsOf_s2 (i := .movbToG o) hz a,
    completes_runLanes (exec_lea o s) h,
    fun a => ⟨(memAddr_mode0 · a), (memAddr_mode1 · a), (memAddr_mode2 · a)⟩,
    completes_runLanes (exec_nop o s) h, ⟨rfl, rfl⟩, fun _ => nop_wf_fields, by decide, by decide,
    movbToB_becomes h.1⟩, fun o s h => ?_⟩
  intro n put
  exact ⟨
    fun c => completes_runSkip (p := fun a => condHolds c (laneReg a o.x.toNat) (laneReg a o.y.toNat)) (exec_skp c o s) h
      fun l a => by simp,
    fun c => completes_runSkip (p := fun a => condHolds c (laneReg a o.x.toNat) (o.imm.setWidth 32)) (exec_skpi c o s) h
      fun l a => by simp [imm32],
    completes_runSkip (p := fun a => (laneReg a o.x.toNat).getLsbD o.y.toNat == true) (exec_skbSet o s) h
      fun l a => by simp,
    completes_runSkip (p := fun a => (laneReg a o.x.toNat).getLsbD o.y.toNat == false) (exec_skbClr o s) h
      fun l a => by simp⟩

end Sys2Proof.Machine
end
